-- ==== Sys2Proof/Word.lean ====
section
/-! DEFINITION. The words of the machine (bytes, addresses, 64-bit scalars) and the sparse table that
holds every numbered group of registers: a list of (number, value) pairs in one canonical form. -/

namespace Sys2Proof

/-- One byte of memory. -/
abbrev Byte := BitVec 8
/-- A scalar register or an instruction word (R371, R374). -/
abbrev Word := BitVec 64
/-- A 57-bit device address (R429). -/
abbrev DevAddr := BitVec 57
/-- A module coordinate, x y z w in 3, 3, 4 and 4 bits (R285). -/
abbrev Coord := BitVec 14
/-- The 64 bytes of a descriptor or of a ring entry, byte 0 in bits [7:0] (R10). -/
abbrev Line := BitVec 512

/-- A sparse table: the listed numbers hold what they are listed with, every other number holds the
table's rest value. Canonical: numbers strictly rising, and no number listed with the rest value. -/
abbrev Table (α : Type) := List (Nat × α)

namespace Table

variable {α : Type}

/-- The value at number `k`; `d` where none is listed. -/
def get (t : Table α) (k : Nat) (d : α) : α :=
  match t with
  | [] => d
  | (i, v) :: r => if i = k then v else if k < i then d else get r k d

/-- The listed value at number `k`, if there is one. -/
def find? (t : Table α) (k : Nat) : Option α :=
  match t with
  | [] => none
  | (i, v) :: r => if i = k then some v else if k < i then none else find? r k

/-- The table with number `k` no longer listed. -/
def drop (t : Table α) (k : Nat) : Table α :=
  match t with
  | [] => []
  | (i, v) :: r => if i = k then r else if k < i then (i, v) :: r else (i, v) :: drop r k

/-- The table with number `k` listed with `v`. -/
def put (t : Table α) (k : Nat) (v : α) : Table α :=
  match t with
  | [] => [(k, v)]
  | (i, w) :: r =>
    if i = k then (k, v) :: r else if k < i then (k, v) :: (i, w) :: r else (i, w) :: put r k v

/-- The table after number `k` takes `v`, in canonical form for the rest value `d`. -/
def set [DecidableEq α] (t : Table α) (k : Nat) (v d : α) : Table α :=
  if v = d then t.drop k else t.put k v

end Table

/-- The little-endian number that a list of bytes spells (R10). -/
def leNat : List Byte → Nat
  | [] => 0
  | b :: r => b.toNat + 256 * leNat r

/-- `n` bytes of a number, little-endian (R10). -/
def leBytes : Nat → Nat → List Byte
  | 0, _ => []
  | n + 1, v => BitVec.ofNat 8 v :: leBytes n (v / 256)

/-- Bits [lo + w - 1 : lo] of a number (R9). -/
def bitsOf (v lo w : Nat) : Nat := (v >>> lo) % 2 ^ w

end Sys2Proof
end

