-- ==== Sys2Proof/Syntax.lean ====
section
/-! DEFINITION. The commands of the block: one constructor of Instr for each row of
spec/opcode_table.json, with the row's operands. -/

namespace Sys2Proof

/-- The job context that issues: logical spindle (R106) and context number (R371). -/
structure Who where
  lspn : BitVec 8
  ctx  : BitVec 2
  deriving DecidableEq, Repr, Inhabited

/-- The fields of an S-format word below MAJOR (R374). -/
structure SForm where
  dst  : BitVec 5
  src1 : BitVec 5
  src2 : BitVec 5
  imm  : BitVec 43
  deriving DecidableEq, Repr, Inhabited

/-- The fields of an E-format word below MAJOR (R375). -/
structure EForm where
  desc  : BitVec 8
  tile  : BitVec 6
  kout  : BitVec 6
  kwait : BitVec 6
  mod   : BitVec 32
  deriving DecidableEq, Repr, Inhabited

/-- The five engines of a spindle (R115). -/
inductive Engine where
  | array | vector | inReel | outReel | twist
  deriving DecidableEq, Repr, Inhabited

/-- A physical upset that meets an operation (R516 to R518, R520, R525, R526, R334). Of a group that the operation forms, from whose
value the `len` bytes written from number `at_` on are formed (of an array pass, element `at_` of its tile): an error `d` in the
value, counted in its own fixed-point units, and `again` its error when the group is formed again; an alignment shift of `x`
right by `m` places that gives `y` and discards `cut`; a log add that gives `sum` for its three terms; an error in the residue bits
alone. Of the accumulator store: `flips` bits of the word `word` that holds element `elem` of the tile, which change its value by `d`
and its residue by `res`. Of a table: a read whose parity fails in one copy, or in both. `again` says that the check fails again
after the repeat. Whether a check finds an error is the residue's matter (R517). An upset comes from the physical environment. -/
inductive Upset where
  | none
  | value (at_ len : Nat) (d again : Int)
  | shift (at_ len : Nat) (x y cut : Int) (m : Nat) (again : Bool)
  | logAdd (at_ len : Nat) (larger v slope sum : Int) (again : Bool)
  | bits (again : Bool)
  | store (word : BitVec 19) (elem flips : Nat) (d : Int) (res : BitVec 3) (again : Bool)
  | table (both again : Bool)
  deriving DecidableEq, Repr, Inhabited

/-- What a patrol scrub finds in a word (R451). -/
inductive EccFound where
  | clean | corrected | uncorrectable
  deriving DecidableEq, Repr, Inhabited

/-- What a host asks of a function's configuration (R491, R582): a read, the number of virtual functions that it enables, or an entry of
the function's MSI-X table. -/
inductive CfgReq where
  | read | vfs (n : BitVec 5) | vector (v : BitVec 6) (entry : BitVec 128)
  deriving DecidableEq, Repr, Inhabited

/-- A configuration request and the function that it goes to (R491, R582). -/
structure CfgTo where
  fn  : BitVec 5
  req : CfgReq
  deriving DecidableEq, Repr, Inhabited

/-- A break of a ring (R472): the direction on which this module has lost its neighbour, and where else the ring of that dimension is
broken, if it is. -/
structure RingBreak where
  dir   : BitVec 3
  other : Option Nat
  deriving DecidableEq, Repr, Inhabited

/-- The transports that carry management (R564 to R567). -/
inductive Transport where
  | doe | i3c | ethernet
  deriving DecidableEq, Repr, Inhabited

/-- Where a datagram comes from (R566): the MAC address, the IPv4 address and the UDP port. -/
structure Src where
  mac  : BitVec 48
  ip   : BitVec 32
  port : BitVec 16
  deriving DecidableEq, Repr, Inhabited

/-- Where a request comes from (R564, R566): the transport, and over Ethernet the datagram's source. -/
structure Peer where
  tr  : Transport
  src : Src
  deriving DecidableEq, Repr, Inhabited

/-- A PTP message (R570, R571): its domain, whether it comes over Ethernet alone or over UDP, and the time in nanoseconds that it
carries. -/
structure PtpMsg where
  domain : BitVec 8
  eth    : Bool
  time   : Word
  deriving DecidableEq, Repr, Inhabited

/-- The proof of OPEN_PROOF, with the source of its datagram (R566, R567). -/
structure Proof where
  mac : BitVec 512
  src : Src
  deriving DecidableEq, Repr, Inhabited

/-- The 24-byte packet header (R468), field by field. -/
structure PHdr where
  dst   : BitVec 16
  src   : BitVec 16
  ctl   : BitVec 8
  flow  : BitVec 8
  len   : BitVec 16
  fjob  : BitVec 16
  flags : BitVec 8
  xt    : BitVec 8
  pseq  : BitVec 32
  tag   : BitVec 64
  deriving DecidableEq, Repr, Inhabited

/-- The envelope of a session message (R567): session id, sequence number, tag and body, and the source of a datagram (R566). -/
structure Msg where
  sid  : BitVec 32
  seq  : BitVec 64
  mac  : BitVec 256
  body : List Byte
  src  : Src
  deriving DecidableEq, Repr, Inhabited

/-- A debug token (R569). -/
structure Token where
  serial  : BitVec 64
  nonce   : BitVec 64
  scope   : BitVec 8
  signer  : BitVec 8
  modulus : BitVec 4096
  sig     : BitVec 4096
  deriving DecidableEq, Repr, Inhabited

/-- What an evaluation's forward run gives for one token (R316): the KL of R305 as binary64, the
student's argmax and the teacher's first candidate. -/
structure EvalToken where
  kl      : BitVec 64
  student : BitVec 32
  teacher : BitVec 32
  deriving DecidableEq, Repr, Inhabited

/-- The registers that a message, the host or the mill names (the Registers section of 00_scope, and
R108 to R588 for each). -/
inductive Reg where
  | millSpmap (n : BitVec 8) | millSite (p : BitVec 9) | millSitet (p : BitVec 9)
  | millRstat (n : BitVec 2) | millSpot | millTwcfg | millRcfg
  | frmPwrctl (f : BitVec 5) | frmShctl (f : BitVec 5) | frmShptr (f : BitVec 5)
  | frmShtake (f : BitVec 5) | frmDvfs (f : BitVec 5)
  | arrLimstat (l : BitVec 8) | spnBpart (w : Who) | spnCfault (w : Who) | spnCfinst (w : Who)
  | jobCnt (c : BitVec 8) | jobRcfg (f : BitVec 5) | jobRbase (f : BitVec 5) | jobCbase (f : BitVec 5)
  | sknLcfg | sknCoord | sknCinuse | sknTsrc | sknLstat (l : BitVec 6) | sknLerr (l : BitVec 6)
  | mgtNetcfg | mgtI3c | secStat | secMeas (n : BitVec 4)
  | timeNow | timeAdj | timeOffs | timePpsin | timeCtl | timeCmp (u : BitVec 3) | timeCmpctl
  | baroNext | baroOldp | baroOldx | baroSize
  | pbWear (n : BitVec 15) | pwrStat | pwrSave (n : BitVec 12)
  | ctxReg (w : Who) (n : BitVec 8)
  deriving DecidableEq, Repr, Inhabited

/-- The commands: one for each row of the table. Controller rows carry the issuing context and the
word's fields; their meaning takes the row's own MAJOR and FUNC. -/
inductive Instr where
  -- scalar ALU (R400)
  | aluAdd (w : Who) (f : SForm) | aluSub (w : Who) (f : SForm) | aluAnd (w : Who) (f : SForm)
  | aluOr (w : Who) (f : SForm) | aluXor (w : Who) (f : SForm) | aluSll (w : Who) (f : SForm)
  | aluSrl (w : Who) (f : SForm) | aluSra (w : Who) (f : SForm) | aluMin (w : Who) (f : SForm)
  | aluMax (w : Who) (f : SForm) | aluMinu (w : Who) (f : SForm) | aluMaxu (w : Who) (f : SForm)
  | aluSlt (w : Who) (f : SForm) | aluSltu (w : Who) (f : SForm) | aluClz (w : Who) (f : SForm)
  | aluPopc (w : Who) (f : SForm) | addi (w : Who) (f : SForm) | lih (w : Who) (f : SForm)
  | ld (w : Who) (f : SForm) | st (w : Who) (f : SForm) | aadd (w : Who) (f : SForm)
  | amov (w : Who) (f : SForm) | aget (w : Who) (f : SForm) | cmppEq (w : Who) (f : SForm)
  | cmppNe (w : Who) (f : SForm) | cmppLt (w : Who) (f : SForm) | cmppLtu (w : Who) (f : SForm)
  | cmppLe (w : Who) (f : SForm) | cmppLeu (w : Who) (f : SForm) | pand (w : Who) (f : SForm)
  | por (w : Who) (f : SForm) | pnot (w : Who) (f : SForm)
  -- branch and loop (R401), tasks (R403), knots and steps (R383, R392), context registers (R372)
  | br (w : Who) (f : SForm) | loop (w : Who) (f : SForm) | endl (w : Who) (f : SForm)
  | taskPush (w : Who) (f : SForm) | taskPop (w : Who) (f : SForm)
  | syncKwait (w : Who) (f : SForm) | syncKjoin (w : Who) (f : SForm) | syncKread (w : Who) (f : SForm)
  | syncFence (w : Who) (f : SForm) | syncStep (w : Who) (f : SForm)
  | sysRd (w : Who) (f : SForm) | sysWr (w : Who) (f : SForm) | sysEnd (w : Who) (f : SForm)
  | sysNop (w : Who) (f : SForm)
  -- array (R405, R408, R409)
  | mxF (w : Who) (f : EForm) | mxH (w : Who) (f : EForm) | mxQ (w : Who) (f : EForm)
  | mxRib32 (w : Who) (f : EForm) | mxRib16 (w : Who) (f : EForm)
  | accOpen (w : Who) (f : EForm) | accDrain (w : Who) (f : EForm)
  -- vector engine (R411 to R417)
  | veAdd (w : Who) (f : EForm) | veSub (w : Who) (f : EForm) | veMul (w : Who) (f : EForm)
  | veNeg (w : Who) (f : EForm) | veAbs (w : Who) (f : EForm) | veCmpEq (w : Who) (f : EForm)
  | veCmpLt (w : Who) (f : EForm) | veCmpLe (w : Who) (f : EForm) | veSel (w : Who) (f : EForm)
  | veMax (w : Who) (f : EForm) | veMin (w : Who) (f : EForm) | veCvt (w : Who) (f : EForm)
  | veRecip (w : Who) (f : EForm) | veSqrt (w : Who) (f : EForm) | veRsqrt (w : Who) (f : EForm)
  | veLog2 (w : Who) (f : EForm) | veLn (w : Who) (f : EForm) | veExp (w : Who) (f : EForm)
  | veSigmoid (w : Who) (f : EForm) | veSum (w : Who) (f : EForm) | veSumsq (w : Who) (f : EForm)
  | veLsum (w : Who) (f : EForm) | veLse (w : Who) (f : EForm) | veSoftmax (w : Who) (f : EForm)
  | veMaxr (w : Who) (f : EForm) | veMinr (w : Who) (f : EForm) | vePow (w : Who) (f : EForm)
  | veTopk (w : Who) (f : EForm) | veTopkmerge (w : Who) (f : EForm) | veCombine (w : Who) (f : EForm)
  | veKltopk (w : Who) (f : EForm) | veQz (w : Who) (f : EForm) | veAmax (w : Who) (f : EForm)
  | veDq (w : Who) (f : EForm) | veXpose (w : Who) (f : EForm)
  -- update, reels, pipelines, Twist, shuttles (R418 to R422)
  | updStat (w : Who) (f : EForm) | updApply (w : Who) (f : EForm)
  | reelIn (w : Who) (f : EForm) | reelOut (w : Who) (f : EForm) | reelPsend (w : Who) (f : EForm)
  | syncPrecv (w : Who) (f : EForm)
  | twBits (w : Who) (f : EForm) | twMask (w : Who) (f : EForm) | twUnif (w : Who) (f : EForm)
  | shutScan (w : Who) (f : EForm) | shutEmit (w : Who) (f : EForm) | shutTake (w : Who) (f : EForm)
  | shutFree (w : Who) (f : EForm)
  -- engines (R379, R380) and the array limiter (R154, R155)
  | operationStart (w : Who) (e : Engine) (held : Bool) (us : List Upset)
  | knotSignal (w : Who) (e : Engine)
  | levelInterval (l : BitVec 8) (work : BitVec 5)
  | drizzleGapExpiry (l : BitVec 8)
  -- steps (R521, R522, R527); a job is named by its number in the mill
  | stepCommit (job : Nat) (u : Upset) | jobBoundary (job : Nat) (u : Upset) | stepReplay (job : Nat)
  -- jobs and host (R491 to R515)
  | commandRingPoll (client : BitVec 8)
  | submit (client : BitVec 8) (ref : Word) (entry : Line)
  | stop (client : BitVec 8) (ref : Word) (entry : Line)
  | resume (client : BitVec 8) (ref : Word) (entry : Line)
  | abort (client : BitVec 8) (ref : Word) (entry : Line)
  | jobPlace (job : Nat) | fillWaitLimit (job : Nat) | jobSwitchOut (job : Nat) | jobSwitchIn (job : Nat)
  | pageMigrate (job : Nat) (page : Nat) | completionWrite (client : BitVec 8)
  | jobRcfgWrite (fn : BitVec 5) (v : Word) | functionLevelReset (fn : BitVec 5)
  | busMasterEnableClear (fn : BitVec 5) | remoteCommand (src : Coord) (ref : Word) (entry : Line)
  | registerWrite (r : Reg) (v : Word) (fails : Bool)
  -- campaigns (R313 to R318)
  | intakePoll (job : Nat) | checkpointReport (job : Nat) | checkpointFail (job : Nat)
  | evaluation (job : Nat) (toks : List EvalToken) | campaignEnd (job : Nat) | reportWrite (job : Nat)
  -- shuttles and pipelines over the fabric (R303, R304, R311, R366, R368)
  | shuttleRecord (h : PHdr) (slot : List Byte) | shuttleCredit (h : PHdr)
  | creditReturn (frame : BitVec 5) | shuttleRewind (h : PHdr)
  | pipeMessage (h : PHdr) (data : List Byte) | pipeCommitNotice (h : PHdr)
  -- links (R456 to R472)
  | flitReceive (link : BitVec 6) (flit : List Byte) (fixed : List Nat)
  | linkReplayRequest (link : BitVec 6) (fseq : BitVec 12) | laneSpare (link : BitVec 6) (lane : BitVec 3)
  | linkFail (link : BitVec 6) | linkRetrain (link : BitVec 6) (trained : Bool)
  | linkDiscovery (link : BitVec 6) (theirs : BitVec 32) (nlink : BitVec 6) | neighbourLost (g : RingBreak)
  -- collectives (R475 to R485)
  | collectiveStart (job : Nat) (entry : BitVec 6) (u : Upset) | collectiveData (h : PHdr) (data : List Byte)
  | contributionDigest (h : PHdr) (dig : BitVec 128) (u : Upset) | collectiveAck (h : PHdr) | resend (h : PHdr)
  | scatterAdd (h : PHdr) (data : List Byte) | collectiveEnd (job : Nat) (entry : BitVec 6)
  -- fabric time (R488, R489)
  | fabricSyncSend | fabricSync (link : BitVec 6) (tag : Word) | delayMeasure
  | delayReq (link : BitVec 6) (tag : Word) | delayResp (link : BitVec 6) (tag : Word) | fabricHoldover
  -- memory (R427, R449 to R454); an address is a key of the physical memory
  | cxlPortLost (port : Bool) | cxlRetrain (port : Bool) (trained : Bool) (ids : List (Word × Word))
  | cxlGiveUp (port : Bool)
  | hbmRequest (stack : BitVec 4) (unit : BitVec 30) (store : Option Line)
  | atomicFp32Add (addr : Nat) (v : BitVec 32) | atomicFp32Max (addr : Nat) (v : BitVec 32)
  | atomicU64Add (addr : Nat) (v : Word) | atomicByteOr (addr : Nat) (v : Byte)
  | patrolScrub (addr : Nat) (found : EccFound)
  -- reliability (R123, R532 to R537)
  | spotTestDue (site : BitVec 9) | spotTestDeferExpiry (site : BitVec 9)
  | spotTestComplete (site : BitVec 9) (d1 d2 d3 : BitVec 128) | spotTestRetry (site : BitVec 9)
  | twinSampleCompare (sample : Nat) (dig : BitVec 128) | commandCoreFail (core : BitVec 3)
  -- sessions (R567, R568)
  | openReq (from_ : Peer) (cred : BitVec 8) (nc : BitVec 256) | openProof (sid : BitVec 32) (proof : Proof)
  | close (m : Msg) | sessionChallengeExpiry (sid : BitVec 32) | sessionIdleTimeout (sid : BitVec 32)
  | credentialBarExpiry (cred : BitVec 8)
  | regRead (m : Msg) (r : Reg) | regWrite (m : Msg) (r : Reg) (v : Word) (fails : Bool)
  | baroRead (m : Msg) (seq : Word) | baroClear (m : Msg) (seq : Word)
  | jobCmd (m : Msg) (entry : Line) | jobDone (m : Msg)
  | credSet (m : Msg) (idx : BitVec 8) (entry : BitVec 1024) | credDel (m : Msg) (idx : BitVec 8)
  | bind (m : Msg) (client : BitVec 8) (v : Word) | fwWrite (m : Option Msg) (image : List Byte)
  | arbCommit (m : Msg) | measExtend (m : Msg) (n : BitVec 4) (d : BitVec 512)
  | release (m : Msg) (key sig : BitVec 4096)
  | claim (t : Transport) (key : BitVec 4096) (cred : BitVec 1024) (sig : BitVec 4096)
  | provision (key sig : BitVec 4096) | revoke (key sig : BitVec 4096)
  -- attestation (R564), transports (R565, R566), JTAG (R569, R592)
  | getVersion (p : Peer) | getCapabilities (p : Peer) | negotiateAlgorithms (p : Peer)
  | getDigests (p : Peer) | getCertificate (p : Peer) (slot : BitVec 4) (off len : BitVec 16)
  | challenge (p : Peer) (slot : BitVec 4) (nonce : BitVec 256)
  | getMeasurements (p : Peer) (idx : BitVec 8) (signed : Bool) (nonce : BitVec 256)
  | entdaa (da : BitVec 7) | rstdaa | ethernetLinkUp | ethernetLinkDown
  | arpRequest (target sender : BitVec 32) (mac : BitVec 48)
  | icmpEcho (dst : BitVec 32) (src : Src) (data : List Byte)
  | bypass (tdi : List Bool) | idcode | samplePreload (preload : List Bool) | extest (pins : List Bool)
  | dbgNonce | dbgToken (t : Token) | dbgTrigClaim | dbgTrigRelease
  -- time (R570 to R572)
  | ptpSync (m : PtpMsg) | ptpDelayResp (m : PtpMsg) | ptpHoldover | ptpDelayRequest
  | ppsInEdge | ppsOut | compareFire (u : BitVec 3)
  -- power (R577 to R595)
  | startUp | startUpAbort | perstDeassert | perstAssert | configRequest (ask : CfgTo) | moduleReset
  | brownoutSave (cause : BitVec 2) (saveDecivolts : BitVec 8) | saveEnd (allVerified : Bool) (vinGood : Bool)
  | dvfsUpdate (temps : List (BitVec 8)) (watts : BitVec 16) | dvfsStep (frame : BitVec 5)
  | powerSample (watts : BitVec 16) (vin10mv : BitVec 16) (tj : BitVec 8) (hot : BitVec 8) (saveDecivolts : BitVec 8)
  | thermalEmergency | thermalShutdown (saveDecivolts : BitVec 8) | thermAlert (tj : BitVec 8) | vin48Removed
  deriving DecidableEq, Repr, Inhabited

end Sys2Proof
end

