-- ==== Sys2Proof/WellFormed.lean ====
section
/-! DEFINITION. Which commands are well formed: the row of a controller instruction agrees with the code bits of its
word (R400 to R422), and every number of a site, link or register lies in its range (R104, R455). -/

namespace Sys2Proof

/-- A controller instruction in S format: its context, its fields, its MAJOR, and its FUNC where it has one (R374, R400 to
R403). -/
def Instr.sRow : Instr → Option (Who × SForm × Nat × Option Nat)
  | .aluAdd w f => some (w, f, 0x1, some 0)
  | .aluSub w f => some (w, f, 0x1, some 1)
  | .aluAnd w f => some (w, f, 0x1, some 2)
  | .aluOr w f => some (w, f, 0x1, some 3)
  | .aluXor w f => some (w, f, 0x1, some 4)
  | .aluSll w f => some (w, f, 0x1, some 5)
  | .aluSrl w f => some (w, f, 0x1, some 6)
  | .aluSra w f => some (w, f, 0x1, some 7)
  | .aluMin w f => some (w, f, 0x1, some 8)
  | .aluMax w f => some (w, f, 0x1, some 9)
  | .aluMinu w f => some (w, f, 0x1, some 10)
  | .aluMaxu w f => some (w, f, 0x1, some 11)
  | .aluSlt w f => some (w, f, 0x1, some 12)
  | .aluSltu w f => some (w, f, 0x1, some 13)
  | .aluClz w f => some (w, f, 0x1, some 14)
  | .aluPopc w f => some (w, f, 0x1, some 15)
  | .addi w f => some (w, f, 0x2, none)
  | .lih w f => some (w, f, 0x3, none)
  | .ld w f => some (w, f, 0x4, none)
  | .st w f => some (w, f, 0x5, none)
  | .aadd w f => some (w, f, 0x6, some 0)
  | .amov w f => some (w, f, 0x6, some 1)
  | .aget w f => some (w, f, 0x6, some 2)
  | .cmppEq w f => some (w, f, 0x7, some 0)
  | .cmppNe w f => some (w, f, 0x7, some 1)
  | .cmppLt w f => some (w, f, 0x7, some 2)
  | .cmppLtu w f => some (w, f, 0x7, some 3)
  | .cmppLe w f => some (w, f, 0x7, some 4)
  | .cmppLeu w f => some (w, f, 0x7, some 5)
  | .pand w f => some (w, f, 0x7, some 6)
  | .por w f => some (w, f, 0x7, some 7)
  | .pnot w f => some (w, f, 0x7, some 8)
  | .br w f => some (w, f, 0x8, none)
  | .loop w f => some (w, f, 0x9, none)
  | .endl w f => some (w, f, 0xa, none)
  | .taskPush w f => some (w, f, 0x20, some 0)
  | .taskPop w f => some (w, f, 0x20, some 1)
  | .syncKwait w f => some (w, f, 0x21, some 0)
  | .syncKjoin w f => some (w, f, 0x21, some 1)
  | .syncKread w f => some (w, f, 0x21, some 2)
  | .syncFence w f => some (w, f, 0x21, some 3)
  | .syncStep w f => some (w, f, 0x21, some 4)
  | .sysRd w f => some (w, f, 0x22, some 0)
  | .sysWr w f => some (w, f, 0x22, some 1)
  | .sysEnd w f => some (w, f, 0x22, some 2)
  | .sysNop w f => some (w, f, 0x22, some 3)
  | _ => none

/-- A controller instruction in E format: its context, its fields, its MAJOR, and its code field in MOD (low bit, width,
value) where it has one (R375, R405 to R422). -/
def Instr.eRow : Instr → Option (Who × EForm × Nat × Option (Nat × Nat × Nat))
  | .mxF w f => some (w, f, 0x10, some (8, 3, 0))
  | .mxH w f => some (w, f, 0x10, some (8, 3, 1))
  | .mxQ w f => some (w, f, 0x10, some (8, 3, 2))
  | .mxRib32 w f => some (w, f, 0x10, some (8, 3, 3))
  | .mxRib16 w f => some (w, f, 0x10, some (8, 3, 4))
  | .accOpen w f => some (w, f, 0x11, none)
  | .accDrain w f => some (w, f, 0x12, none)
  | .veAdd w f => some (w, f, 0x14, some (0, 8, 0))
  | .veSub w f => some (w, f, 0x14, some (0, 8, 1))
  | .veMul w f => some (w, f, 0x14, some (0, 8, 2))
  | .veNeg w f => some (w, f, 0x14, some (0, 8, 3))
  | .veAbs w f => some (w, f, 0x14, some (0, 8, 4))
  | .veCmpEq w f => some (w, f, 0x14, some (0, 8, 5))
  | .veCmpLt w f => some (w, f, 0x14, some (0, 8, 6))
  | .veCmpLe w f => some (w, f, 0x14, some (0, 8, 7))
  | .veSel w f => some (w, f, 0x14, some (0, 8, 8))
  | .veMax w f => some (w, f, 0x14, some (0, 8, 9))
  | .veMin w f => some (w, f, 0x14, some (0, 8, 10))
  | .veCvt w f => some (w, f, 0x14, some (0, 8, 11))
  | .veRecip w f => some (w, f, 0x14, some (0, 8, 16))
  | .veSqrt w f => some (w, f, 0x14, some (0, 8, 17))
  | .veRsqrt w f => some (w, f, 0x14, some (0, 8, 18))
  | .veLog2 w f => some (w, f, 0x14, some (0, 8, 19))
  | .veLn w f => some (w, f, 0x14, some (0, 8, 20))
  | .veExp w f => some (w, f, 0x14, some (0, 8, 21))
  | .veSigmoid w f => some (w, f, 0x14, some (0, 8, 22))
  | .veSum w f => some (w, f, 0x14, some (0, 8, 32))
  | .veSumsq w f => some (w, f, 0x14, some (0, 8, 33))
  | .veLsum w f => some (w, f, 0x14, some (0, 8, 34))
  | .veLse w f => some (w, f, 0x14, some (0, 8, 35))
  | .veSoftmax w f => some (w, f, 0x14, some (0, 8, 36))
  | .veMaxr w f => some (w, f, 0x14, some (0, 8, 37))
  | .veMinr w f => some (w, f, 0x14, some (0, 8, 38))
  | .vePow w f => some (w, f, 0x15, none)
  | .veTopk w f => some (w, f, 0x16, some (0, 8, 0))
  | .veTopkmerge w f => some (w, f, 0x16, some (0, 8, 1))
  | .veCombine w f => some (w, f, 0x16, some (0, 8, 2))
  | .veKltopk w f => some (w, f, 0x17, none)
  | .veQz w f => some (w, f, 0x18, some (24, 2, 0))
  | .veAmax w f => some (w, f, 0x18, some (24, 2, 1))
  | .veDq w f => some (w, f, 0x18, some (24, 2, 2))
  | .veXpose w f => some (w, f, 0x18, some (24, 2, 3))
  | .updStat w f => some (w, f, 0x19, some (24, 2, 0))
  | .updApply w f => some (w, f, 0x19, some (24, 2, 1))
  | .reelIn w f => some (w, f, 0x1a, none)
  | .reelOut w f => some (w, f, 0x1a, none)
  | .reelPsend w f => some (w, f, 0x1b, none)
  | .syncPrecv w f => some (w, f, 0x1e, none)
  | .twBits w f => some (w, f, 0x1c, some (24, 2, 0))
  | .twMask w f => some (w, f, 0x1c, some (24, 2, 1))
  | .twUnif w f => some (w, f, 0x1c, some (24, 2, 2))
  | .shutScan w f => some (w, f, 0x1d, some (24, 2, 0))
  | .shutEmit w f => some (w, f, 0x1d, some (24, 2, 1))
  | .shutTake w f => some (w, f, 0x1d, some (24, 2, 2))
  | .shutFree w f => some (w, f, 0x1d, some (24, 2, 3))
  | _ => none

/-- A register name in range (R104, R455, R457, R572, R592). -/
def Reg.wf : Reg → Bool
  | .millSite p | .millSitet p => decide (p.toNat < 288)
  | .millRstat n => decide (n.toNat < 3)
  | .jobRcfg f | .jobRbase f | .jobCbase f => decide (f.toNat < 32)
  | .sknLstat l | .sknLerr l => decide (l.toNat < 48)
  | .pwrSave n => decide (n.toNat < 3584)
  | .ctxReg _ n => decide (n.toNat < 10)
  | _ => true

/-- A well-formed command. -/
def Instr.wf (i : Instr) : Bool :=
  match i.sRow, i.eRow with
  | some (_, f, _, some n), _ => (f.imm.extractLsb' 37 6).toNat = n
  | _, some (_, f, _, some (lo, w, n)) => bitsOf f.mod.toNat lo w = n
  | _, _ =>
    match i with
    | .flitReceive l _ _ | .linkReplayRequest l _ | .laneSpare l _ | .linkFail l | .linkRetrain l _
    | .fabricSync l _ | .delayReq l _ | .delayResp l _ => decide (l.toNat < 48)
    | .linkDiscovery l _ n => decide (l.toNat < 48) && decide (n.toNat < 48)
    | .spotTestDue p | .spotTestDeferExpiry p | .spotTestComplete p _ _ _ | .spotTestRetry p => decide (p.toNat < 288)
    | .registerWrite r _ _ | .regRead _ r | .regWrite _ r _ _ => r.wf
    | _ => true

end Sys2Proof
end

