-- ==== Sys2Proof/Decode.lean ====
section
/-! DEFINITION. The words of the controller's instructions (R374, R375): encoding, decoding, and the host's entry
decodeTableWord. The table gives no row any bits, so decodeTableWord answers none. -/

namespace Sys2Proof

/-- The command that a word spells by the bits of spec/opcode_table.json: no row of the table has bits. -/
def decodeTableWord (_nbits _w : Nat) : Option Instr := none

namespace Machine

/-- An S-format word (R374). -/
def sWord (major : Nat) (f : SForm) : Word := BitVec.ofNat 6 major ++ f.dst ++ f.src1 ++ f.src2 ++ f.imm

/-- An E-format word (R375). -/
def eWord (major : Nat) (f : EForm) : Word := BitVec.ofNat 6 major ++ f.desc ++ f.tile ++ f.kout ++ f.kwait ++ f.mod

end Machine

open Machine

/-- An S form with FUNC in bits [42:37] (R400). -/
def SForm.func (f : SForm) (n : Nat) : SForm := { f with imm := BitVec.ofNat 6 n ++ f.imm.extractLsb' 0 37 }

/-- An E form with a field of MOD set. -/
def EForm.op (f : EForm) (lo w v : Nat) : EForm :=
  { f with mod := BitVec.ofNat 32 (f.mod.toNat - bitsOf f.mod.toNat lo w * 2 ^ lo + v % 2 ^ w * 2 ^ lo) }

/-- A field of MOD. -/
def EForm.modf (f : EForm) (lo w : Nat) : Nat := bitsOf f.mod.toNat lo w

/-- The S-format fields of a word (R374). -/
def SForm.ofWord (v : Word) : SForm :=
  { dst := v.extractLsb' 53 5, src1 := v.extractLsb' 48 5, src2 := v.extractLsb' 43 5, imm := v.extractLsb' 0 43 }

/-- The E-format fields of a word (R375). -/
def EForm.ofWord (v : Word) : EForm :=
  { desc := v.extractLsb' 50 8, tile := v.extractLsb' 44 6, kout := v.extractLsb' 38 6, kwait := v.extractLsb' 32 6
    mod := v.extractLsb' 0 32 }

/-- The word of a controller instruction, and the context that issues it. -/
def encode (i : Instr) : Option (Who × Word) :=
  match i.sRow, i.eRow with
  | some (w, f, major, _), _ => some (w, sWord major f)
  | _, some (w, f, major, _) => some (w, eWord major f)
  | _, _ => none

/-- The S-format instruction of a MAJOR and FUNC (R400 to R403). -/
def sCtor (major func : Nat) : Option (Who → SForm → Instr) :=
  match major, func with
  | 0x1, 0 => some .aluAdd
  | 0x1, 1 => some .aluSub
  | 0x1, 2 => some .aluAnd
  | 0x1, 3 => some .aluOr
  | 0x1, 4 => some .aluXor
  | 0x1, 5 => some .aluSll
  | 0x1, 6 => some .aluSrl
  | 0x1, 7 => some .aluSra
  | 0x1, 8 => some .aluMin
  | 0x1, 9 => some .aluMax
  | 0x1, 10 => some .aluMinu
  | 0x1, 11 => some .aluMaxu
  | 0x1, 12 => some .aluSlt
  | 0x1, 13 => some .aluSltu
  | 0x1, 14 => some .aluClz
  | 0x1, 15 => some .aluPopc
  | 0x2, _ => some .addi
  | 0x3, _ => some .lih
  | 0x4, _ => some .ld
  | 0x5, _ => some .st
  | 0x6, 0 => some .aadd
  | 0x6, 1 => some .amov
  | 0x6, 2 => some .aget
  | 0x7, 0 => some .cmppEq
  | 0x7, 1 => some .cmppNe
  | 0x7, 2 => some .cmppLt
  | 0x7, 3 => some .cmppLtu
  | 0x7, 4 => some .cmppLe
  | 0x7, 5 => some .cmppLeu
  | 0x7, 6 => some .pand
  | 0x7, 7 => some .por
  | 0x7, 8 => some .pnot
  | 0x8, _ => some .br
  | 0x9, _ => some .loop
  | 0xa, _ => some .endl
  | 0x20, 0 => some .taskPush
  | 0x20, 1 => some .taskPop
  | 0x21, 0 => some .syncKwait
  | 0x21, 1 => some .syncKjoin
  | 0x21, 2 => some .syncKread
  | 0x21, 3 => some .syncFence
  | 0x21, 4 => some .syncStep
  | 0x22, 0 => some .sysRd
  | 0x22, 1 => some .sysWr
  | 0x22, 2 => some .sysEnd
  | 0x22, 3 => some .sysNop
  | _, _ => none

/-- The E-format instruction of a MAJOR and a MOD (R405 to R422). REEL.IN and REEL.OUT share their word: the
descriptor tells them apart (R419), and the word decodes to REEL.IN. -/
def eCtor (major mod : Nat) : Option (Who → EForm → Instr) :=
  match major with
  | 0x10 =>
    match bitsOf mod 8 3 with
    | 0 => some .mxF
    | 1 => some .mxH
    | 2 => some .mxQ
    | 3 => some .mxRib32
    | 4 => some .mxRib16
    | _ => none
  | 0x11 => some .accOpen
  | 0x12 => some .accDrain
  | 0x14 =>
    match bitsOf mod 0 8 with
    | 0 => some .veAdd
    | 1 => some .veSub
    | 2 => some .veMul
    | 3 => some .veNeg
    | 4 => some .veAbs
    | 5 => some .veCmpEq
    | 6 => some .veCmpLt
    | 7 => some .veCmpLe
    | 8 => some .veSel
    | 9 => some .veMax
    | 10 => some .veMin
    | 11 => some .veCvt
    | 16 => some .veRecip
    | 17 => some .veSqrt
    | 18 => some .veRsqrt
    | 19 => some .veLog2
    | 20 => some .veLn
    | 21 => some .veExp
    | 22 => some .veSigmoid
    | 32 => some .veSum
    | 33 => some .veSumsq
    | 34 => some .veLsum
    | 35 => some .veLse
    | 36 => some .veSoftmax
    | 37 => some .veMaxr
    | 38 => some .veMinr
    | _ => none
  | 0x15 => some .vePow
  | 0x16 =>
    match bitsOf mod 0 8 with
    | 0 => some .veTopk
    | 1 => some .veTopkmerge
    | 2 => some .veCombine
    | _ => none
  | 0x17 => some .veKltopk
  | 0x18 =>
    match bitsOf mod 24 2 with
    | 0 => some .veQz
    | 1 => some .veAmax
    | 2 => some .veDq
    | 3 => some .veXpose
    | _ => none
  | 0x19 =>
    match bitsOf mod 24 2 with
    | 0 => some .updStat
    | 1 => some .updApply
    | _ => none
  | 0x1a => some .reelIn
  | 0x1b => some .reelPsend
  | 0x1c =>
    match bitsOf mod 24 2 with
    | 0 => some .twBits
    | 1 => some .twMask
    | 2 => some .twUnif
    | _ => none
  | 0x1d =>
    match bitsOf mod 24 2 with
    | 0 => some .shutScan
    | 1 => some .shutEmit
    | 2 => some .shutTake
    | 3 => some .shutFree
    | _ => none
  | 0x1e => some .syncPrecv
  | _ => none

/-- The controller instruction that a word spells; none for a word without a meaning, which raises ILLEGAL (R389). -/
def decodeWord (w : Who) (v : Word) : Option Instr :=
  let major := (v.extractLsb' 58 6).toNat
  if major < 0x10 ∨ 0x20 ≤ major then (sCtor major (v.extractLsb' 37 6).toNat).map fun c => c w (SForm.ofWord v)
  else (eCtor major (v.extractLsb' 0 32).toNat).map fun c => c w (EForm.ofWord v)

end Sys2Proof
end

