-- ==== Sys2Proof/Config.lean ====
section
/-! DEFINITION. What one module fixes and the spec does not give: opaque constants (nothing can be
proved about their value). Every one is named in the assumption log. -/

namespace Sys2Proof.Config

/-- The n-th free value (log entry 3): a value the spec leaves undefined after a step that goes on. -/
opaque freeBits : Nat → Word
/-- The hub's entropy source conditioned by SHA-512 (R562): nonces, session ids, keys, test seeds. -/
opaque entropy : Nat → BitVec 512
/-- The two vendor root hashes in mask ROM (R558). -/
opaque vendorRoot0 : BitVec 512
/-- The second vendor root hash in mask ROM (R558). -/
opaque vendorRoot1 : BitVec 512
/-- The digest of the boot ROM itself (R558 step 1). -/
opaque romDigest : BitVec 512
/-- The JTAG identification code (R569 names the instruction and gives no value). -/
opaque idcode : BitVec 32
/-- Chedistra's MIPI manufacturer identifier (R565). -/
opaque mipiId : BitVec 15
/-- The two primes p and q of the identity key that the module generates from one entropy draw (R555, R562: how it finds them the spec
does not say). -/
opaque identityPrimes : BitVec 512 → BitVec 2048 × BitVec 2048
/-- Whether the n-th drained tile is chosen for twin sampling when it is chosen with probability 2^-f
(R536 gives the probability and no rule). -/
opaque twinChosen : Nat → Nat → Bool
/-- One part of the boundary-scan register as the pins stand (R569, IEEE 1149.1). -/
opaque pinSample : Nat → Word

/-- The expanders on CXL port 0 (false) and 1 (true) that answer at start-up: serial number and capacity in bytes of each
(R426, R427: they are fitted outside the module). -/
opaque expanders : Bool → List (Word × Word)

/-- One less than the intake entries that each step of a campaign uses, by job (R314 says that a step uses entries, not how
many; the largest ring holds 32,768, R313). -/
opaque intakeEntries : Nat → BitVec 15

/-- How far the fit of the Φ table of GELU moves the value of interval n from Φ at the interval's start, in units of 2^-30: less
than 2^-17 (R218 gives the table's shape, not its fit). Log entry 63. -/
opaque geluValueFit : Nat → BitVec 14
/-- How far the fit of the Φ table of GELU moves the slope of interval n from the interval's secant, in units of 2^-30: less than
2^-11 (R218 gives the table's shape, not its fit). Log entry 63. -/
opaque geluSlopeFit : Nat → BitVec 20

/-- The loss that VE.KLTOPK writes for a row, from the record's bytes and the row's y_i, where the student's residual mass is
zero and the record's is not: R306 states no value there. Log entry 3. -/
opaque klLoss : List Byte → List Int → BitVec 32
/-- The log of an element's normaliser, 16 fraction bits, from the binary64 codes of r_i, r̄ and c_j, where they hold no positive
numbers and R341 states no value. Log entry 3. -/
opaque factNormaliser : Nat → Nat → Nat → BitVec 32
/-- Word i of the scan record of a row with a NaN logit, from the row's logits: R289 leaves its candidates undefined. Log entry
3. -/
opaque scanUndefined : List Nat → Nat → Word

/-- The ordinal of an addition within a tree of the array's log-sum path, from how many adds into the element and how many
additions within its trees precede it: R207 numbers the adds into an element and does not say which numbers the additions of
the trees of R96 take. Log entry 59. -/
opaque treeOrdinal : Nat → Nat → Nat

/-- The bank of the accumulator store that holds a store word (R188, R520: the store has banks with 8 spare rows each, and the
spec does not say which words a bank holds). Log entry 38. -/
opaque storeBank : Nat → BitVec 8

/-- Whether an operation that is not ordered after another sees the bytes of a 64-byte bobbin unit that the other writes, from the
number of the free value and the unit (R117). Log entry 3. -/
opaque seesNew : Nat → Nat → Bool

/-- Whether a capture of the descriptor file sees the bytes of a 64-byte unit that an operation writes which has not ended, from the
context, the number of the issue, the place of the writer among the operations that run, and the unit (R117, R385). Log entry 3. -/
opaque capturesNew : Nat → Nat → Nat → Nat → Bool

/-- The FP32 maximum of two codes one of which is negative or a NaN: R450 states the maximum of non-negative values only. Log
entry 3. -/
opaque f32MaxOpen : BitVec 32 → BitVec 32 → BitVec 32

/-- The KL mean that an EVAL report gives of no tokens (R316 states none). Log entry 3. -/
opaque emptyMean : BitVec 32

/-- Whether the producer of a frame's shuttle, on another module, waits for credits at a time in ns: no packet says so (R297, R304).
Log entry 130. -/
opaque remoteWaits : Nat → Nat → Bool

/-- Whether a twin had read a bobbin unit before it was overwritten, from the number of the sample and the unit (R536). Log entry
114. -/
opaque twinRead : Nat → Nat → Bool

/-- PSITE as MILL_SPMAP reads it for a logical spindle that is absent (R108: the field is undefined). Log entry 3. -/
opaque absentSite : Nat → BitVec 9

/-- Byte i of a checkpoint of a job, from what memory holds: R315 says that the slot holds the student's master planes and state
records, and not how they lie in it. Log entry 28. -/
opaque checkpointByte : List (Nat × BitVec 8) → Nat → Nat → BitVec 8

/-- The FEC parity of bytes [263:0] of a flit (R456: two RS(136,132) codewords over GF(2^8), of which the spec gives neither the
field's polynomial nor the generator). Log entry 112. -/
opaque fecParity : List Byte → BitVec 64
/-- The credits that a link-control flit returns: virtual channels (2 TC + DL) and bytes (R467: credits come in link-control flits,
whose layout the spec does not give). Log entry 112. -/
opaque creditsIn : List Byte → List (Nat × Nat)

/-- The lane whose bytes a link-control flit moves to the spare lane from the next flit on, where it is one (R458). Log entry 112. -/
opaque laneIn : List Byte → Option (BitVec 3)
/-- The DATA of a link-control flit, byte by byte: from its kind (0 credits, 1 a lane switch) and what it says (R456 to R458, R467).
Log entry 112. -/
opaque controlByte : Nat → List Nat → Nat → BitVec 8

/-- NMB, SLOTSZ and whether SIDE is downstream of the end of a pipeline channel on another module, as that module's job has it: from its
coordinate, FJOB and channel (R365). Log entry 69. -/
opaque farEnd : Nat → Nat → Nat → Nat × Nat × Bool

/-- The payload byte of the target's IBI (R565 gives its size only). -/
opaque ibiByte : BitVec 8
/-- DMTFSpecMeasurementValueType of a measurement index, without its digest bit (R564: the format is DMTF's, which the spec does not
give). Log entry 56. -/
opaque measurementType : Nat → BitVec 7
/-- DataTransferSize and MaxSPDMmsgSize of CAPABILITIES. Log entry 56. -/
opaque spdmSizes : BitVec 64

/-- How many repair rows an HBM stack has (R451, R454): the spec gives no number. Log entry 38. -/
opaque repairRows : Nat

/-- The n-th session identifier that the module hands out (R567 gives its width only). -/
opaque sid : Nat → BitVec 32
/-- The signed bytes of a management message, from its kind (0 RELEASE, 1 CLAIM, 2 PROVISION, 3 REVOKE) and what it carries:
the spec says who signs it, not how its bytes are laid out (R562, R563). -/
opaque signedBytes : Nat → List Byte → List Byte

/-- The bytes of a component of an image body (0 mill firmware, 1 hub code, 2 spot-test program, 3 table images): R557 says
what the table's entries give, not how. -/
opaque component : Nat → List Byte → List Byte
/-- The public modulus in the leaf of the certificate area's chain (R564: the chain's form is X.509's, which the spec does not
give). -/
opaque leafKey : List Byte → BitVec 4096

/-- The address that DHCPv4 gives the management port (R566). -/
opaque dhcpAddress : BitVec 32
/-- The bytes that an SPDM signature covers, from the request's nonce and the data it answers with (R564: the transcript is
DSP0274's, which the spec does not give). -/
opaque transcript : List Byte → List Byte → List Byte

end Sys2Proof.Config
end

