-- ==== Sys2Proof/Machine/State.lean ====
section
/-! DEFINITION. The state of the module as plain data: every register, memory, queue, counter, mode and
pin the spec gives it, the queue of waiting commands, and State.reset. INVENTORY.md lists each field
with its rule and its reset value. -/

namespace Sys2Proof.Machine

/-- An exact linear value: zero, NaN or ± m × 2^e (the classes of R65). -/
inductive Lin where
  | zero | nan
  | fin (neg : Bool) (m : Nat) (e : Int)
  deriving DecidableEq, Repr, Inhabited

/-- A logarithmic value: zero, NaN or ± 2^(l / 2^f), with f the fraction width of its place (R65). -/
inductive Lg where
  | zero | nan
  | num (neg : Bool) (l : Int)
  deriving DecidableEq, Repr, Inhabited

/-- The accumulator formats of the store (R189). -/
inductive AccFmt where
  | af32 | al32 | ai32
  deriving DecidableEq, Repr, Inhabited

/-- One accumulator element (R189): AF32 exact, AL32 with 23 fraction bits, AI32 as 32 bits. -/
inductive Acc where
  | af (x : Lin) | al (x : Lg) | ai (x : BitVec 32)
  deriving DecidableEq, Repr, Inhabited

/-- The state of a tile handle (R198). -/
inductive TileSt where
  | closed | opened | draining
  deriving DecidableEq, Repr, Inhabited

/-- A knot (R380): pending or signalled with a code; `arm` numbers its armings (R381); `bad` says that a fault whose
disposition is not continue reached it, directly or through a join (R391). -/
structure Knot where
  pending : Bool := false
  code    : Byte := 0
  bad     : Bool := false
  arm     : Nat := 0
  deriving DecidableEq, Repr, Inhabited

/-- A captured wait on one arming of one knot (R381); `done` holds the code once it is signalled, `bad` as the
knot's. -/
structure Wait where
  knot : Nat := 0
  arm  : Nat := 0
  done : Option Byte := some 0
  bad  : Bool := false
  deriving DecidableEq, Repr, Inhabited

/-- A SYNC.KJOIN that has armed `kout` and waits for its named knots (R383). -/
structure Join where
  kout  : Nat
  arm   : Nat
  waits : List Wait
  deriving DecidableEq, Repr, Inhabited

/-- The sticky flags an operation sets (R49, R254, R332). -/
structure Flags where
  arith : BitVec 6 := 0
  qz    : BitVec 2 := 0
  upd   : BitVec 2 := 0
  deriving DecidableEq, Repr, Inhabited

/-- An engine operation as captured at issue (R47, R353, R379, R384, R399). `aside` holds an UPD operation for the commit (R333);
`passed` says that the engine has served an entry behind it while it was held aside (R378). -/
structure QOp where
  lspn   : Nat
  ctx    : Nat
  job    : Nat
  op     : Instr
  form   : EForm
  seq    : Nat
  descs  : Table Line
  params : List Word
  kout   : Nat
  karm   : Nat
  wait   : Wait
  arith  : BitVec 32
  qz     : BitVec 32
  upd    : BitVec 32
  step   : Word
  ord    : Nat
  aside  : Bool := false
  passed : Bool := false
  deriving DecidableEq, Repr, Inhabited

/-- A tile of a job context (R193, R207, R209, R516, R524): `groups` counts dequant groups since the last spill, `adds` the adds into
each element since ACC.OPEN and its additions within trees (R96, R207), `journalled` the journal entries since its last check
point. `base` is the ACC.OPEN whose LOAD source was that check point, `kept` the copy of the add counts that it took; `bad` says that
an element carries a residue that does not agree. Elements not listed hold the format's zero. -/
structure Tile where
  st         : TileSt := .closed
  fmt        : AccFmt := .af32
  rows       : Nat := 0
  cols       : Nat := 0
  interval   : Nat := 0
  groups     : Nat := 0
  buf        : Line := 0
  elems      : Table Acc := []
  adds       : Table (Nat × Nat) := []
  drains     : Nat := 0
  journalled : Nat := 0
  base       : Option QOp := none
  kept       : Table (Nat × Nat) := []
  bad        : Bool := false
  deriving DecidableEq, Repr, Inhabited

/-- The atomic operations of memory (R450). -/
inductive AtomKind where
  | fadd | fmax | uadd | bor
  deriving DecidableEq, Repr, Inhabited

/-- One atomic operation waiting for its operation's knot: a key of the physical memory and a value. -/
structure Atom where
  kind : AtomKind
  addr : Nat
  val  : Nat
  deriving DecidableEq, Repr, Inhabited

/-- A scatter add of one FP32 element into the staging of a target key (R224), with its row: the row index and the base address of
the output tensor (R225). -/
structure Stage where
  target : Nat
  val    : BitVec 32
  row    : Nat
  base   : Nat
  deriving DecidableEq, Repr, Inhabited

/-- A packet that an operation or the mill sends, before it gets its PSEQ and its link (R468): destination,
class, TYPE, FLOW, FJOB, FLAGS, XT, TAG and data. -/
structure Send where
  dst   : Coord
  tc    : Nat
  type  : Nat
  flow  : Nat := 0
  fjob  : Nat := 0
  flags : Nat := 0
  xt    : Nat := 0
  tag   : Nat := 0
  data  : List Byte := []
  deriving DecidableEq, Repr, Inhabited

/-- An operation that has started: what it will show at its knot (R380). `residue` is a failed check that its end reports
(site, unit, whether a tile replay failed too; R525, R526); `addr` is the address a fault names; `sends` are packets, `prod` a frame
and the shuttle records it makes visible (R300), `info` the two step numbers of a STEP_SKEW (R348), `rcd` the key and
the device address of the quantisation record it updates (R253); `ids` tells the faults of one code apart (R239, R391); `view` is
the memory as the operation sees it (R117). -/
structure ROp where
  q      : QOp
  code   : Byte
  flags  : Flags
  writes : List Host.Cell
  atoms  : List Atom
  stages : List Stage
  closes : Option Nat
  addr   : Nat
  sends  : List Send := []
  prod   : Option (Nat × Nat) := none
  info   : Option (Nat × Nat) := none
  rcd    : Option (Nat × Nat) := none
  residue : Option (Nat × Nat × Bool) := none
  ids    : List Nat := []
  view   : List Host.Cell := []
  deriving DecidableEq, Repr, Inhabited

/-- The status of a job context (R371, R388, R392, R394, R506). `atStep` waits at the step boundary. -/
inductive CtxSt where
  | free | running | atStep | stopped | ended
  deriving DecidableEq, Repr, Inhabited

/-- The snapshot of a context (R393). -/
structure Snap where
  s      : Table Word
  a      : Table DevAddr
  p      : BitVec 8
  lc     : Table (BitVec 32)
  pc     : DevAddr
  file   : List Byte
  arith  : BitVec 32
  qz     : BitVec 32
  upd    : BitVec 32
  aflags : BitVec 32
  qflags : BitVec 32
  uflags : BitVec 32
  deriving DecidableEq, Repr, Inhabited

/-- The roles of a context (R373). -/
inductive Role where
  | none | teacher | student
  deriving DecidableEq, Repr, Inhabited

/-- A job context (R371 to R373, R390, R393, R431). -/
structure Ctx where
  status     : CtxSt := .free
  job        : Nat := 0
  s          : Table Word := []
  a          : Table DevAddr := []
  p          : BitVec 8 := 0
  lc         : Table (BitVec 32) := []
  knots      : Table Knot := []
  tiles      : Table Tile := []
  pc         : DevAddr := 0
  arithCtl   : BitVec 32 := 0x40
  arithFlags : BitVec 32 := 0
  qzCtl      : BitVec 32 := 0x020C4180
  qzFlags    : BitVec 32 := 0
  updCtl     : BitVec 32 := 60
  updFlags   : BitVec 32 := 0
  quota      : BitVec 7 := 0
  seed       : BitVec 48 := 0
  step       : Word := 0
  jslot      : BitVec 8 := 0
  role       : Role := .none
  cfault     : Word := 0
  cfinst     : Word := 0
  bpBase     : BitVec 8 := 0
  bpSize     : BitVec 8 := 0
  imgBase    : DevAddr := 0
  codeSize   : BitVec 32 := 0
  veOrd      : Nat := 0
  bufDrains  : Nat := 0
  seq        : Nat := 0
  joins      : List Join := []
  snap       : Option Snap := none
  deriving DecidableEq, Repr, Inhabited

/-- One entry of the tile journal (R524): the tile, the operation with its captured descriptors and parameter words, the first of its
passes that it records, and the epochs of the bobbin units it read. -/
structure JEntry where
  ctx    : Nat
  tile   : Nat
  op     : QOp
  from_  : Nat := 0
  epochs : List (Nat × BitVec 32)
  deriving DecidableEq, Repr, Inhabited

/-- A spindle, by logical index (R113, R115, R154, R505, R524). `turns` holds, by engine, the context after the one whose operation
the engine started last; `levelAt` is the 125 ns interval that the level belongs to. -/
structure Spindle where
  ctxs     : Table Ctx := []
  arrayQ   : List QOp := []
  vectorQ  : List QOp := []
  inQ      : List QOp := []
  outQ     : List QOp := []
  twistQ   : List QOp := []
  running  : List (Engine × ROp) := []
  level    : Nat := 0
  falling  : Bool := false
  drizzle  : Bool := false
  journal  : List JEntry := []
  epochs   : Table (BitVec 32) := []
  turns    : Table Nat := []
  levelAt  : Nat := 0
  deriving DecidableEq, Repr, Inhabited

/-- A frame (R160, R296, R297, R432, R579). `owner` lists the creel slots that jobs hold, by job + 1;
`retired` marks retired slots (R454). -/
structure Frame where
  pwrctl    : BitVec 32 := 0
  shctl     : BitVec 32 := 0
  prod      : BitVec 16 := 0
  freed     : BitVec 16 := 0
  taken     : BitVec 16 := 0
  stall     : BitVec 16 := 0
  reported  : BitVec 16 := 0
  stepProd  : BitVec 16 := 0
  stepFreed : BitVec 16 := 0
  stepTaken : BitVec 16 := 0
  dvfs      : BitVec 32 := 600
  idleFor   : Nat := 0
  capT      : Nat := 15
  capP      : Nat := 15
  owner     : Table Nat := []
  retired   : BitVec 16 := 0
  deriving DecidableEq, Repr, Inhabited

/-- One region of a job (R500). -/
structure Region where
  vbase  : Nat
  npages : Nat
  tier   : Nat
  wr     : Bool
  ex     : Bool
  tch    : Bool
  fix    : Bool
  pref   : Nat
  slot   : Nat
  host   : Nat
  deriving DecidableEq, Repr, Inhabited

/-- One shuttle entry of a pair block (R285). -/
structure ShEnt where
  peer   : Coord
  sframe : Nat
  pspn   : Nat
  dir    : Bool
  deriving DecidableEq, Repr, Inhabited

/-- What a producing spindle keeps of one shuttle entry (R297, R299): the next SQN, the FREED it last received,
and both at the step's start (R311). -/
structure Producer where
  sqn     : BitVec 32 := 0
  freed   : BitVec 16 := 0
  stepSqn : BitVec 32 := 0
  deriving DecidableEq, Repr, Inhabited

/-- A pair block (R284). -/
structure PairBlk where
  tmask : BitVec 32
  smask : BitVec 32
  k     : Nat
  temp  : BitVec 16
  ents  : List ShEnt
  deriving DecidableEq, Repr, Inhabited

/-- One channel of a pipeline block (R364) and its progress in the step (R367, R368). `sent` and `rcvd`
count messages of the step in order; `parts` and `ends` hold the bytes that came and the length of unfinished
ones; `noticed` counts the steps whose commit notice has come. -/
structure Chan where
  ring     : Nat
  slotsz   : Nat
  nslot    : Nat
  nmb      : Nat
  peer     : Coord
  peerCh   : Nat
  down     : Bool
  sent     : Nat := 0
  arrived  : List Nat := []
  rcvd     : Nat := 0
  parts    : Table Nat := []
  ends     : Table Nat := []
  noticed  : Nat := 0
  deriving DecidableEq, Repr, Inhabited

/-- One entry of a collective block (R473). -/
structure ColEnt where
  op      : Nat
  efmt    : Nat
  post    : Bool
  dims    : Nat
  dord    : List Nat
  nelem   : Nat
  src     : Nat
  dst     : Nat
  hdr     : Nat
  k       : Nat
  valkind : Bool
  deriving DecidableEq, Repr, Inhabited

/-- A contribution being received (R483, R484): its TAG without the offset, which names the step, the entry, the stage,
the half and the ring step; its sender; its data by offset; whether it has been accepted, and how often it failed. -/
structure Contrib where
  tag      : Nat
  src      : Nat
  data     : Table (List Byte) := []
  accepted : Bool := false
  fails    : Nat := 0
  deriving DecidableEq, Repr, Inhabited

/-- A contribution sent (R483, R484): its TAG without the offset, the half's link direction, the receiver, its data,
whether it has been acknowledged, and how often a RESEND came for it. -/
structure SentCon where
  tag   : Nat
  dir   : Nat
  peer  : Coord
  data  : List Byte
  acked : Bool := false
  fails : Nat := 0
  deriving DecidableEq, Repr, Inhabited

/-- The flight of a collective entry (R476): its step, the buffer of element codes, the phase it is in and the ring steps
done in each half; `adding` says that a scatter-add still sends its units. -/
structure Flight where
  entry  : Nat
  step   : Nat
  buf    : List Nat
  phase  : Nat := 0
  ringP  : Nat := 0
  ringM  : Nat := 0
  adding : Bool := false
  done   : Bool := false
  deriving DecidableEq, Repr, Inhabited

/-- A campaign (R313 to R318): the descriptor's fields and the progress. -/
structure Camp where
  evalTeacher : Bool
  endTrouble  : Bool
  steps    : Nat
  tprog    : Nat
  sprog    : Nat
  inring   : Nat
  insize   : Nat
  inpoll   : Nat
  evring   : Nat
  evsize   : Nat
  every    : Nat
  evbatch  : Nat
  ckstep   : Nat
  ckpt     : Nat
  cksize   : Nat
  report   : Nat
  rpsize   : Nat
  vec      : Nat
  consumed : Nat := 0
  avail    : Nat := 0
  evDone   : Nat := 0
  evAvail  : Nat := 0
  lastTag  : BitVec 32 := 0
  lastSlot : Option Nat := none
  lastCk   : Nat := 0
  ckDue    : Bool := false
  evDue    : Bool := false
  ending   : Option Nat := none
  finalCk  : Bool := false
  paused   : Bool := false
  boundary : Bool := false
  waitFrom : Option Nat := none
  waited   : Nat := 0
  reports  : List (List Byte) := []
  produced : Nat := 0
  deriving DecidableEq, Repr, Inhabited

/-- Where a job stands (R502 to R511). -/
inductive JobSt where
  | waiting | resident | out
  deriving DecidableEq, Repr, Inhabited

/-- Bytes of a bobbin in a save area: the offset that they have in their partition or file, and the offsets of their poisoned units
(R431, R453). -/
structure KeptUnits where
  off   : Nat
  bytes : List Byte
  bad   : List Nat := []
  deriving DecidableEq, Repr, Inhabited

/-- What a switched-out job keeps of one context (R201, R431, R506): the context, its queued operations, its descriptor file, and
those units of its partition that an incoming job needed. -/
structure Saved where
  lspn  : Nat
  ctx   : Ctx
  ops   : List (Engine × QOp)
  file  : KeptUnits
  units : List KeptUnits := []
  deriving DecidableEq, Repr, Inhabited

/-- A job (R499 to R515). `fault` is the fault that a replay of the step waits for, `causes` every one that it serves, `seen` those of
the attempts before (R391, R528). `tail` holds the step whose commit has still to send its notices and advance the intake, and
whether scale trouble was reported (R336, R521); `savePages` the HBM pages of the save area (R438). `stopping` says that a switch-out
has begun (R506), `colFlags` gathers the flags of the collective combines (log entry 118). -/
structure Job where
  jid       : Nat
  client    : Nat
  ref       : Word
  tag       : Word
  irq       : Bool
  vec       : Nat
  crit      : Bool
  steps     : Bool
  qunits    : Nat
  fjob      : Nat
  seed      : BitVec 48
  firstStep : Word
  arith     : BitVec 32
  qz        : BitVec 32
  eps       : Nat
  bpart     : Nat
  lspns     : BitVec 256
  args      : Nat
  img0      : Nat
  img1      : Nat
  space     : Nat
  regions   : List Region
  pair      : Option PairBlk
  prods     : Table Producer := []
  taken     : Table Nat := []
  stepTaken : Table Nat := []
  chans     : List Chan
  cols      : List ColEnt
  camp      : Option Camp
  flog      : Nat
  st        : JobSt := .waiting
  jslot     : Nat := 0
  since     : Nat := 0
  aged      : Bool := false
  placedAt  : Nat := 0
  pages     : Table Word := []
  creelMap  : Table Word := []
  deques    : Table (List Word) := []
  staging   : List Stage := []
  records   : List (Nat × Nat) := []
  saved     : List Saved := []
  savePages : List Nat := []
  committed : Nat := 0
  first     : Byte := 0
  fcounts   : Table Nat := []
  fault     : Option (Byte × Nat) := none
  endWith   : Option Byte := none
  quiet     : Bool := false
  replays   : Nat := 0
  seen      : List (Byte × Nat) := []
  causes    : List (Byte × Nat) := []
  stopAt    : Bool := false
  flights   : List Flight := []
  recv      : List Contrib := []
  sent      : List SentCon := []
  postDue   : Bool := false
  tail      : Option (Nat × Bool) := none
  flspn     : Nat := 0
  fpc       : DevAddr := 0
  trouble   : Bool := false
  stopping  : Bool := false
  colFlags  : BitVec 6 := 0
  deriving DecidableEq, Repr, Inhabited

/-- A completion entry before it is written (R512, R514). `last` is that of a client which the mill disables (R497). -/
structure Compl where
  client : Nat
  kind   : Nat
  status : Byte
  tag    : Word
  ref    : Word
  steps  : Nat := 0
  aflags : BitVec 6 := 0
  xflags : BitVec 4 := 0
  first  : Byte := 0
  flspn  : Nat := 0
  fmap   : Word := 0
  fpc    : DevAddr := 0
  irq    : Bool := false
  vec    : Nat := 0
  flog   : Nat := 0
  counts : Table Nat := []
  last   : Bool := false
  deriving DecidableEq, Repr, Inhabited

/-- A spot test that runs (R532 to R537): the site, its twin, the third site of a vote, the site on loan to the contexts, when
it started, and the job whose replay waits for it. -/
structure Spot where
  site  : Nat
  twin  : Nat
  third : Option Nat := none
  loan  : Option Nat := none
  start : Nat
  job   : Option Nat := none
  deriving DecidableEq, Repr, Inhabited

/-- A twin sample taken and not yet compared (R536). -/
structure Twin where
  num    : Nat
  job    : Nat
  site   : Nat
  twin   : Nat
  dig    : BitVec 128
  epochs : List (Nat × BitVec 32)
  lspn   : Nat
  deriving DecidableEq, Repr, Inhabited

/-- The mill (R107 to R112, R121 to R123, R494, R503, R515, R532 to R540). `holds` lists the sites at which a forced test has stopped
issue and waits for the started operations (R534), `twinTests` the tests that a twin mismatch asks for and that other tests hold up
(R537); `colFails` counts the failed checks of the collective engine (R526). -/
structure Mill where
  spmap     : Table (BitVec 32) := []
  site      : Table (BitVec 32) := []
  sitet     : Table (BitVec 48) := []
  rstat0    : Word := 0
  rstat1    : Word := 0
  rstat2    : Word := 0
  cores     : BitVec 8 := 0xFF
  accepting : Bool := true
  degraded  : Bool := false
  jobs      : Table Job := []
  critQ     : List Nat := []
  fillQ     : List Nat := []
  nextJid   : Nat := 1
  cnt       : Table Word := []
  held      : List Compl := []
  ring32    : List (List Byte) := []
  refs32    : Word := 0
  spots     : List Spot := []
  due       : List (Nat × Nat) := []
  retests   : List (Nat × Nat) := []
  spotCount : Nat := 0
  testSeed  : Word := 0
  twins     : List Twin := []
  twinNum   : Nat := 0
  drains    : Nat := 0
  attrib    : List (Nat × Nat) := []
  holds     : List Nat := []
  twinTests : List (Nat × Nat × Nat) := []
  colFails  : Nat := 0
  deriving DecidableEq, Repr, Inhabited

/-- The ring settings of a function in force (R495). -/
structure Rings where
  rspace : Bool := false
  cspace : Bool := false
  rlog   : Nat := 4
  clog   : Nat := 4
  rbase  : Word := 0
  cbase  : Word := 0
  deriving DecidableEq, Repr, Inhabited

/-- A host function's BAR0 registers, its rings in force, and its MSI-X table and pending bits (R491, R492, R495). -/
structure Fn where
  rcfg  : Word := 0x0004000000440000
  rbase : Word := 0
  cbase : Word := 0
  live  : Rings := {}
  msix  : Table (BitVec 128) := []
  pba   : Word := 0
  deriving DecidableEq, Repr, Inhabited

/-- The host link (R491, R582); `vfs` the virtual functions that the host has enabled. -/
structure HostLink where
  fns      : Table Fn := []
  perst    : Bool := true
  fnReady  : Bool := false
  vfs      : Nat := 0
  deriving DecidableEq, Repr, Inhabited

/-- A skein link (R455 to R462, R465, R488). `rx` holds bytes of a packet that is still arriving, `replay` the last flits
sent, each with whether it is link control, `open_` says that the last one still takes bytes and has not gone out, `awaiting` that a
flit which failed is awaited (R457), `unacked` the packets of flits not yet acknowledged, `uncorr` and `fails` times,
`fixes` the bytes that FEC corrected by lane and time (R458), `filled` when the last flit was sent and how much of it is filled,
`spent` the bytes of the neighbour's buffer in use by virtual channel (2 TC + DL) and `waiting` the packets that wait for credits, with
the link and virtual channel whose buffer each still takes (R467); `sync` the DIST that the neighbour
advertised last and how late its SYNC came, `reqAt` when a DELAY_REQ left. -/
structure Link where
  lstat    : BitVec 32 := 0x1E000000
  lerr     : Word := 0
  rx       : List Byte := []
  nextSeq  : BitVec 12 := 0
  txSeq    : BitVec 12 := 0
  replay   : List (BitVec 12 × Bool × List Byte) := []
  open_    : Bool := false
  awaiting : Bool := false
  unacked  : List (BitVec 12 × PHdr × List Byte) := []
  uncorr   : List Nat := []
  fixes    : List (Nat × Nat) := []
  filled   : Nat × Nat := (0, 0)
  spent    : Table Nat := []
  waiting  : List (PHdr × List Byte × Option (Nat × Nat)) := []
  fails    : List Nat := []
  tried    : Bool := false
  sync     : Option (Nat × Int) := none
  delay    : Nat := 0
  reqAt    : Nat := 0
  deriving DecidableEq, Repr, Inhabited

/-- The fabric side (R460, R464, R466, R487, R488). `sent` counts the packets of each flow, `seen` holds the last PSEQ of
each plus 1, `lost` the directions without a link (R472), `via` the link that each flow uses, by link + 1 (R459, R466), `stranded` the
packets whose direction has no link, with the link that each came in on (R472). -/
structure Fabric where
  links   : Table Link := []
  lcfg    : BitVec 32 := 0x4002
  cinuse  : BitVec 32 := 0
  tsrc    : BitVec 32 := 0x00FF0000
  sent    : Table (BitVec 32) := []
  seen    : Table Nat := []
  lost    : BitVec 8 := 0
  via     : Table Nat := []
  stranded : List (PHdr × List Byte × Option Nat) := []
  deriving DecidableEq, Repr, Inhabited

/-- The time unit and the PTP servo (R570 to R572). `now` counts nanoseconds with 32 fraction bits; `good` the Syncs in a row
within 1 µs; `master` and `syncAt` are the last Sync's two times, `path` the measured delay. -/
structure Time where
  now     : Nat := 0
  freq    : BitVec 32 := 0
  offs    : Word := 0
  ppsin   : Word := 0
  cmp     : Table Word := []
  cmpctl  : BitVec 32 := 0x80
  good    : Nat := 0
  locked  : Bool := false
  master  : Word := 0
  path    : Int := 0
  reqAt   : Option Nat := none
  syncAt  : Nat := 0
  ppsOut  : Bool := false
  ppsEnd  : Nat := 0
  deriving DecidableEq, Repr, Inhabited

/-- An open session (R567); `src` is the source that it is bound to over Ethernet by address and port (R566). -/
structure Session where
  sid   : BitVec 32
  cred  : Nat
  role  : Nat
  key   : BitVec 512
  tr    : Transport
  src   : Src
  rxSeq : Option Word
  txSeq : Word
  last  : Nat
  deriving DecidableEq, Repr, Inhabited

/-- A session challenge that waits for its proof, with where its request came from (R566, R567). -/
structure Chal where
  sid  : BitVec 32
  cred : Nat
  nc   : BitVec 256
  nd   : BitVec 256
  tr   : Transport
  src  : Src
  at_  : Nat
  deriving DecidableEq, Repr, Inhabited

/-- The JTAG instructions in force (R569). -/
inductive Tap where
  | bypass | idcode | sample | extest
  deriving DecidableEq, Repr, Inhabited

/-- What the boot ROM and core 0 have taken from the verified image (R558): the boot buffer, the command cores' memories with the mill
firmware and the hub code, the spot-test program and the table images. `badFlash` lists the slots that the flash does not read
(R562). -/
structure BootMem where
  buffer   : List Byte := []
  firmware : List Byte := []
  hubCode  : List Byte := []
  spotProg : List Byte := []
  tables   : List Byte := []
  badFlash : List Nat := []
  deriving DecidableEq, Repr, Inhabited

/-- Security and management (R561 to R569, R592). `spdm` holds, per transport, how far its connection
has come: 0 start, 1 version, 2 capabilities, 3 algorithms. -/
structure Sec where
  meas     : Table (BitVec 512) := []
  stat     : BitVec 32 := 0
  sessions : List Session := []
  chals    : List Chal := []
  sids     : Nat := 0
  wrong    : List (Nat × Nat) := []
  bars     : List (Nat × Nat) := []
  nonce    : Word := 0
  da       : BitVec 7 := 0
  pid      : BitVec 48 := 0
  ethUp    : Bool := false
  netUse   : Word := 0
  spdm     : Table Nat := []
  certOk   : Bool := false
  tap      : Tap := .idcode
  pins     : List Bool := []
  dbgTrig  : Bool := false
  draws    : Nat := 0
  version  : BitVec 64 := 0
  identityLost : Bool := false
  boot     : BootMem := {}
  deriving DecidableEq, Repr, Inhabited

/-- A barograph record (R544): its words after SEQ are `body`. -/
structure Rec where
  seq  : Word
  time : BitVec 48
  type : Nat
  sev  : Nat
  body : List Word
  deriving DecidableEq, Repr, Inhabited

/-- The barograph (R547, R549): records oldest first; `pos` is the word of the persistent ring that is written
next (R550). -/
structure Baro where
  next  : Word := 0
  pos   : Nat := 0
  pring : List Rec := []
  xring : List Rec := []
  size  : BitVec 10 := 768
  deriving DecidableEq, Repr, Inhabited

/-- The phases of start-up and the off states (R581, R587, R595). -/
inductive Phase where
  | off | starting | recovery | ready | saving | thermalOff
  deriving DecidableEq, Repr, Inhabited

/-- Power (R573 to R595). `reached` is the last start-up phase that is done; `cause` the cause of a running
save, `dvfsAt` the millisecond of the last DVFS_UPDATE (R577). -/
structure Power where
  phase     : Phase := .off
  reached   : Nat := 0
  stat      : Word := 0
  pwrGood   : Bool := false
  alert     : Bool := false
  cause     : Nat := 0
  dvfsAt    : Nat := 0
  deriving DecidableEq, Repr, Inhabited

/-- A CXL port (R427). -/
structure Port where
  lost    : Bool := false
  givenUp : Bool := false
  since   : Nat := 0
  triedAt : Nat := 0
  ids     : List (Word × Word) := []
  deriving DecidableEq, Repr, Inhabited

/-- What the module sends to its surroundings (R464 to R596): packets and link-control flits, completions'
interrupts, answers, and the levels of its pins. -/
inductive Out where
  | msix (fn vec : Nat)
  | packet (link : Nat) (dl : Bool) (h : PHdr) (data : List Byte)
  | linkResend (link : Nat) (fseq : BitVec 12)
  | linkFlit (link : Nat) (flit : List Byte)
  | linkCtl (link : Nat) (coord : BitVec 32) (n : Nat)
  | linkCredit (link vc bytes : Nat)
  | laneSwitch (link lane : Nat) (fseq : BitVec 12)
  | reply (t : Transport) (sid : BitVec 32) (seq : Word) (body mac : List Byte)
  | chal (t : Transport) (sid : BitVec 32) (nd : BitVec 256) (salt : List Byte) (iter : BitVec 32)
  | ack (t : Transport) (sid : BitVec 32) (mac : List Byte) (role : Nat)
  | busy (t : Transport) | denied (t : Transport)
  | spdm (t : Transport) (code : Byte) (body : List Byte)
  | ibi (payload : Byte)
  | entdaa (pid : BitVec 48) (bcr dcr : Byte)
  | datagram (to_ : Src) (port packets : Nat)
  | arp (mac : BitVec 48) (ip : BitVec 32)
  | echo (mac : BitVec 48) (dst : BitVec 32) (data : List Byte)
  | tdo (bits : List Bool)
  | ptpReq (t3 : Word)
  | pps (level : Bool)
  | cfgRetry (fn : Nat) | cfgOk (fn : Nat)
  | remoteCompl (dst : Coord) (entry : List Byte)
  | rowData (addr : Nat) (unit : Line) (poisoned : Bool)
  | idPub (n : BitVec 4096)
  | alert (low : Bool)
  | mgmtFail (core : Nat)
  | own (h : PHdr) (data : List Byte)
  | held
  | identityLost
  deriving DecidableEq, Repr, Inhabited

/-- The whole state. `mem` is the module's and the host's memory by physical key (Machine/Mem.lean);
`pending` the waiting commands; `poison` holds the poisoned units, `rowErr` corrected errors by row and time, `spares` the
spare rows used of each bank or stack, `retired` the HBM pages given up, `wear` the writes of each word of the persistent bank, `weak` the words
of the bank whose next write does not verify (R551; log entry 128); `free` numbers the free values (log entry 3). -/
structure State where
  pending  : List Instr := []
  mem      : List Host.Cell := []
  spindles : Table Spindle := []
  frames   : Table Frame := []
  mill     : Mill := {}
  host     : HostLink := {}
  fabric   : Fabric := {}
  time     : Time := {}
  sec      : Sec := {}
  baro     : Baro := {}
  power    : Power := {}
  ports    : Table Port := []
  poison   : List Nat := []
  rowErr   : List (Nat × Nat) := []
  spares   : Table Nat := []
  retired  : List Nat := []
  wear     : Table Nat := []
  weak     : List Nat := []
  out      : List Out := []
  free     : Nat := 0
  deriving DecidableEq, Repr, Inhabited

/-- The reasons a step of the model stops with a fault. Nothing in the model raises one: every fault of
the spec is state (a code on a knot, a register, a completion, a record), see NOTES.md '## Stops'. -/
inductive Fault where
  /-- Raised by nobody; kept so that the type is not empty. Safe. -/
  | none
  deriving DecidableEq, Repr, Inhabited

/-- The reasons the model refuses a command. -/
inductive Refusal where
  /-- Raised by an arm of Machine/Dispatch.lean for a command without a meaning yet. Safe. -/
  | notModelled (mnemonic : String)
  deriving DecidableEq, Repr, Inhabited

/-- The module right after reset, before 48 V is good (R573, R581): every register at its Reset column,
nothing written in memory, the persistent bank as shipped (log entry 5), and no command waiting. -/
def State.reset : State := {}

end Sys2Proof.Machine
end

