-- ==== Sys2Proof/Machine/Num.lean ====
section
/-! DEFINITION. Exact linear values, their sums, products and roundings (R58, R64, R83, R87), and the
binary64 operations that the chapters call d64. -/

namespace Sys2Proof.Machine

/-- How a rounding goes (R58, R59): to nearest even, toward zero, stochastically with the 16 Twist bits
`d`, or upward in magnitude (R222). -/
inductive Rnd where
  | rne | rtz
  | sr (d : Nat)
  | up
  deriving DecidableEq, Repr, Inhabited

/-- `m / 2^sh` as an integer under a rounding (R58, R59). -/
def roundShift (m sh : Nat) (r : Rnd) : Nat :=
  let q := m >>> sh
  let rem := m % 2 ^ sh
  match r with
  | .rne => if 2 ^ sh < 2 * rem ∨ (2 * rem = 2 ^ sh ∧ q % 2 = 1) then q + 1 else q
  | .rtz => q
  | .sr d => if d < (rem * 65536) >>> sh then q + 1 else q
  | .up => if rem = 0 then q else q + 1

/-- Rounds `m × 2^e` to a multiple of `2^t`: the multiple's count (R58). -/
def roundTo (m : Nat) (e t : Int) (r : Rnd) : Nat :=
  if t ≤ e then m * 2 ^ (e - t).toNat else roundShift m (t - e).toNat r

/-- The binary order of the leading bit of `m × 2^e`. -/
def leadOrder (m : Nat) (e : Int) : Int := (Nat.log2 m : Int) + e

namespace Lin

/-- The signed integer `z × 2^e` as a value. -/
def ofInt (z : Int) (e : Int) : Lin := if z = 0 then .zero else .fin (decide (z < 0)) z.natAbs e

/-- The value's sign applied to its integer part (zero and NaN count as 0). -/
def sint : Lin → Int
  | .fin neg m _ => if neg then -(m : Int) else m
  | _ => 0

/-- The exponent of a number's integer part. -/
def expo : Lin → Int
  | .fin _ _ e => e
  | _ => 0

/-- Whether the value is the NaN class. -/
def isNan : Lin → Bool
  | .nan => true
  | _ => false

/-- Whether the value is zero. -/
def isZero : Lin → Bool
  | .zero => true
  | .fin _ m _ => m == 0
  | _ => false

/-- The exact sum; NaN with any value gives NaN. -/
def add (x y : Lin) : Lin :=
  match x, y with
  | .nan, _ => .nan
  | _, .nan => .nan
  | .zero, v => v
  | v, .zero => v
  | a, b =>
    let e := min a.expo b.expo
    ofInt (a.sint * 2 ^ (a.expo - e).toNat + b.sint * 2 ^ (b.expo - e).toNat) e

/-- The exact negation. -/
def neg : Lin → Lin
  | .fin n m e => .fin (!n) m e
  | v => v

/-- The exact magnitude. -/
def abs : Lin → Lin
  | .fin _ m e => .fin false m e
  | v => v

/-- The exact difference. -/
def sub (x y : Lin) : Lin := x.add y.neg

/-- The exact product (R68). -/
def mul (x y : Lin) : Lin :=
  match x, y with
  | .nan, _ => .nan
  | _, .nan => .nan
  | .zero, _ => .zero
  | _, .zero => .zero
  | .fin n m e, .fin n' m' e' => if m * m' = 0 then .zero else .fin (xor n n') (m * m') (e + e')

/-- The value times `2^k`, exact. -/
def scale (x : Lin) (k : Int) : Lin :=
  match x with
  | .fin n m e => .fin n m (e + k)
  | v => v

/-- Whether `x < y` as values; false when either is NaN. -/
def lt (x y : Lin) : Bool :=
  if x.isNan || y.isNan then false else decide ((x.sub y).sint < 0)

/-- Whether `x = y` as values; false when either is NaN. -/
def eq (x y : Lin) : Bool :=
  if x.isNan || y.isNan then false else (x.sub y).isZero

/-- Rounds to at most `p` significand bits with the exponent unbounded. -/
def roundSig (x : Lin) (p : Nat) (r : Rnd) : Lin :=
  match x with
  | .fin n m e =>
    if m = 0 then .zero
    else
      let len := Nat.log2 m + 1
      if len ≤ p then .fin n m e
      else
        let q := roundShift m (len - p) r
        if q = 0 then .zero else .fin n q (e + (len - p : Nat))
  | v => v

/-- Rounds to a multiple of `2^t`. -/
def roundGrid (x : Lin) (t : Int) (r : Rnd) : Lin :=
  match x with
  | .fin n m e =>
    let q := roundTo m e t r
    if q = 0 then .zero else .fin n q t
  | v => v

/-- The number with its trailing zero bits moved into the exponent, bit by bit, at most `fuel` of them. -/
def strip (fuel : Nat) (x : Lin) : Lin :=
  match fuel, x with
  | k + 1, .fin n m e => if m % 2 = 0 ∧ m ≠ 0 then strip k (.fin n (m / 2) (e + 1)) else .fin n m e
  | _, v => v

/-- The 24-bit form in which the store holds an AF32 element (R88, R189). -/
def norm24 (x : Lin) : Lin :=
  match x with
  | .fin n m e =>
    if m = 0 then .zero
    else
      let len := Nat.log2 m + 1
      if len ≤ 24 then .fin n (m * 2 ^ (24 - len)) (e - (24 - len : Nat))
      else .fin n (m / 2 ^ (len - 24)) (e + (len - 24 : Nat))
  | v => v

end Lin

/-- Rounds to binary64 to nearest even, subnormals kept; beyond the largest finite value the magnitude
stays at it (R60 with INF = 0; log entry 12). The update rules and the loss use it; the sums of the vector engine, of
spills and of observers go through `round64` (Machine/Formats.lean), which honours ARITH_CTL.INF and sets flags. -/
def d64 (x : Lin) : Lin :=
  match x with
  | .fin n m e =>
    if m = 0 then .zero
    else
      let y := if leadOrder m e < -1022 then (Lin.fin n m e).roundGrid (-1074) .rne
               else (Lin.fin n m e).roundSig 53 .rne
      match y with
      | .fin n' m' e' => if leadOrder m' e' > 1023 then .fin n' (2 ^ 53 - 1) 971 else .fin n' m' e'
      | v => v
  | v => v

/-- `n / d` rounded to binary64 to nearest even, for a positive divisor (R340, R343). -/
def divRat64 (n d : Nat) : Lin :=
  if n = 0 ∨ d = 0 then .zero
  else
    let sh := 120 + Nat.log2 d
    let q := (n * 2 ^ sh) / d
    let sticky := if (n * 2 ^ sh) % d = 0 then 0 else 1
    d64 (.fin false (2 * q + sticky) (-(sh : Int) - 1))

/-- The sum in binary64 to nearest even. -/
def add64 (x y : Lin) : Lin := d64 (x.add y)

end Sys2Proof.Machine
end

