-- ==== Sys2Proof/Machine/Tables.lean ====
section
/-! DEFINITION. The lookup tables of the device (R76, R77, R80, R92, R218), each entry computed from its
definition in fixed point with 200 fraction bits, and the logarithm and power of two under them. -/

namespace Sys2Proof.Machine

/-- Fraction bits of the working fixed point. -/
def fxBits : Nat := 200

/-- The numbers 2^(2^-j) for j = 1, 2, ..., 24, with 200 fraction bits, truncated. -/
def rootsLow : List Nat :=
  [0x16a09e667f3bcc908b2fb1366ea957d3e3adec17512775099da,
   0x1306fe0a31b7152de8d5a46305c85edecbc27343629f502f1af,
   0x1172b83c7d517adcdf7c8c50eb14a792035509ff7d758693f23,
   0x10b5586cf9890f6298b92b71842a98364291408b3ceb0a2a2ba,
   0x1059b0d31585743ae7c548eb68ca417fe53e3495f7df4baf84a,
   0x102c9a3e778060ee6f7caca4f7a29bde93d70a2cabc5cb89ba1,
   0x10163da9fb33356d84a66ae336dcdfa4003ec04c360be240407,
   0x100b1afa5abcbed6129ab13ec11dc954455b8187f0c9741eb3b,
   0x10058c86da1c09ea1ff19d294cf2f679c68bf05eb63f5c41c7a,
   0x1002c605e2e8cec506d21bfc89a23a010806c0a42d5dae7e093,
   0x100162f3904051fa128bca9c55c31e5e06ddd31155fe06c40ed,
   0x1000b175effdc76ba38e31671ca939726694630e2f50ba33128,
   0x100058ba01fb9f96d6cacd4b180917c3e43a86f9ed9b4ced905,
   0x10002c5cc37da9491d0985c348c68e7b3d505d939d869b9e7bc,
   0x1000162e525ee054754457d5995292026d9d47870c82f452393,
   0x10000b17255775c040618bf4a4ade83fca8f8cfdfc7eb1dbf36,
   0x1000058b91b5bc9ae2eed81e9b7d4cfac1b1b76fbf41b08a88e,
   0x100002c5c89d5ec6ca4d7c8acc017b7c9d9cdf6f672d9a286ee,
   0x10000162e43f4f831060e02d839a9d16d6fb332d9babc52de46,
   0x100000b1721bcfc99d9f890ea069117637d190cb3e159dfe87b,
   0x10000058b90cf1e6d97f9ca14dbcc16289fa75ffd0b14cf252e,
   0x1000002c5c863b73f016468f6bac5ca2c11f6d72bc10201528a,
   0x100000162e430e5a18f6119e3c02282a5f70f2c46b0dd191fc2,
   0x1000000b1721835514b86e6d96efd1bff6819e4668beea56a31]

/-- The numbers 2^(2^-j) for j = 25, ..., 48, with 200 fraction bits, truncated. -/
def rootsHigh : List Nat :=
  [0x100000058b90c0b48c6be5df846c5b2f02c95a3bbc2819121eb,
   0x10000002c5c8601cc6b9e94213c72737abfef0e9c3ba606c1f7,
   0x1000000162e42fff037df38aa2b219f06baa53c7e7fa7f95e22,
   0x10000000b17217fba9c739aa5819f44f9c7fa9ee41fe8c78de8,
   0x1000000058b90bfcdee5acd3c1cedc823b10657b2b69adc8eca,
   0x100000002c5c85fe31f35a6a30da1be50fd0f47f54e7c410775,
   0x10000000162e42ff0999ce3541b9fffcfba83c5e11ba83dd62e,
   0x100000000b17217f80f4ef5aadda4555466e70cc0654ee4fe2b,
   0x10000000058b90bfbf8479bd5a81b51ada9f644de97e51fa28e,
   0x1000000002c5c85fdf84bd62ae30a74ccbceb4b8e2dc9eb2fcc,
   0x100000000162e42fefb2fed257559bdaa79b863ee9816628784,
   0x1000000000b17217f7d5a7716bba4a9af17d584482369af7c57,
   0x100000000058b90bfbe9ddbac5e109ccf1d2e27d5d64e66e544,
   0x10000000002c5c85fdf4b15de6f17eb0d96388f475923cfe4ca,
   0x1000000000162e42fefa494f1478fde05516ebab58c5bb5cf5d,
   0x10000000000b17217f7d20cf927c8e94cead93ca662f4a131b1,
   0x1000000000058b90bfbe8f71cb4e4b33e5a06be76fa0b3c655d,
   0x100000000002c5c85fdf477b662b26945d0ac1c4e8b220b6b0a,
   0x10000000000162e42fefa3ae53369388ca690840d4c93ebfc23,
   0x100000000000b17217f7d1d351a389d40c580e8545079f539c8,
   0x10000000000058b90bfbe8e8b2d3d4edeffa3ded817d6dfe5c3,
   0x1000000000002c5c85fdf4741bea6e77f2715723ad873a5c0a2,
   0x100000000000162e42fefa39fe95583c37d5ceed5897017dff7,
   0x1000000000000b17217f7d1cfb72b45e2b9232f795948242138]

/-- The product of the roots that the bits of `f` name, highest bit first; `acc` in working fixed point. -/
def powFold (roots : List Nat) (f nb acc : Nat) : Nat :=
  match roots, nb with
  | r :: rs, k + 1 => powFold rs f k (if f.testBit k then (acc * r) >>> fxBits else acc)
  | _, _ => acc

/-- 2^(f / 2^nb) for 0 ≤ f < 2^nb and nb at most 48, in working fixed point. -/
def powFx (f nb : Nat) : Nat := powFold (rootsLow ++ rootsHigh) f nb (2 ^ fxBits)

/-- The next `nb` fraction bits of log2 of `y`, with y in [1, 2) in working fixed point, onto `acc`. -/
def logFold : Nat → Nat → Nat → Nat
  | 0, _, acc => acc
  | nb + 1, y, acc =>
    let z := (y * y) >>> fxBits
    if 2 ^ (fxBits + 1) ≤ z then logFold nb (z / 2) (2 * acc + 1) else logFold nb z (2 * acc)

/-- log2 (m × 2^e) truncated toward minus infinity to `nb` fraction bits, for m > 0. -/
def logFloor (m : Nat) (e : Int) (nb : Nat) : Int :=
  let k := Nat.log2 m
  let y := if k ≤ fxBits then m * 2 ^ (fxBits - k) else m / 2 ^ (k - fxBits)
  ((k : Int) + e) * 2 ^ nb + (logFold nb y 0 : Nat)

/-- Rounds a signed fixed-point number from `a` to `b` fraction bits (`b ≤ a`), to nearest, ties up. -/
def nearest (z : Int) (a b : Nat) : Int := (z + 2 ^ (a - b) / 2) / 2 ^ (a - b)

/-- Rounds a signed fixed-point number from `a` to `b` fraction bits, to nearest even (R98, R218). -/
def nearestEven (z : Int) (a b : Nat) : Int :=
  if a ≤ b then z * 2 ^ (b - a)
  else
    let q := z / 2 ^ (a - b)
    let rem := z % 2 ^ (a - b)
    if 2 ^ (a - b) < 2 * rem ∨ (2 * rem = 2 ^ (a - b) ∧ q % 2 = 1) then q + 1 else q

/-- The converter (R80): log2 of a positive magnitude to nearest with 16 fraction bits. -/
def conv (m : Nat) (e : Int) : Int := nearest (logFloor m e 60) 60 16

/-- Entry n of the 256-entry table: 2^(n/256) with 26 fraction bits (R76). -/
def pow2Entry8 (n : Nat) : Nat := (powFx n 8 + 2 ^ (fxBits - 27)) >>> (fxBits - 26)

/-- Entry n of T0: 2^(n/16384) with 28 fraction bits (R77). -/
def tableT0 (n : Nat) : Nat := (powFx n 14 + 2 ^ (fxBits - 29)) >>> (fxBits - 28)

/-- Entry (a, c) of T1: 2^(a/4096) × (2^(c/65536) − 1) with 28 fraction bits (R77). -/
def tableT1 (a c : Nat) : Nat :=
  (powFx (16 * a + c) 16 - powFx (16 * a) 16 + 2 ^ (fxBits - 29)) >>> (fxBits - 28)

/-- The bipartite table: 2^(F/65536) with 28 fraction bits (R77). -/
def pow2Entry16 (F : Nat) : Nat := tableT0 (F / 4) + tableT1 (F / 16) (F % 4)

/-- 2^(l/2^8) through the table of R76, as an exact value. -/
def pow2R76 (l : Int) : Lin := .fin false (pow2Entry8 (l % 256).toNat) (l / 256 - 26)

/-- 2^(l/2^16) through the table of R77, as an exact value. -/
def pow2R77 (l : Int) : Lin := .fin false (pow2Entry16 (l % 65536).toNat) (l / 65536 - 28)

/-- log2 (1 + 2^-d) for d = n/512, with 90 fraction bits (R92). -/
def phiAt (n : Nat) : Int :=
  -- 2^(-n/512) = 2^(f/512) / 2^(k + 1), with n = 512 (k + 1) - f
  let k := n / 512
  let f := 512 - n % 512
  let p := if n % 512 = 0 then 2 ^ fxBits >>> k else powFx f 9 >>> (k + 1)
  logFloor (2 ^ fxBits + p) (-(fxBits : Int)) 90

/-- The slope s_n of interval n of the φ table, 39 fraction bits (R92). -/
def phiSlope (n : Nat) : Int := nearest (64 * (phiAt (8 * n + 8) - phiAt (8 * n))) 90 39

/-- The mean of φ over interval n, with 90 fraction bits: the nine-point Newton-Cotes rule, whose error
lies far below 2^-39 (R92; log entry 13). -/
def phiMean (n : Nat) : Int :=
  (989 * phiAt (8 * n) + 5888 * phiAt (8 * n + 1) - 928 * phiAt (8 * n + 2) + 10496 * phiAt (8 * n + 3)
    - 4540 * phiAt (8 * n + 4) + 10496 * phiAt (8 * n + 5) - 928 * phiAt (8 * n + 6)
    + 5888 * phiAt (8 * n + 7) + 989 * phiAt (8 * n + 8)) / 28350

/-- The value v_n of interval n of the φ table, 39 fraction bits (R92). -/
def phiValue (n : Nat) : Int := nearest (phiMean n - phiSlope n * 2 ^ 51 / 128) 90 39

/-- φ(d) for d with 23 fraction bits, 0 ≤ d < 24, as v_n + s_n × u with 39 fraction bits (R92). -/
def phi (d : Nat) : Int :=
  let n : Nat := d / 2 ^ 17
  let u : Nat := d % 2 ^ 17
  phiValue n + phiSlope n * (u : Int) / 2 ^ 23

/-- The constant C of R98: log2 (log2 e) with 16 fraction bits. -/
def expC : Int := 34653

/-- 2^x for x with `nb` fraction bits, rounded to nearest at 53 significand bits (R344). -/
def pow2Exact64 (x : Int) (nb : Nat) : Lin :=
  d64 (.fin false (powFx (x % 2 ^ nb).toNat nb) (x / 2 ^ nb - fxBits))

/-- 1/√(2π), 200 fraction bits, truncated. -/
def rootTwoPi : Int := 0x662114cf50d942343f2cf1402eae38bfd3829f30512706d8c0

/-- The sum of the series Σ (−1)^j x^(2j+1) / (2^j j! (2j+1)) from term `j` = `k` on, at x = `x`/64, `fuel` terms in working
fixed point; `t` is term k's power over its factorials. -/
def normalSum (x : Int) : Nat → Nat → Int → Int → Int
  | 0, _, _, s => s
  | fuel + 1, k, t, s =>
    normalSum x fuel (k + 1) (-(t * x * x) / (8192 * ((k : Int) + 1))) (s + t / (2 * (k : Int) + 1))

/-- The normal distribution function Φ(n/64 − 8), 30 fraction bits, to nearest (R218). -/
def phiNormal (n : Nat) : Int :=
  let x : Int := (n : Int) - 512
  nearest (2 ^ (fxBits - 1) + rootTwoPi * normalSum x 200 0 (x * 2 ^ (fxBits - 6)) 0 / 2 ^ fxBits) fxBits 30

end Sys2Proof.Machine
end

