-- ==== Sys2Proof/Machine/Twist.lean ====
section
/-! DEFINITION. The Twist generator (R350, R351), the counters of its purposes (R352) and the draw that
stochastic rounding compares with (R59). -/

namespace Sys2Proof.Machine

/-- Rotates a 32-bit word left (R351). -/
def rotl32 (v : BitVec 32) (n : Nat) : BitVec 32 := v.rotateLeft n

/-- The four words of the generator's working state (R351). -/
structure Quad where
  x0 : BitVec 32
  x1 : BitVec 32
  x2 : BitVec 32
  x3 : BitVec 32
  deriving DecidableEq, Repr, Inhabited

/-- The rotation pairs ROT (R351). -/
def twistRot : Nat → Nat × Nat
  | 0 => (13, 15)
  | 1 => (26, 6)
  | 2 => (17, 29)
  | 3 => (16, 24)
  | 4 => (11, 19)
  | 5 => (7, 27)
  | 6 => (23, 9)
  | _ => (5, 21)

/-- One round (R351). -/
def twistRound (q : Quad) (i : Nat) : Quad :=
  let r := twistRot (i % 8)
  let y0 := q.x0 + q.x1
  let y1 := rotl32 q.x1 r.1 ^^^ y0
  let y2 := q.x2 + q.x3
  let y3 := rotl32 q.x3 r.2 ^^^ y2
  { x0 := y0, x1 := y3, x2 := y2, x3 := y1 }

/-- The s-th key injection (R351). -/
def twistInject (k0 k1 k2 : BitVec 32) (s : Nat) (q : Quad) : Quad :=
  let ks : Nat → BitVec 32 := fun i => if i % 3 = 0 then k0 else if i % 3 = 1 then k1 else k2
  { x0 := q.x0 + ks s, x1 := q.x1 + ks (s + 1), x2 := q.x2 + ks (s + 2), x3 := q.x3 + BitVec.ofNat 32 s }

/-- The 128 output bits for a 64-bit key and a 128-bit counter (R351). -/
def twist (key ctr : Nat) : Nat :=
  let k0 := BitVec.ofNat 32 key
  let k1 := BitVec.ofNat 32 (key >>> 32)
  let k2 := k0 ^^^ k1 ^^^ 0x5A3C96E1#32
  let q0 : Quad := { x0 := BitVec.ofNat 32 ctr, x1 := BitVec.ofNat 32 (ctr >>> 32),
                     x2 := BitVec.ofNat 32 (ctr >>> 64), x3 := BitVec.ofNat 32 (ctr >>> 96) }
  let q := [0, 1, 2, 3, 4].foldl (fun q s =>
    [0, 1, 2, 3].foldl (fun q r => twistRound q (4 * s + r)) (twistInject k0 k1 k2 s q)) q0
  let q := twistInject k0 k1 k2 5 q
  q.x0.toNat + q.x1.toNat * 2 ^ 32 + q.x2.toNat * 2 ^ 64 + q.x3.toNat * 2 ^ 96

/-- The counter of a purpose (R350). -/
def twistCtr (purpose step elem : Nat) : Nat :=
  purpose * 2 ^ 120 + (step % 2 ^ 48) * 2 ^ 72 + elem % 2 ^ 72

/-- A device draw: STREAM 0, bits [15:0] (R352, R59). -/
def draw16 (seed purpose step elem : Nat) : Nat :=
  twist ((seed % 2 ^ 48) * 2 ^ 16) (twistCtr purpose step elem) % 65536

/-- The ELEM layout of purposes 0xE0 to 0xE2 (R352). -/
def elemTile (lspn tile row col low : Nat) : Nat :=
  (lspn % 256) * 2 ^ 64 + (tile % 64) * 2 ^ 58 + (row % 4096) * 2 ^ 46 + (col % 1024) * 2 ^ 36 + low % 2 ^ 36

/-- The ELEM layout of purpose 0xE3 (R352). -/
def elemVe (lspn ord idx add : Nat) : Nat :=
  (lspn % 256) * 2 ^ 64 + (ord % 65536) * 2 ^ 48 + (idx % 2 ^ 24) * 2 ^ 24 + add % 2 ^ 24

/-- The ELEM layout of purpose 0xE9: the segment of the spot-test program and the element (R532). -/
def elemSpot (segment idx : Nat) : Nat := (segment % 256) * 2 ^ 64 + idx % 2 ^ 64

/-- The ELEM layout of purpose 0xE4 (R352). -/
def elemCombine (lspn ord idx : Nat) : Nat :=
  (lspn % 256) * 2 ^ 64 + (ord % 2 ^ 24) * 2 ^ 40 + idx % 2 ^ 40

/-- The ELEM layout of purposes 0xE5 to 0xE7 (R352). -/
def elemUpd (lspn ord idx : Nat) : Nat :=
  (lspn % 256) * 2 ^ 64 + (ord % 65536) * 2 ^ 48 + idx % 2 ^ 48

/-- The ELEM layout of purpose 0xE8: bits [22:7] of the output's base address, row, column (R352). -/
def elemQz (base row col : Nat) : Nat :=
  (base / 128 % 65536) * 2 ^ 56 + (row % 2 ^ 32) * 2 ^ 24 + col % 2 ^ 24

end Sys2Proof.Machine
end

