-- ==== Sys2Proof/Machine/Formats.lean ====
section
/-! DEFINITION. The element formats (R18, R441), their decoding and their encoding under the modes of
ARITH_CTL, with the flags of R49 to R60. A logarithm is an integer count of 2^-23 here (the Q10.23 of
R189 and R260), of which every narrower log is an exact multiple. -/

namespace Sys2Proof.Machine

/-- The element formats by their FMT codes (R441). -/
inductive Fmt where
  | lg16 | lg8 | ng4 | fp32 | fp16 | bf16 | e4m3 | e5m2 | fp4 | in4 | int8 | b1 | b2
  | mxfp4 | mxe4m3 | mxe5m2 | mxint8 | f64 | aw64 | al32 | ai32 | u32 | cand | mask | raw
  deriving DecidableEq, Repr, Inhabited

/-- The format of an FMT code; none for a reserved one (R441). -/
def Fmt.ofCode : Nat → Option Fmt
  | 0x00 => some .lg16 | 0x01 => some .lg8 | 0x02 => some .ng4 | 0x04 => some .fp32
  | 0x05 => some .fp16 | 0x06 => some .bf16 | 0x07 => some .e4m3 | 0x08 => some .e5m2
  | 0x09 => some .fp4 | 0x0A => some .in4 | 0x0B => some .int8 | 0x0C => some .b1
  | 0x0D => some .b2 | 0x0E => some .mxfp4 | 0x0F => some .mxe4m3 | 0x10 => some .mxe5m2
  | 0x11 => some .mxint8 | 0x12 => some .f64 | 0x13 => some .aw64 | 0x14 => some .al32
  | 0x15 => some .ai32 | 0x16 => some .u32 | 0x17 => some .cand | 0x18 => some .mask
  | 0x19 => some .raw | _ => none

/-- Bits per element (R18, R356 for the masks, R223 for the candidates). -/
def Fmt.bits : Fmt → Nat
  | .lg16 => 16 | .lg8 => 8 | .ng4 => 4 | .fp32 => 32 | .fp16 => 16 | .bf16 => 16 | .e4m3 => 8
  | .e5m2 => 8 | .fp4 => 4 | .in4 => 4 | .int8 => 8 | .b1 => 1 | .b2 => 2 | .mxfp4 => 4
  | .mxe4m3 => 8 | .mxe5m2 => 8 | .mxint8 => 8 | .f64 => 64 | .aw64 => 64 | .al32 => 32
  | .ai32 => 32 | .u32 => 32 | .cand => 64 | .mask => 1 | .raw => 8

/-- Whether the format belongs to the log family (R18). -/
def Fmt.isLog : Fmt → Bool
  | .lg16 | .lg8 | .ng4 | .al32 => true
  | _ => false

/-- Whether elements come in MX blocks (R41). -/
def Fmt.isMx : Fmt → Bool
  | .mxfp4 | .mxe4m3 | .mxe5m2 | .mxint8 => true
  | _ => false

/-- The rounding modes (R46, R48). -/
inductive RMode where
  | rne | rtz | sr
  deriving DecidableEq, Repr, Inhabited

/-- The modes that govern one operation: its rounding, ARITH_CTL.INF and SUBN, and the rounding of ARITH_CTL.RND
itself, which MX elements take (R42). -/
structure Modes where
  rm   : RMode
  inf  : Bool
  subn : Bool
  dflt : RMode
  deriving DecidableEq, Repr, Inhabited

/-- ARITH_CTL.RND (R46). -/
def defaultRound (ctl : BitVec 32) : RMode :=
  if ctl.toNat % 4 = 1 then .rtz else if ctl.toNat % 4 = 2 then .sr else .rne

/-- The modes of a captured ARITH_CTL and a rounding modifier (R46, R48). -/
def Modes.of (ctl : BitVec 32) (modifier : Nat) : Modes :=
  { rm := match modifier with
      | 1 => .rne
      | 2 => .rtz
      | 3 => .sr
      | _ => defaultRound ctl
    dflt := defaultRound ctl
    inf := ctl.toNat.testBit 4
    subn := ctl.toNat.testBit 3 }

/-- The rounding at one element; the draw is formed only where the mode is stochastic (R59). -/
def RMode.at (m : RMode) (d : Unit → Nat) : Rnd :=
  match m with
  | .rne => .rne
  | .rtz => .rtz
  | .sr => .sr (d ())

namespace Flags
/-- The union of two sets of sticky flags (R49, R254, R332). -/
def or (a b : Flags) : Flags := { arith := a.arith ||| b.arith, qz := a.qz ||| b.qz, upd := a.upd ||| b.upd }
/-- No flag. -/
def no : Flags := {}
/-- INVALID (R49 bit 0). -/
def invalid : Flags := { arith := 1 }
/-- OVF (R49 bit 1). -/
def ovf : Flags := { arith := 2 }
/-- UNF (R49 bit 2). -/
def unf : Flags := { arith := 4 }
/-- FROST (R49 bit 3). -/
def frost : Flags := { arith := 8 }
/-- UNF and FROST together (R53, R55). -/
def unfFrost : Flags := { arith := 12 }
/-- INEXACT (R49 bit 4). -/
def inexact : Flags := { arith := 16 }
/-- WRAP (R49 bit 5). -/
def wrap : Flags := { arith := 32 }
/-- SATQ (R254). -/
def satq : Flags := { qz := 1 }
/-- OUTLIER_OVF (R254). -/
def outlierOvf : Flags := { qz := 2 }
/-- DEGEN (R332). -/
def degen : Flags := { upd := 1 }
/-- STEP_SKEW (R332). -/
def stepSkew : Flags := { upd := 2 }
end Flags

/-- A decoded element: a linear value, or a log with 23 fraction bits (R65, R66). -/
inductive Val where
  | lin (x : Lin)
  | log (g : Lg)
  deriving DecidableEq, Repr, Inhabited

namespace Val
/-- Whether the value is of NaN class (R37). -/
def isNan : Val → Bool
  | .lin x => x.isNan
  | .log .nan => true
  | .log _ => false
/-- Whether the value is zero (R43). -/
def isZero : Val → Bool
  | .lin x => x.isZero
  | .log .zero => true
  | .log _ => false
/-- Whether the value is negative. -/
def isNeg : Val → Bool
  | .lin (.fin n _ _) => n
  | .log (.num n _) => n
  | _ => false
end Val

/-! ### Two's complement and logs -/

/-- The low `w` bits of `v` read as two's complement. -/
def sxt (v w : Nat) : Int := if v.testBit (w - 1) then (v % 2 ^ w : Nat) - (2 ^ w : Nat) else (v % 2 ^ w : Nat)

/-- An integer as `w` bits of two's complement. -/
def toBits (z : Int) (w : Nat) : Nat := (z % (2 ^ w : Nat)).toNat

/-- log2 of a linear magnitude through the converter, with 23 fraction bits of which 16 count (R80). -/
def convLin (x : Lin) : Lg :=
  match x with
  | .zero => .zero
  | .nan => .nan
  | .fin n m e => if m = 0 then .zero else .num n (conv m e * 128)

/-- A value as a log, linear values through the converter (R61, R80). -/
def Val.toLog : Val → Lg
  | .lin x => convLin x
  | .log g => g

/-- A log of at most 8 fraction bits as a linear value, through the table of R76 (R62). -/
def logLin76 (g : Lg) : Lin :=
  match g with
  | .zero => .zero
  | .nan => .nan
  | .num n l => match pow2R76 (l / 32768) with
    | .fin _ m e => .fin n m e
    | v => v

/-- A log rounded to 16 fraction bits, nearest even, as a linear value through the table of R77 (R219). -/
def logLin77 (g : Lg) : Lin :=
  match g with
  | .zero => .zero
  | .nan => .nan
  | .num n l => match pow2R77 (nearestEven l 23 16) with
    | .fin _ m e => .fin n m e
    | v => v

/-- Rounds a log of `a` fraction bits to `b` under a rounding (R58): RTZ truncates toward minus infinity,
SR rounds up on the top 16 of the dropped bits. DESIGN CHOICE (log entry 95): R59 compares the discarded bits with "as many
bits" of the draw and does not say which where fewer than 16 are discarded (LG16 to LG8 drops five); here the discarded bits
are padded with zeros to 16, so the top bits of the draw's bits [15:0] decide. -/
def roundLog (l : Int) (a b : Nat) (r : Rnd) : Int :=
  if a ≤ b then l * 2 ^ (b - a)
  else
    let sh := a - b
    let q := l / 2 ^ sh
    let rem := (l % 2 ^ sh).toNat
    match r with
    | .rne => if 2 ^ sh < 2 * rem ∨ (2 * rem = 2 ^ sh ∧ q % 2 = 1) then q + 1 else q
    | .rtz => q
    | .sr d => if d < (rem * 65536) >>> sh then q + 1 else q
    | .up => if rem = 0 then q else q + 1

/-- Writes a log of `a` fraction bits to a log format of `f` fraction bits and `w` bits in all (R55, R60). DEDUCED (log entry
96): for AL32 (`w` = 32, `f` = 23) R190 gives L 31 bits read as Q8.23, whose reserved value 0x4000_0000 is -128.0, and yet
calls it -256.0 and states the limits of saturation as 256 and -256; this follows the 31 bits, so a log at or above 128
saturates with OVF and one at or below -128 becomes zero with UNF and FROST. -/
def encLogBits (g : Lg) (a f w : Nat) (r : Rnd) : Nat × Flags :=
  match g with
  | .zero => (2 ^ (w - 2), .no)
  | .nan => (2 ^ (w - 1) + 2 ^ (w - 2), .invalid)
  | .num n l =>
    let s := if n then 2 ^ (w - 1) else 0
    let q := roundLog l a f r
    let lim : Int := (2 ^ (w - 2) : Nat) - 1
    if q < -lim then (2 ^ (w - 2), .unfFrost)
    else if lim < q then (s + lim.toNat, .ovf)
    else (s + toBits q (w - 1), .no)

/-! ### IEEE and OCP formats -/

/-- How the top codes of a floating format read (R34). -/
inductive FpKind where
  | ieee | e4m3 | plain
  deriving DecidableEq, Repr, Inhabited

/-- The fields of a floating format (R34). -/
structure Fp where
  eb   : Nat
  mb   : Nat
  bias : Nat
  kind : FpKind
  sub  : Bool
  deriving DecidableEq, Repr, Inhabited

/-- The floating format of an element format (R34); `sub` says that SUBN governs it (R53, R54). -/
def Fmt.fp : Fmt → Option Fp
  | .fp32 => some ⟨8, 23, 127, .ieee, true⟩
  | .fp16 => some ⟨5, 10, 15, .ieee, true⟩
  | .bf16 => some ⟨8, 7, 127, .ieee, true⟩
  | .e4m3 | .mxe4m3 => some ⟨4, 3, 7, .e4m3, true⟩
  | .e5m2 | .mxe5m2 => some ⟨5, 2, 15, .ieee, true⟩
  | .fp4 | .mxfp4 => some ⟨2, 1, 1, .plain, false⟩
  | .f64 | .aw64 => some ⟨11, 52, 1023, .ieee, false⟩
  | _ => none

/-- The largest finite value of a floating format: its binary order and its significand with the implicit
bit (R34). -/
def Fp.top (p : Fp) : Int × Nat :=
  match p.kind with
  | .ieee => ((2 ^ p.eb - 2 : Nat) - (p.bias : Int), 2 ^ (p.mb + 1) - 1)
  | .e4m3 => (8, 14)
  | .plain => ((2 ^ p.eb - 1 : Nat) - (p.bias : Int), 2 ^ (p.mb + 1) - 1)

/-- Decodes a floating code (R34, R36, R37, R43, R53). -/
def fpDecode (p : Fp) (subn : Bool) (code : Nat) : Lin × Flags :=
  let neg := code.testBit (p.eb + p.mb)
  let ex := bitsOf code p.mb p.eb
  let m := code % 2 ^ p.mb
  let emin : Int := 1 - (p.bias : Int) - (p.mb : Int)
  if p.kind = .ieee ∧ ex = 2 ^ p.eb - 1 then (.nan, if m = 0 then .invalid else .no)
  else if p.kind = .e4m3 ∧ ex = 15 ∧ m = 7 then (.nan, .no)
  else if ex = 0 then
    if m = 0 then (.zero, .no)
    else if p.sub && subn then (.zero, .frost)
    else (.fin neg m emin, .no)
  else (.fin neg (2 ^ p.mb + m) (emin + (ex - 1 : Nat)), .no)

/-- The code of a magnitude that the format holds exactly. -/
def fpCode (p : Fp) (neg : Bool) (m : Nat) (e : Int) : Nat :=
  let s := if neg then 2 ^ (p.eb + p.mb) else 0
  let emin : Int := 1 - (p.bias : Int) - (p.mb : Int)
  if m = 0 then 0
  else
    let o := leadOrder m e
    if o < 1 - (p.bias : Int) then s + (if emin ≤ e then m * 2 ^ (e - emin).toNat else m >>> (emin - e).toNat)
    else
      let lo := o - p.mb
      let sig := if lo ≤ e then m * 2 ^ (e - lo).toNat else m >>> (lo - e).toNat
      s + (o + p.bias).toNat * 2 ^ p.mb + (sig - 2 ^ p.mb)

/-- The canonical NaN of a floating format; 0x7 for FP4, which has none (R44, R45). -/
def Fp.nanCode (p : Fp) : Nat :=
  match p.kind with
  | .ieee => (2 ^ p.eb - 1) * 2 ^ p.mb + 2 ^ (p.mb - 1)
  | .e4m3 => 0x7F
  | .plain => 7

/-- Encodes a linear value into a floating format (R51 to R60, R64). `sat` keeps an overflow finite
whatever INF says (R42). -/
def fpEncode (p : Fp) (md : Modes) (sat : Bool) (x : Lin) (r : Rnd) : Nat × Flags :=
  match x with
  | .zero => (0, .no)
  | .nan => (p.nanCode, .invalid)
  | .fin n m e =>
    if m = 0 then (0, .no)
    else
      let emin : Int := 1 - (p.bias : Int)
      let y := (Lin.fin n m e).roundSig (p.mb + 1) r
      let small := leadOrder m e < emin
      if small && !(p.sub && md.subn) then
        -- the subnormal grid
        match (Lin.fin n m e).roundGrid (emin - p.mb) r with
        | .fin n' m' e' =>
          (fpCode p n' m' e', if p.kind = .plain ∨ (Lin.fin n' m' e').eq (.fin n m e) then .no else .unf)
        | _ => (0, if p.kind = .plain then .no else .unfFrost)
      else
        match y with
        | .fin n' m' e' =>
          let o := leadOrder m' e'
          if o < emin then (0, .unfFrost)
          else
            let t := p.top
            let lim : Lin := .fin false t.2 (t.1 - p.mb)
            if lim.lt (.fin false m' e') then
              let s := if n then 2 ^ (p.eb + p.mb) else 0
              if md.inf && p.kind = .ieee && !sat && md.rm ≠ .rtz then (s + (2 ^ p.eb - 1) * 2 ^ p.mb, .ovf)
              else (s + fpCode p false t.2 (t.1 - p.mb), .ovf)
            else (fpCode p n' m' e', .no)
        | _ => (0, .unfFrost)

/-- Rounds a linear value to an integer of `w` bits and applies the limits of R60 (R64, R45). -/
def intEncode (w : Nat) (x : Lin) (r : Rnd) : Nat × Flags :=
  let hi : Int := (2 ^ (w - 1) : Nat) - 1
  let lo : Int := -(2 ^ (w - 1) : Nat)
  match x with
  | .nan => (hi.toNat, .invalid)
  | .zero => (0, .no)
  | .fin n m e =>
    let q := roundTo m e 0 r
    let z : Int := if n then -(q : Int) else q
    if hi < z then (hi.toNat, .ovf) else if z < lo then (toBits lo w, .ovf) else (toBits z w, .no)

/-! ### Running sums in binary64 (R46, R60, R209, R223, R226, R271) -/

/-- The layout of binary64 and AW64 (R34, R191). -/
def f64Fp : Fp := ⟨11, 52, 1023, .ieee, false⟩

/-- The infinity that a sum in binary64 leaves where ARITH_CTL.INF asks for one (R60): a magnitude of 2^1024, which no
finite value of the format has. -/
def inf64 (neg : Bool) : Lin := .fin neg 1 1024

/-- Whether a running sum is that infinity. -/
def isInf64 (x : Lin) : Bool :=
  match x with
  | .fin _ m e => m ≠ 0 && decide (1023 < leadOrder m e)
  | _ => false

/-- A binary64 code as an operand: its value, and INVALID where it is an infinity (R36). -/
def decode64 (code : Nat) : Lin × Flags := fpDecode f64Fp false code

/-- The binary64 code that holds a value, to nearest even, and the flags of its encoding (R44, R51, R53, R60). -/
def encode64 (inf : Bool) (x : Lin) : Nat × Flags := fpEncode f64Fp ⟨.rne, inf, false, .rne⟩ false x .rne

/-- Rounds a number to binary64 to nearest even as one addition leaves it: subnormals kept with the flags of R53, an
overflow with OVF at the largest finite value or, where INF is 1, at infinity (R60). A NaN sets no flag until it is
written (R51). -/
def round64 (inf : Bool) (x : Lin) : Lin × Flags :=
  match x with
  | .fin n m e =>
    let o := encode64 inf (.fin n m e)
    if inf && o.2.arith &&& 2 ≠ 0 then (inf64 n, o.2) else ((decode64 o.1).1, o.2)
  | v => (v, .no)

/-- One addition in binary64 to nearest even under ARITH_CTL.INF. An infinity that an earlier addition left is an operand
that decodes to NaN with INVALID (R36; log entry 97). -/
def sum64 (inf : Bool) (x y : Lin) : Lin × Flags :=
  if isInf64 x || isInf64 y then (.nan, .invalid) else round64 inf (x.add y)

/-- A running binary64 sum with the flags it has gathered. -/
structure Sum64 where
  v : Lin := .zero
  f : Flags := {}
  deriving DecidableEq, Repr, Inhabited

/-- Adds one value to a running binary64 sum. -/
def Sum64.plus (inf : Bool) (a : Sum64) (x : Lin) : Sum64 :=
  let o := sum64 inf a.v x
  ⟨o.1, a.f.or o.2⟩

/-- One operation of binary64 under ARITH_CTL.INF on values that carry their flags: rounded to nearest even with the flags of R53 and
R60; an infinity among its operands is a NaN with INVALID (R36; log entry 97). -/
def Sum64.op (inf : Bool) (g : Lin → Lin → Lin) (a b : Sum64) : Sum64 :=
  if isInf64 a.v || isInf64 b.v then ⟨.nan, (a.f.or b.f).or .invalid⟩
  else
    let o := round64 inf (g a.v b.v)
    ⟨o.1, (a.f.or b.f).or o.2⟩

/-- The flags of a sum as its result reports them: none but INVALID where the result is NaN (R52). -/
def Sum64.flags (a : Sum64) : Flags := if a.v.isNan then { arith := a.f.arith &&& 1 } else a.f

/-! ### Elements -/

/-- The log2 magnitude of an NG4 grid code in eighths (R25). -/
def ng4Log8 : Nat → Int
  | 1 => -27 | 2 => -18 | 3 => -13 | 4 => -9 | 5 => -5 | 6 => -3 | _ => 0

/-- Decodes an element that needs no block scale (R20 to R37, R190); block formats decode their bare
element here. -/
def decodeElem (f : Fmt) (subn : Bool) (code : Nat) : Val × Flags :=
  let lg (w fr : Nat) : Val × Flags :=
    let l := sxt code (w - 1)
    if code % 2 ^ (w - 1) = 2 ^ (w - 2) then (.log (if code.testBit (w - 1) then .nan else .zero), .no)
    else (.log (.num (code.testBit (w - 1)) (l * 2 ^ (23 - fr))), .no)
  match f with
  | .lg16 => lg 16 8
  | .lg8 => lg 8 3
  | .al32 => lg 32 23
  | .ng4 =>
    if code % 16 = 0 then (.log .zero, .no)
    else if code % 16 = 8 then (.log .nan, .no)
    else (.log (.num (code.testBit 3) (ng4Log8 (code % 8) * 2 ^ 20)), .no)
  | .in4 => (.lin (.ofInt (sxt code 4) 0), .no)
  | .int8 => (.lin (.ofInt (sxt code 8) 0), .no)
  | .mxint8 => (.lin (.ofInt (sxt code 8) (-6)), .no)
  | .ai32 => (.lin (.ofInt (sxt code 32) 0), .no)
  | .b1 => (.lin (.fin (code.testBit 0) 1 0), .no)
  | .b2 => (.lin (.ofInt ((if code.testBit 1 then -2 else 2) + (if code.testBit 0 then -1 else 1)) (-1)), .no)
  | .u32 => (.lin (.ofInt (code % 2 ^ 32 : Nat) 0), .no)
  | .cand | .mask | .raw => (.lin (.ofInt code 0), .no)
  | f => match f.fp with
    | some p => let d := fpDecode p subn code; (.lin d.1, d.2)
    | none => (.lin .zero, .no)

/-- Encodes a value into an element format that needs no block scale (R58 to R64, R219). `narrow` says
that a log value's fraction has at most 8 bits and goes to a linear target through R76 (R62); else it goes
through R77 (R219, R268). -/
def encodeElem (f : Fmt) (md : Modes) (narrow : Bool) (v : Val) (r : Rnd) : Nat × Flags :=
  let linOf : Lin := match v with
    | .lin x => x
    | .log g => if narrow then logLin76 g else logLin77 g
  let logTo (w fr : Nat) : Nat × Flags :=
    match v with
    | .log g => encLogBits g 23 fr w r
    | .lin x => encLogBits (match convLin x with
        | .num n l => .num n (l / 128)
        | g => g) 16 fr w r
  match f with
  | .lg16 => logTo 16 8
  | .lg8 => logTo 8 3
  | .al32 => logTo 32 23
  | .in4 => intEncode 4 linOf r
  | .int8 => intEncode 8 linOf r
  | .mxint8 => intEncode 8 (linOf.scale 6) r
  | .ai32 => intEncode 32 linOf r
  | f => match f.fp with
    | some p => fpEncode p md f.isMx linOf r
    | none => (0, .no)

/-! ### NG4 under a block scale (R27) -/

/-- The fixed-point magnitude 2^(k/8) times 2^200, for k ≤ 0 (R25). -/
def ng4Mag (k8 : Int) : Nat := powFx (k8 % 8).toNat 3 >>> (-(k8 / 8)).toNat

/-- A magnitude as fixed point with 200 fraction bits, truncated. -/
def magFx (v : Val) : Nat :=
  match v with
  | .lin (.fin _ m e) => if 0 ≤ e + 200 then m * 2 ^ (e + 200).toNat else m >>> (-(e + 200)).toNat
  | .log (.num _ l) =>
    let p := powFx (l % 2 ^ 23).toNat 23
    let i := l / 2 ^ 23
    if 0 ≤ i then p * 2 ^ i.toNat else p >>> (-i).toNat
  | _ => 0

/-- The seven grid logs in eighths, by grid point 1 to 7 (R25). -/
def ng4Point : Nat → Int := ng4Log8

/-- The largest grid point (0 for zero) whose log does not exceed `l` of 23 fraction bits (R27). -/
def ng4Below (l : Int) : Nat :=
  ([1, 2, 3, 4, 5, 6, 7].filter fun n => ng4Point n * 2 ^ 20 ≤ l).length

/-- The grid point of a scaled magnitude r ≤ 1.0: its log `l` (23 fraction bits) and the exact value for SR (R27). The quotient p of a
log below g1, r / g1, is a power of two formed from the difference of the logs, so that no exact quotient is cut short. -/
def ng4Grid (l : Int) (r : Val) (rnd : Rnd) : Nat :=
  match rnd with
  | .rne | .up =>
    if l < -35 * 2 ^ 20 then 0
    else 1 + ([-2949120, -2031616, -1441792, -917504, -524288, -196608].filter
      fun (m : Int) => m * 8 < l).length
  | .rtz => ng4Below l
  | .sr d =>
    let fx := magFx r
    let lo := match r with
      | .log _ => min 6 (ng4Below l)
      | .lin _ => ([1, 2, 3, 4, 5, 6].filter fun n => ng4Mag (ng4Point n) ≤ fx).length
    let a := if lo = 0 then 0 else ng4Mag (ng4Point lo)
    let b := ng4Mag (ng4Point (lo + 1))
    if d < (match lo, r with
      | 0, .log (.num _ l) => magFx (.log (.num false (l - ng4Point 1 * 2 ^ 20))) >>> 184
      | _, _ => ((fx - a) * 65536) / (b - a)) then lo + 1 else lo

end Sys2Proof.Machine
end

