-- ==== Sys2Proof/Machine/Bank.lean ====
section
/-! DEFINITION. The persistent bank as shipped (R550 to R555; log entry 5) and its map. -/

namespace Sys2Proof.Machine

/-- How many logical spindles frame f holds, by the grade as the bank gives it: 1 LNG-A256, 2 LNG-A240, 3 LNG-A224 (R105, R552). -/
def frameCount (grade f : Nat) : Nat :=
  match grade with
  | 1 => 8
  | 2 => if f % 2 = 0 then 8 else 7
  | _ => 7

/-- The lowest logical spindle of frame f, by the grade (R105, R106). -/
def frameBase (grade f : Nat) : Nat :=
  match grade with
  | 1 => 8 * f
  | 2 => 15 * (f / 2) + 8 * (f % 2)
  | _ => 7 * f

/-- The home frame of a logical spindle, by the grade (R105, R106). -/
def homeFrame (grade n : Nat) : Nat :=
  match grade with
  | 1 => n / 8
  | 2 => 2 * (n / 15) + n % 15 / 8
  | _ => n / 7

/-- MILL_SPMAP of a logical spindle that is home-seated at the slot of its rank in its frame (R105, R108). -/
def gradeSpmap (grade n : Nat) : BitVec 32 :=
  let f := homeFrame grade n
  BitVec.ofNat 32 (f * 2 ^ 21 + (9 * f + (n - frameBase grade f)) * 2 ^ 12)

/-- MILL_SPMAP as shipped: the module is of grade LNG-A256 (R108; log entry 5). -/
def shippedSpmap (n : Nat) : BitVec 32 := gradeSpmap 1 n

/-- MILL_SITE as shipped (R109; log entry 5): slots 0 to 7 active, slot 8 a reserve. -/
def shippedSite (p : Nat) : BitVec 32 := if p % 9 = 8 then 1 else 0

/-- The first byte of the grade-and-repair region (R550). -/
def gradeBase : Nat := 0x1000
/-- The first byte of SPMAP in the bank (R552). -/
def spmapBase : Nat := gradeBase + 8
/-- The first byte of SITE in the bank (R552). -/
def siteBase : Nat := gradeBase + 1032
/-- The first byte of REPAIR in the bank (R552). -/
def repairBase : Nat := gradeBase + 1320
/-- The first byte of the configuration region, WPREG (R550, R552). -/
def wpBase : Nat := 0x5000
/-- The first byte of CRED (R552). -/
def credBase : Nat := wpBase + 2048
/-- The first byte of BIND (R552). -/
def bindBase : Nat := wpBase + 4096
/-- BOOTPREF (R552). -/
def bootPref : Nat := wpBase + 6144
/-- The first byte of the save area (R550). -/
def saveBase : Nat := 0x9000
/-- The first byte of the barograph region (R550). -/
def baroBase : Nat := 0x10000

/-- The WP registers as shipped, by word of WPREG (R553; the Reset columns of R464, R535, R538, R539, R566,
R571). -/
def shippedWp : Nat → Nat
  | 1 => 600 * 2 ^ 16 + 60 * 2 ^ 8
  | 2 => 10
  | 3 => 4 * 2 ^ 12 + 3 * 2 ^ 8 + 1
  | 4 => 24 * 2 ^ 24 + 2 ^ 23
  | 5 => 2 ^ 20
  | _ => 0

/-- SHA-512 of 1,880 bytes of zero, first byte lowest: DIGEST of an identity region that holds nothing yet (R555). -/
def emptyDigest : Nat :=
  0x3f1458ae484c2a2377423c6fadd4b04d09871b96f00a9ebe31e6e14ab47ae30ab4b57d1958312ecd1f6ee9e0375f893a2553decd7c74e3c3bafb9866832b6186

/-- The byte the bank ships with at an offset. -/
def bankRest (off : Nat) : Byte :=
  let le (v base : Nat) : Byte := BitVec.ofNat 8 (v >>> (8 * (off - base)))
  if off < gradeBase then (if 1880 ≤ off ∧ off < 1944 then le emptyDigest 1880 else 0)
  else if off < spmapBase then le 1 gradeBase
  else if off < siteBase then le (shippedSpmap ((off - spmapBase) / 4)).toNat (off - (off - spmapBase) % 4)
  else if off < repairBase then le (shippedSite (off - siteBase)).toNat off
  else if wpBase ≤ off ∧ off < credBase then le (shippedWp ((off - wpBase) / 8)) (off - (off - wpBase) % 8)
  else 0

/-- The region of a bank offset (R554). -/
def bankRegion (off : Nat) : Nat :=
  if off < 0x1000 then 0 else if off < 0x5000 then 1 else if off < 0x9000 then 2 else if off < 0x10000 then 3 else 4

/-- The endurance of a word of a region (R550). -/
def endurance (region : Nat) : Nat :=
  match region with
  | 0 => 10 ^ 5
  | 1 => 10 ^ 6
  | _ => 10 ^ 9

end Sys2Proof.Machine
end

