-- ==== Sys2Proof/Machine/Mem.lean ====
section
/-! DEFINITION. The memory of the module and of its host: bytes by physical key, as a list of cells in one
canonical form (keys strictly rising, no cell equal to what an unlisted key reads as). -/

namespace Sys2Proof.Machine

/-- The spaces of physical keys: a key is space × 2^64 + offset. Host bus 0, HBM 1 (PPN of R434 × 2 MiB), CXL 2
(PPN × 2 MiB), creels 3 (frame × 32 MiB), bobbins 4 (site × 16 MiB; 288 + n for a logical spindle n without a
site), ring windows 5 (function × 2 MiB), persistent bank 6, identity mirror 7, flash 8. -/
def keyOf (space off : Nat) : Nat := space * 2 ^ 64 + off % 2 ^ 64

/-- The space of a key. -/
def spaceOf (key : Nat) : Nat := key / 2 ^ 64

/-- The offset of a key in its space. -/
def offOf (key : Nat) : Nat := key % 2 ^ 64

namespace Mem

/-- What a key that is not listed reads as: the persistent bank and the identity mirror as shipped
(log entry 5), zero elsewhere
(log entry 4). -/
def rest (key : Nat) : Byte := if spaceOf key = 6 ∨ spaceOf key = 7 then bankRest (offOf key) else 0

/-- The byte at a key. -/
def get (m : List Host.Cell) (key : Nat) : Byte :=
  match m with
  | [] => rest key
  | c :: r => if c.1 = key then c.2 else if key < c.1 then rest key else get r key

/-- The memory with a key no longer listed. -/
def drop (m : List Host.Cell) (key : Nat) : List Host.Cell :=
  match m with
  | [] => []
  | c :: r => if c.1 = key then r else if key < c.1 then c :: r else c :: drop r key

/-- The memory with a key listed. -/
def put (m : List Host.Cell) (key : Nat) (b : Byte) : List Host.Cell :=
  match m with
  | [] => [(key, b)]
  | c :: r =>
    if c.1 = key then (key, b) :: r else if key < c.1 then (key, b) :: c :: r else c :: put r key b

/-- The memory after one byte is written, in canonical form. -/
def set (m : List Host.Cell) (key : Nat) (b : Byte) : List Host.Cell :=
  if b = rest key then drop m key else put m key b

/-- The memory after a list of byte writes, in order. -/
def setAll (m : List Host.Cell) (ws : List Host.Cell) : List Host.Cell :=
  ws.foldl (fun m w => set m w.1 w.2) m

/-- The bytes at consecutive keys. -/
def bytes (m : List Host.Cell) (key n : Nat) : List Byte := (List.range n).map fun i => get m (key + i)

/-- The little-endian number at consecutive keys (R10). -/
def nat (m : List Host.Cell) (key n : Nat) : Nat := leNat (bytes m key n)

/-- Writes bytes at consecutive keys. -/
def setBytes (m : List Host.Cell) (key : Nat) (bs : List Byte) : List Host.Cell :=
  setAll m (bs.zipIdx.map fun p => (key + p.2, p.1))

/-- Writes a little-endian number of `n` bytes (R10). -/
def setNat (m : List Host.Cell) (key n v : Nat) : List Host.Cell := setBytes m key (leBytes n v)

/-- The canonical form: keys strictly rising from `lo` on, no cell equal to its rest value. -/
def wfFrom (lo : Nat) (m : List Host.Cell) : Bool :=
  match m with
  | [] => true
  | c :: r => decide (lo ≤ c.1) && decide (c.2 ≠ rest c.1) && wfFrom (c.1 + 1) r

/-- The canonical form of a memory. -/
def wf (m : List Host.Cell) : Bool := wfFrom 0 m

end Mem

/-- The unit of poison that holds a key (R453): 8 bytes in SRAM, 32 in HBM, 64 in CXL. -/
def poisonUnit (key : Nat) : Nat × Nat :=
  let u := if spaceOf key = 1 then 32 else if spaceOf key = 2 then 64 else 8
  (key / u * u, u)

/-- The poison left after a list of writes: a unit written whole is clean (R453). -/
def State.healed (s : State) (ws : List Host.Cell) : List Nat :=
  s.poison.filter fun u => !((List.range (poisonUnit u).2).all fun i => ws.any fun w => w.1 = u + i)

/-- The poison left after `n` bytes at a key are written (R453). -/
def State.healedAt (s : State) (key n : Nat) : List Nat :=
  s.poison.filter fun u => !decide (key ≤ u ∧ u + (poisonUnit u).2 ≤ key + n)

/-- The poison after `n` bytes have been copied from one key to another: the units that hold a copied poisoned byte are poisoned too
(R453). -/
def State.poisonMoved (s : State) (old new n : Nat) : List Nat :=
  let us := s.poison.filter fun u => decide (old ≤ u ∧ u < old + n)
  (s.healedAt new n ++ us.flatMap fun u => (List.range (poisonUnit u).2).map fun i => (poisonUnit (u + i - old + new)).1).eraseDups

end Sys2Proof.Machine
end

