-- ==== Sys2Proof/Machine/Access.lean ====
section
/-! DEFINITION. Reaching the parts of the state: contexts, spindles, frames, jobs, the spindle map
(R104 to R111), and the translation of device addresses (R429 to R436). -/

namespace Sys2Proof

/-- The table with every listed value replaced, in canonical form for the rest value `d`. -/
def Table.mapVals {α : Type} [DecidableEq α] (t : Table α) (f : Nat → α → α) (d : α) : Table α :=
  t.filterMap fun p => if f p.1 p.2 = d then none else some (p.1, f p.1 p.2)

end Sys2Proof

namespace Sys2Proof.Machine

/-! ### Parts of the state -/

/-- The spindle of a logical index. -/
def State.spn (s : State) (l : Nat) : Spindle := s.spindles.get l {}

/-- The state with a spindle replaced. -/
def State.setSpn (s : State) (l : Nat) (x : Spindle) : State := { s with spindles := s.spindles.set l x {} }

/-- A job context by logical spindle and number. -/
def State.ctx (s : State) (l c : Nat) : Ctx := (s.spn l).ctxs.get c {}

/-- The state with a job context replaced. -/
def State.setCtx (s : State) (l c : Nat) (x : Ctx) : State :=
  s.setSpn l { s.spn l with ctxs := (s.spn l).ctxs.set c x {} }

/-- The context that a command names. -/
def State.who (s : State) (w : Who) : Ctx := s.ctx w.lspn.toNat w.ctx.toNat

/-- The state with the named context replaced. -/
def State.setWho (s : State) (w : Who) (x : Ctx) : State := s.setCtx w.lspn.toNat w.ctx.toNat x

/-- A frame by number. -/
def State.frame (s : State) (f : Nat) : Frame := s.frames.get f {}

/-- The state with a frame replaced. -/
def State.setFrame (s : State) (f : Nat) (x : Frame) : State := { s with frames := s.frames.set f x {} }

/-- A job by its number in the mill. -/
def State.job? (s : State) (j : Nat) : Option Job := s.mill.jobs.find? j

/-- The state with a job's record replaced. -/
def State.setJob (s : State) (j : Nat) (b : Job) : State :=
  { s with mill := { s.mill with jobs := s.mill.jobs.put j b } }

/-- The job's record changed by `f`, where it exists. -/
def State.modJob (s : State) (j : Nat) (f : Job → Job) : State :=
  match s.job? j with
  | some b => s.setJob j (f b)
  | none => s

/-- Appends something the module sends. -/
def State.emit (s : State) (o : Out) : State := { s with out := s.out ++ [o] }

/-- The time counter in nanoseconds (R570). -/
def State.ns (s : State) : Nat := s.time.now / 2 ^ 32 % 2 ^ 64

/-! ### The spindle map -/

/-- MILL_SPMAPn (R108). -/
def State.spmap (s : State) (n : Nat) : BitVec 32 := (s.mill.spmap.find? n).getD (shippedSpmap n)

/-- MILL_SITEp (R109). -/
def State.site (s : State) (p : Nat) : BitVec 32 := (s.mill.site.find? p).getD (shippedSite p)

/-- The state with MILL_SPMAPn replaced. -/
def State.setSpmap (s : State) (n : Nat) (v : BitVec 32) : State :=
  { s with mill := { s.mill with spmap := s.mill.spmap.set n v (shippedSpmap n) } }

/-- The state with MILL_SITEp replaced. -/
def State.setSite (s : State) (p : Nat) (v : BitVec 32) : State :=
  { s with mill := { s.mill with site := s.mill.site.set p v (shippedSite p) } }

/-- SEAT of a logical spindle (R108). -/
def State.seat (s : State) (n : Nat) : Nat := bitsOf (s.spmap n).toNat 26 2

/-- HFRAME of a logical spindle (R108). -/
def State.hframe (s : State) (n : Nat) : Nat := bitsOf (s.spmap n).toNat 21 5

/-- The site that hosts a logical spindle. DESIGN CHOICE (log entry 121): the bobbin bytes of an absent one (R112) lie in a place of their
own, 288 + n. -/
def State.psite (s : State) (n : Nat) : Nat :=
  if s.seat n = 2 then 288 + n else bitsOf (s.spmap n).toNat 12 9

/-- STATE of a site (R109). -/
def State.siteState (s : State) (p : Nat) : Nat := (s.site p).toNat % 8

/-- The key of a byte of a logical spindle's bobbin. -/
def State.bobbinKey (s : State) (l off : Nat) : Nat := keyOf 4 (s.psite l * 2 ^ 24 + off)

/-! ### Device addresses -/

/-- Where an address lies (R429, R434): its key, whether it may be written, whether it is marked TCH, and the
tier (creel 0, HBM 1, CXL 2, host 3, bobbin 4). -/
structure Loc where
  key  : Nat
  wr   : Bool
  ex   : Bool
  tch  : Bool
  tier : Nat
  deriving DecidableEq, Repr, Inhabited

/-- The place a page entry gives to an offset in its page; none where V = 0 or the page lies on a CXL port
that is lost or given up (R434, R436, R427). -/
def State.pageLoc (s : State) (ent : Word) (off : Nat) : Option Loc :=
  let e := ent.toNat
  let tier := bitsOf e 61 2
  let ppn := bitsOf e 0 43
  let port := s.ports.get (ppn / 2 ^ 21) {}
  if !e.testBit 63 then none
  else if tier = 2 ∧ (port.lost ∨ port.givenUp) then none
  else
    let base := if tier = 0 then keyOf 3 (ppn / 16 * 2 ^ 25 + ppn % 16 * 2 ^ 21)
                else if tier = 1 then keyOf 1 (ppn * 2 ^ 21)
                else if tier = 2 then keyOf 2 (ppn * 2 ^ 21) else keyOf 0 (ppn * 2 ^ 21)
    some { key := base + off, wr := e.testBit 58, ex := e.testBit 57, tch := e.testBit 56, tier := tier }

/-- The key of a paged device address of a job, as the mill uses it (R430). -/
def State.jobKey (s : State) (b : Job) (a : Nat) : Option Nat :=
  if a < 2 ^ 56 then (s.pageLoc (b.pages.get (a / 2 ^ 21) 0) (a % 2 ^ 21)).map (·.key) else none

/-- Which listed range of R429 an address lies in: 0 paged, 1 bobbin window, 2 creel window, 3 home creel. -/
def rangeOf (a : Nat) : Option Nat :=
  if a < 2 ^ 56 then some 0
  else
    let o := a - 2 ^ 56
    if o < 0xA00000 then some 1
    else if 0x10000000 ≤ o ∧ o < 0x12000000 then some 2
    else if 0x20000000 ≤ o ∧ o < 0x22000000 then some 3
    else none

/-- Whether a job may read the home creel of frame f: the frame's shuttle is the job's (R429, R298). -/
def State.ownsShuttle (s : State) (b : Job) (f : Nat) : Bool :=
  (s.frame f).shctl.toNat.testBit 31 && (match b.pair with
    | some p => p.smask.toNat.testBit f
    | none => false)

/-- The physical bobbin offset of a bobbin-window offset; none outside the partition and the context's own
descriptor file (R430). -/
def bobbinOff (x : Ctx) (c o : Nat) : Option Nat :=
  if o < x.bpSize.toNat * 65536 then some (x.bpBase.toNat * 65536 + o)
  else if 0x9F0000 + 0x4000 * c ≤ o ∧ o < 0x9F4000 + 0x4000 * c then some o
  else none

/-- Translates a device address of a context (R429 to R434); none is PAGE_FAULT (R436). -/
def State.locate (s : State) (l c : Nat) (a : Nat) : Option Loc :=
  let x := s.ctx l c
  match rangeOf a, s.job? x.job with
  | some 0, some b => s.pageLoc (b.pages.get (a / 2 ^ 21) 0) (a % 2 ^ 21)
  | some 1, _ =>
    match bobbinOff x c (a - 2 ^ 56) with
    | some o => some { key := s.bobbinKey l o, wr := true, ex := false, tch := false, tier := 4 }
    | none => none
  | some 2, some b =>
    let o := a - 2 ^ 56 - 0x10000000
    s.pageLoc (b.creelMap.get (s.hframe l * 16 + o / 2 ^ 21) 0) (o % 2 ^ 21)
  | some 3, some b =>
    let o := a - 2 ^ 56 - 0x20000000
    if 0x1E80000 ≤ o ∧ s.ownsShuttle b (s.hframe l) then
      some { key := keyOf 3 (s.hframe l * 2 ^ 25 + o), wr := false, ex := false, tch := false, tier := 0 }
    else none
  | _, _ => none

/-- The byte a context reads at a device address; 0 where nothing is mapped. -/
def State.devGet (s : State) (l c : Nat) (a : Nat) : Byte :=
  match s.locate l c a with
  | some p => Mem.get s.mem p.key
  | none => 0

/-- What an access wants. -/
inductive Want where
  | read | write | atomic
  deriving DecidableEq, Repr, Inhabited

/-- A piece of memory that an operation reaches: consecutive bytes from an address. -/
structure Seg where
  addr : Nat
  len  : Nat
  want : Want
  deriving DecidableEq, Repr, Inhabited

/-- The addresses at which the bytes of a segment enter another page (2 MiB in the page table and the creel
map, 64 KiB of a partition), its first byte and its last. -/
def Seg.points (g : Seg) : List Nat :=
  if g.len = 0 then []
  else
    let n := (g.addr % 65536 + g.len - 1) / 65536
    g.addr :: ((List.range n).map fun i => (g.addr / 65536 + i + 1) * 65536) ++ [g.addr + g.len - 1]

/-- The check of one access (R436): its fault code and the address, or none. -/
def State.checkAt (s : State) (l c : Nat) (want : Want) (a : Nat) : Option (Byte × Nat) :=
  match s.locate l c a with
  | none => some (0x56, a)
  | some p =>
    if want ≠ .read ∧ !p.wr then some (0x56, a)
    else if want ≠ .read ∧ p.tch ∧ (s.ctx l c).role = .teacher then some (0x1E, a)
    else if want = .atomic ∧ p.tier = 3 then some (0x56, a)
    else none

/-- Whether a read segment holds a poisoned unit (R453): the address of the first such byte. -/
def State.poisonIn (s : State) (l c : Nat) (g : Seg) : Option Nat :=
  if s.poison = [] ∨ g.want = .write then none
  else (List.range g.len).findSome? fun i =>
    match s.locate l c (g.addr + i) with
    | some p => if (poisonUnit p.key).1 ∈ s.poison then some (g.addr + i) else none
    | none => none

/-- The check of one segment's pages: translation and rights of every page (R436), one range only (R429). -/
def State.checkPages (s : State) (l c : Nat) (g : Seg) : Option (Byte × Nat) :=
  match g.points.findSome? (s.checkAt l c g.want) with
  | some f => some f
  | none => if g.len ≠ 0 ∧ rangeOf g.addr ≠ rangeOf (g.addr + g.len - 1) then some (0x56, g.addr) else none

/-- The first poisoned unit that segments read, as RESIDUE and its address (R453). -/
def State.checkReads (s : State) (l c : Nat) (gs : List Seg) : Option (Byte × Nat) :=
  (gs.findSome? (s.poisonIn l c)).map fun a => (0x40, a)

/-- The first failing segment, in order: every page is translated before a byte moves (R436), so a page that fails comes before
a poisoned unit that is read (R453, RESIDUE). -/
def State.checkSegs (s : State) (l c : Nat) (gs : List Seg) : Option (Byte × Nat) :=
  match gs.findSome? (s.checkPages l c) with
  | some f => some f
  | none => s.checkReads l c gs

/-- The checks of one segment that is reached on its own (R436, R453). -/
def State.checkSeg (s : State) (l c : Nat) (g : Seg) : Option (Byte × Nat) := s.checkSegs l c [g]

end Sys2Proof.Machine
end

