-- ==== Sys2Proof/Machine/Packets.lean ====
section
/-! DEFINITION. CRCs (R456, R483), packet headers (R468), routes (R463 to R467, R472) and sending: what the
module puts on its links. -/

namespace Sys2Proof.Machine

/-! ### CRCs -/

/-- One bit of a reflected CRC. -/
def crcBit (poly c : Nat) : Nat := if c % 2 = 1 then (c / 2) ^^^ poly else c / 2

/-- One byte of a reflected CRC. -/
def crcByte (poly c : Nat) (b : Byte) : Nat :=
  (List.range 8).foldl (fun c _ => crcBit poly c) (c ^^^ b.toNat)

/-- The CRC-32 of IEEE 802.3 (R456). -/
def crc32 (bs : List Byte) : Nat := (bs.foldl (crcByte 0xEDB88320) (2 ^ 32 - 1)) ^^^ (2 ^ 32 - 1)

/-- CRC-64/ECMA-182 (R483): not reflected, initial value and final XOR zero. -/
def crcEcma (bs : List Byte) : Nat :=
  bs.foldl (fun c b => (List.range 8).foldl (fun c _ =>
    if c.testBit 63 then ((c * 2) % 2 ^ 64) ^^^ 0x42F0E1EBA9EA3693 else c * 2) (c ^^^ (b.toNat * 2 ^ 56))) 0

/-- CRC-64/GO-ISO (R483): reflected, initial value and final XOR all ones. -/
def crcIso (bs : List Byte) : Nat := (bs.foldl (crcByte 0xD800000000000000) (2 ^ 64 - 1)) ^^^ (2 ^ 64 - 1)

/-- The contribution digest of R483: ECMA in the low half, GO-ISO in the high half. -/
def digest128 (bs : List Byte) : BitVec 128 := BitVec.ofNat 128 (crcEcma bs + crcIso bs * 2 ^ 64)

end Sys2Proof.Machine

namespace Sys2Proof

/-! ### Headers (R468) -/

/-- TC of a header. -/
def PHdr.tc (h : PHdr) : Nat := h.ctl.toNat % 8
/-- DL of a header. -/
def PHdr.dl (h : PHdr) : Bool := h.ctl.toNat.testBit 3
/-- TYPE of a header. -/
def PHdr.type (h : PHdr) : Nat := h.ctl.toNat / 16
/-- LAST of a header. -/
def PHdr.last (h : PHdr) : Bool := h.flags.toNat.testBit 0
/-- A field of TAG. -/
def PHdr.tagf (h : PHdr) (lo w : Nat) : Nat := bitsOf h.tag.toNat lo w

/-- The 24 bytes of a header. -/
def PHdr.bytes (h : PHdr) : List Byte :=
  leBytes 2 h.dst.toNat ++ leBytes 2 h.src.toNat ++ [h.ctl, h.flow] ++ leBytes 2 h.len.toNat
    ++ leBytes 2 h.fjob.toNat ++ [h.flags, h.xt] ++ leBytes 4 h.pseq.toNat ++ leBytes 8 h.tag.toNat

/-- The header that 24 bytes spell. -/
def PHdr.ofBytes (bs : List Byte) : PHdr :=
  let f (i n : Nat) : Nat := leNat ((bs.drop i).take n)
  { dst := BitVec.ofNat 16 (f 0 2), src := BitVec.ofNat 16 (f 2 2), ctl := BitVec.ofNat 8 (f 4 1)
    flow := BitVec.ofNat 8 (f 5 1), len := BitVec.ofNat 16 (f 6 2), fjob := BitVec.ofNat 16 (f 8 2)
    flags := BitVec.ofNat 8 (f 10 1), xt := BitVec.ofNat 8 (f 11 1), pseq := BitVec.ofNat 32 (f 12 4)
    tag := BitVec.ofNat 64 (f 16 8) }

/-- A packet's virtual channel on its link (R467). -/
def PHdr.vc (h : PHdr) : Nat := 2 * h.tc + if h.dl then 1 else 0

/-- The flow of a packet as bytes: DST, SRC, TC, FJOB, FLOW in that order (R466; log entry 16). -/
def PHdr.flowBytes (h : PHdr) : List Byte :=
  leBytes 2 h.dst.toNat ++ leBytes 2 h.src.toNat ++ leBytes 1 h.tc ++ leBytes 2 h.fjob.toNat ++ [h.flow]

/-- The flow of a packet as a number. -/
def PHdr.flowKey (h : PHdr) : Nat := leNat h.flowBytes

end Sys2Proof

namespace Sys2Proof.Machine

/-! ### Coordinates and routes -/

/-- The coordinate of this module in force (R464). -/
def State.coord (s : State) : Coord := BitVec.ofNat 14 s.fabric.cinuse.toNat

/-- The component of a coordinate in dimension d (x 0, y 1, z 2, w 3) (R464). -/
def coordIn (c : Nat) : Nat → Nat
  | 0 => bitsOf c 11 3
  | 1 => bitsOf c 8 3
  | 2 => bitsOf c 4 4
  | _ => bitsOf c 0 4

/-- The size of dimension d (R464). -/
def sizeIn (cinuse : Nat) : Nat → Nat
  | 0 => bitsOf cinuse 25 3 + 1
  | 1 => bitsOf cinuse 22 3 + 1
  | 2 => bitsOf cinuse 18 4 + 1
  | _ => bitsOf cinuse 14 4 + 1

/-- A coordinate with its component in dimension d replaced. -/
def coordSet (c d v : Nat) : Nat :=
  match d with
  | 0 => c - coordIn c 0 * 2 ^ 11 + v * 2 ^ 11
  | 1 => c - coordIn c 1 * 2 ^ 8 + v * 2 ^ 8
  | 2 => c - coordIn c 2 * 2 ^ 4 + v * 2 ^ 4
  | _ => c - coordIn c 3 + v

/-- Whether SKN_CINUSE holds an assigned coordinate below its sizes (R464). -/
def coordValid (cinuse : BitVec 32) : Bool :=
  cinuse.toNat.testBit 28 && (List.range 4).all fun d => coordIn cinuse.toNat d < sizeIn cinuse.toNat d

/-- A link by number. -/
def State.link (s : State) (n : Nat) : Link := s.fabric.links.get n {}

/-- The state with a link replaced. -/
def State.setLink (s : State) (n : Nat) (l : Link) : State :=
  { s with fabric := { s.fabric with links := s.fabric.links.set n l {} } }

/-- STATE of a link (R461). -/
def Link.state (l : Link) : Nat := bitsOf l.lstat.toNat 29 3

/-- A link that carries packets (R461). -/
def Link.up (l : Link) : Bool := l.state = 2 || l.state = 3

/-- The link with its STATE replaced. -/
def Link.setState (l : Link) (v : Nat) : Link :=
  { l with lstat := (l.lstat &&& 0x1FFFFFFF) ||| BitVec.ofNat 32 (v * 2 ^ 29) }

/-- SPARED of a link (R461). -/
def Link.setSpared (l : Link) (v : Nat) : Link :=
  { l with lstat := (l.lstat &&& 0xE1FFFFFF) ||| BitVec.ofNat 32 (v % 16 * 2 ^ 25) }

/-- The UP links of direction g in ascending number (R466). -/
def State.upLinks (s : State) (g : Nat) : List Nat :=
  ((List.range 6).map fun i => 6 * g + i).filter fun n => (s.link n).up

/-- The next hop toward a coordinate: the direction, and whether it crosses the wrap link (R466, R467, R472). A packet that
came in on direction `inG` goes on the way it travels round that ring (log entry 30). -/
def State.hop (s : State) (dst : Nat) (inG : Option Nat) : Option (Nat × Bool) :=
  let c := s.fabric.cinuse.toNat
  (List.range 4).findSome? fun d =>
    let a := coordIn c d
    let b := coordIn dst d
    let n := sizeIn c d
    if a = b then none
    else
      let plus := (b + n - a) % n ≤ (a + n - b) % n
      let g := match inG with
        | some i => if i / 2 = d then i ^^^ 1 else if plus then 2 * d else 2 * d + 1
        | none => if plus then 2 * d else 2 * d + 1
      let g := if s.fabric.lost.toNat.testBit g then g ^^^ 1 else g
      some (g, if g % 2 = 0 then a + 1 = n else a = 0)

/-- The link of a packet in direction g (R466); a flow stays on the link that it uses while that link is UP (R459). -/
def State.pickLink (s : State) (g : Nat) (h : PHdr) : Option Nat :=
  let ls := s.upLinks g
  let m := s.fabric.via.get h.flowKey 0
  if m ≠ 0 ∧ m - 1 ∈ ls then some (m - 1)
  else if ls = [] then none else ls[(crc32 h.flowBytes % 65536) % ls.length]?

/-- Bytes cut into the DATA of flits: 256 bytes each, the last filled with zeros. -/
def flitData : Nat → List Byte → List (List Byte)
  | 0, _ => []
  | n + 1, bs => if bs = [] then [] else (bs.take 256 ++ List.replicate (256 - bs.length) 0) :: flitData n (bs.drop 256)

/-- The bytes of a packet: its header and its data (R468). -/
def packetSize (data : List Byte) : Nat := 24 + data.length

/-- The 272 bytes of a flit of an FTYPE: 0 data, 2 link control (R456). -/
def flitBytes (ftype : Nat) (seq ack : BitVec 12) (data : List Byte) : List Byte :=
  let b := data ++ leBytes 2 (seq.toNat + ftype * 2 ^ 12) ++ leBytes 2 ack.toNat
  let c := b ++ leBytes 4 (crc32 b)
  c ++ leBytes 8 (Config.fecParity c).toNat

/-- A kept flit as it goes over the wire, with what has been received acknowledged (R456, R457). -/
def Link.wire (l : Link) (f : BitVec 12 × Bool × List Byte) : List Byte := flitBytes (if f.2.1 then 2 else 0) f.1 (l.nextSeq - 1) f.2.2

/-- The flit that still took bytes goes out (R456). -/
def State.flushLink (s : State) (n : Nat) : State :=
  let l := s.link n
  match l.open_, l.replay.getLast? with
  | true, some f => (s.setLink n { l with open_ := false }).emit (.linkFlit n (l.wire f))
  | _, _ => s

/-- Sends a link-control flit: it is numbered and kept for a replay as data flits are (R457; log entry 112). `o` says what it tells the
neighbour, `kind` and `args` name its DATA. -/
def State.control (s : State) (n kind : Nat) (args : List Nat) (o : Out) : State :=
  if !(s.link n).up then s
  else
    let s := s.flushLink n
    let l := s.link n
    let f := (l.txSeq, true, (List.range 256).map (Config.controlByte kind args))
    let l := { l with txSeq := l.txSeq + 1, replay := (l.replay ++ [f]).drop (l.replay.length + 1 - 2048) }
    ((s.setLink n l).emit o).emit (.linkFlit n (l.wire f))

/-- Returns the room that a packet has taken in a buffer of this end as credits (R467). -/
def State.credit (s : State) (n vc bytes : Nat) : State := s.control n 0 [vc, bytes] (.linkCredit n vc bytes)

/-- A link with a packet's bytes put into its flits (R456, R457): back to back behind what is sent at the same time `now`, in the last
flit where it has room, and the rest in flits after it (log entry 16). The flits are kept for a link replay, the packet until its last
flit is acknowledged. -/
def Link.load (l : Link) (now : Nat) (h : PHdr) (data : List Byte) : Link :=
  let bs := h.bytes ++ data
  let last := l.replay.getLast?
  let used := if l.open_ && l.filled.1 = now && decide (l.filled.2 < 256) then l.filled.2 else 256
  let head := match last with
    | some f => if used < 256 then [(f.1, false, f.2.2.take used ++ bs.take (256 - used) ++ List.replicate (256 - used - bs.length) 0)] else []
    | none => []
  let fs := flitData 17 (bs.drop (256 - used))
  let seqs := (List.range fs.length).map fun i => l.txSeq + BitVec.ofNat 12 i
  let replay := l.replay.take (l.replay.length - head.length) ++ head ++ seqs.zip (fs.map fun d => (false, d))
  let seq := l.txSeq + BitVec.ofNat 12 fs.length
  let n := if fs = [] then used + bs.length else (bs.length - (256 - used) + 255) % 256 + 1
  { l with
    txSeq := seq
    filled := (now, n), open_ := decide (n < 256)
    replay := replay.drop (replay.length - 2048)
    unacked := l.unacked ++ [(seq - 1, h, data)] }

/-- The kept flits from a number on. -/
def Link.since (l : Link) (seq : BitVec 12) : List (BitVec 12 × Bool × List Byte) := l.replay.dropWhile fun f => f.1 ≠ seq

/-- A packet leaves on a link, in flits that go out as they are full (R456): it takes the room of its virtual channel at the neighbour,
and frees that of the buffer it came from (R467). -/
def State.launch (s : State) (n : Nat) (h : PHdr) (data : List Byte) (held : Option (Nat × Nat)) : State :=
  let s := if (s.link n).filled.1 = s.ns then s else s.flushLink n
  let old := s.link n
  let l := old.load s.ns h data
  let l := { l with spent := l.spent.set h.vc (l.spent.get h.vc 0 + packetSize data) 0 }
  let fs := l.since (if old.open_ then old.txSeq - 1 else old.txSeq)
  let full := if l.open_ then fs.dropLast else fs
  let s := full.foldl (fun s f => s.emit (.linkFlit n (l.wire f))) ((s.setLink n l).emit (.packet n h.dl h data))
  match held with
  | some b => s.credit b.1 b.2 (packetSize data)
  | none => s

/-- Whether a packet must wait on a link: for one before it in its virtual channel, or for credits of the neighbour's 64 KiB (R467). -/
def Link.blocked (l : Link) (h : PHdr) (data : List Byte) : Bool :=
  (l.waiting.any fun w => w.1.vc = h.vc) || decide (65536 < l.spent.get h.vc 0 + packetSize data)

/-- Puts a packet on a link, or lets it wait there for credits (R467); its flow stays on the link (R459, R466). `held` is the buffer of
this module that it takes until it leaves. -/
def State.transmit (s : State) (n : Nat) (h : PHdr) (data : List Byte) (held : Option (Nat × Nat)) : State :=
  let s := { s with fabric := { s.fabric with via := s.fabric.via.set h.flowKey (n + 1) 0 } }
  let l := s.link n
  if l.blocked h data then s.setLink n { l with waiting := l.waiting ++ [(h, data, held)] } else s.launch n h data held

/-- The packets that waited on a link leave as far as the credits now reach, in order (R467). -/
def State.drain (s : State) (n : Nat) : State :=
  let ws := (s.link n).waiting
  ws.foldl (fun s w => s.transmit n w.1 w.2.1 w.2.2) (s.setLink n { s.link n with waiting := [] })

/-- Sends or forwards a packet from this module (R466, R467); `link` is the link it came in on, in whose dimension its DL
holds, and whose buffer it takes until it leaves. Where its direction has no link it waits for one, or for its reroute (R472); one for
this module comes back to it (log entry 22). -/
def State.routeOut (s : State) (h : PHdr) (data : List Byte) (link : Option Nat) : State :=
  let inG := link.map (· / 6)
  let held := link.map fun n => (n, h.vc)
  match s.hop h.dst.toNat inG with
  | none => s.emit (.own h data)
  | some (g, wrap) =>
    let dl := wrap || (decide (inG.map (· / 2) = some (g / 2)) && h.dl)
    let h := { h with ctl := BitVec.ofNat 8 (h.tc + (if dl then 8 else 0) + 16 * h.type) }
    match s.pickLink g h with
    | none => { s with fabric := { s.fabric with stranded := s.fabric.stranded ++ [(h, data, link)] } }
    | some n => s.transmit n h data held

/-- The packets that found no link take their routes anew, in order (R472). -/
def State.release (s : State) : State :=
  s.fabric.stranded.foldl (fun s p => s.routeOut p.1 p.2.1 p.2.2) { s with fabric := { s.fabric with stranded := [] } }

/-- A new packet's header, with the next PSEQ of its flow (R468). -/
def State.header (s : State) (x : Send) : PHdr × State :=
  let h : PHdr :=
    { dst := BitVec.ofNat 16 x.dst.toNat, src := BitVec.ofNat 16 s.coord.toNat
      ctl := BitVec.ofNat 8 (x.tc + 16 * x.type), flow := BitVec.ofNat 8 x.flow
      len := BitVec.ofNat 16 x.data.length, fjob := BitVec.ofNat 16 x.fjob
      flags := BitVec.ofNat 8 x.flags, xt := BitVec.ofNat 8 x.xt, pseq := 0, tag := BitVec.ofNat 64 x.tag }
  let n := s.fabric.sent.get h.flowKey 0
  ({ h with pseq := n }, { s with fabric := { s.fabric with sent := s.fabric.sent.set h.flowKey (n + 1) 0 } })

/-- Sends a new packet (R468). -/
def State.send (s : State) (x : Send) : State :=
  let o := s.header x
  o.2.routeOut o.1 x.data none

/-- Sends a new packet to the neighbour on a link. -/
def State.sendOn (s : State) (n : Nat) (x : Send) : State :=
  let o := s.header x
  let g := n / 6
  let a := coordIn s.fabric.cinuse.toNat (g / 2)
  let wrap := if g % 2 = 0 then a + 1 = sizeIn s.fabric.cinuse.toNat (g / 2) else a = 0
  o.2.transmit n { o.1 with ctl := BitVec.ofNat 8 (o.1.tc + (if wrap then 8 else 0) + 16 * o.1.type) } x.data none

/-- Sends several packets in order. -/
def State.sendAll (s : State) (xs : List Send) : State := xs.foldl State.send s

/-- Cuts data into pieces of at most 4,096 bytes, each with its offset (R468). -/
def pieces : Nat → Nat → List Byte → List (Nat × List Byte)
  | 0, _, _ => []
  | n + 1, o, bs => if bs = [] then [] else (o, bs.take 4096) :: pieces n (o + 1) (bs.drop 4096)

end Sys2Proof.Machine
end

