-- ==== Sys2Proof/Machine/ColPlan.lean ====
section
/-! DEFINITION. The plan of a collective entry: its group, its phases, and which elements each contribution carries (R473,
R477, R478, R481, R483). -/

namespace Sys2Proof.Machine

/-- Bytes of one element of a collective (R473). -/
def ColEnt.size (c : ColEnt) : Nat :=
  match c.op with
  | 3 => 8 * c.k
  | 2 => 1
  | _ => if c.efmt = 0x13 then 8 else 4

/-- The dimensions of an entry in stage order, without those of size 1 (R473, R478). -/
def State.colDims (s : State) (c : ColEnt) : List Nat :=
  let n := ((List.range 4).filter c.dims.testBit).length
  (c.dord.take n).filter fun d => sizeIn s.fabric.cinuse.toNat d ≠ 1

/-- The modules of an entry's group (R473). -/
def State.colGroup (s : State) (c : ColEnt) : Nat :=
  ((s.colDims c).map (sizeIn s.fabric.cinuse.toNat)).foldl (· * ·) 1

/-- Bytes of SRC and of DST of an entry. -/
def State.colBytes (s : State) (c : ColEnt) : Nat × Nat :=
  let n := c.nelem * c.size
  (n, if c.op = 2 then n * s.colGroup c else n)


/-- One stage of an entry as a module sees it: its number in DORD, its dimension, the size and the module's own
coordinate. -/
structure ColStage where
  num  : Nat
  dim  : Nat
  size : Nat
  me   : Nat
  deriving DecidableEq, Repr, Inhabited

/-- The stages of an entry, without those of size 1 (R478). -/
def State.colStages (s : State) (c : ColEnt) : List ColStage :=
  let u := s.fabric.cinuse.toNat
  let n := ((List.range 4).filter c.dims.testBit).length
  ((c.dord.take n).zipIdx.map fun d => (⟨d.2, d.1, sizeIn u d.1, coordIn u d.1⟩ : ColStage)).filter fun g => g.size ≠ 1

/-- What a phase of an entry does with what it receives: fold it, take it, or merge it. -/
inductive ColDo where
  | fold | gather | merge
  deriving DecidableEq, Repr, Inhabited

/-- The phases of an entry in order, each with the place of its stage (R477, R478, R481). -/
def colPhases (op n : Nat) : List (ColDo × Nat) :=
  let folds := (List.range n).map fun i => (ColDo.fold, i)
  let gathers := (List.range n).reverse.map fun i => (ColDo.gather, i)
  match op with
  | 0 => folds ++ gathers
  | 1 => folds
  | 3 => (List.range n).map fun i => (ColDo.merge, i)
  | _ => gathers

/-- A half of a range: H+ (false) has the first ceil(L / 2) elements, H− (true) the rest (R477). -/
def colHalf (l : List Nat) (minus : Bool) : List Nat :=
  if minus then l.drop ((l.length + 1) / 2) else l.take ((l.length + 1) / 2)

/-- Chunk c of a half in a dimension of size n (R477). -/
def colChunk (l : List Nat) (c n : Nat) : List Nat :=
  (l.drop (c * l.length / n)).take ((c + 1) * l.length / n - c * l.length / n)

/-- The range that the stages before leave to this module (R478). -/
def colRange (l : List Nat) : List ColStage → List Nat
  | [] => l
  | g :: r => colRange (colChunk (colHalf l false) g.me g.size ++ colChunk (colHalf l true) g.me g.size) r

/-- The ranks of the group whose contribution the module at coordinate v of stage p holds when that stage of a gather runs:
the stages before p at this module's coordinates, those behind it done (R473, R481). -/
def colRanks (gs : List ColStage) (p v : Nat) : List Nat :=
  let total := (gs.map (·.size)).foldl (· * ·) 1
  let strides := gs.zipIdx.map fun g => (g.1, g.2, ((gs.take g.2).map (·.size)).foldl (· * ·) 1)
  (List.range total).filter fun q => strides.all fun g =>
    let x := q / g.2.2 % g.1.size
    if g.2.1 < p then x = g.1.me else if g.2.1 = p then x = v else true

/-- The rank of this module in the group (R473). -/
def colRank (gs : List ColStage) : Nat := gs.reverse.foldl (fun r g => r * g.size + g.me) 0

/-- The 64-byte units of a scatter-add that a rank owns in a half: a chunk over the flat rank (R481; log entry 33). -/
def scatterUnits (c : ColEnt) (group rank : Nat) (minus : Bool) : List Nat :=
  colChunk (colHalf (List.range ((c.nelem + 15) / 16)) minus) rank group

/-- The elements of a unit of a scatter-add. -/
def unitElems (c : ColEnt) (u : Nat) : List Nat := ((List.range 16).map (16 * u + ·)).filter (· < c.nelem)

/-- The elements of the buffer that the contribution of a half in stage p carries for coordinate v: a chunk of the range of
a reduction (R477, R478), or what the ranks at v brought to a gather (R481). Those of a merge are rows. -/
def colElems (c : ColEnt) (gs : List ColStage) (p : Nat) (minus : Bool) (v : Nat) : List Nat :=
  let g := gs.getD p default
  match c.op with
  | 2 => (colRanks gs p v).flatMap fun q => (colHalf (List.range c.nelem) minus).map (q * c.nelem + ·)
  | 3 => (colHalf (List.range c.nelem) minus).flatMap fun r => (List.range c.k).map (r * c.k + ·)
  | 4 =>
    let n := (gs.map (·.size)).foldl (· * ·) 1
    (colRanks gs p v).flatMap fun q => (scatterUnits c n q minus).flatMap (unitElems c)
  | _ => colChunk (colHalf (colRange (List.range c.nelem) (gs.take p)) minus) v g.size

/-- The coordinate whose chunk a module sends in ring step r of a phase, and the one it receives (R477). -/
def colMoves (d : ColDo) (g : ColStage) (minus : Bool) (r : Nat) : Nat × Nat :=
  let at_ (k : Nat) : Nat := (g.me + 2 * g.size - k) % g.size
  match d, minus with
  | .fold, false => (at_ (1 + r), at_ (2 + r))
  | .fold, true => ((g.me + 1 + r) % g.size, (g.me + 2 + r) % g.size)
  | _, false => (at_ r, at_ (1 + r))
  | _, true => ((g.me + r) % g.size, (g.me + 1 + r) % g.size)

/-- The ring step that a contribution's name gives (R469): the distribution of an all-reduce goes on counting behind the
fold. -/
def colRing (op : Nat) (d : ColDo) (g : ColStage) (r : Nat) : Nat :=
  if op = 0 ∧ d = .gather then g.size - 1 + r else r

/-- The name of a contribution, as the TAG of its packets without the offset (R469). -/
def conTag (step entry stage : Nat) (minus : Bool) (ring : Nat) : Nat :=
  step % 2 ^ 32 + entry % 64 * 2 ^ 32 + stage % 4 * 2 ^ 38 + (if minus then 2 ^ 40 else 0) + ring % 32 * 2 ^ 41

/-- The contribution digest (R483): the TAG with offset zero, SRC and six zero bytes, then the data. -/
def conDigest (tag src : Nat) (data : List Byte) : BitVec 128 :=
  digest128 (leBytes 8 tag ++ leBytes 2 src ++ List.replicate 6 0 ++ data)

/-- The packets of a contribution: data over FLOW 0 to 5 in turn, then the digest (R483). -/
def conPackets (peer : Coord) (fjob src tag : Nat) (data : List Byte) : List Send :=
  let ps := pieces data.length 0 data
  let one (p : (Nat × List Byte) × Nat) : Send :=
    { dst := peer, tc := 4, type := 0, flow := p.2 % 6, fjob := fjob, tag := tag + p.1.1 * 2 ^ 46, data := p.1.2 }
  (ps.zipIdx.map one) ++
    [{ dst := peer, tc := 4, type := 1, flow := ps.length % 6, fjob := fjob, flags := 1, tag := tag
       data := leBytes 16 (conDigest tag src data).toNat }]

/-- The TAG of an acknowledgement or a RESEND for a contribution (R469; log entry 32). -/
def ackTag (fjob tag : Nat) : Nat := tag % 2 ^ 46 * 256 + fjob % 2 ^ 10 * 2 ^ 54

/-- Sends a packet in a direction of its own, as a half of the collective engine does (R477); a lost direction is gone round
(R472). -/
def State.sendDir (s : State) (g : Nat) (x : Send) : State :=
  let o := s.header x
  let u := s.fabric.cinuse.toNat
  let a := coordIn u (g / 2)
  let wrap := if g % 2 = 0 then a + 1 = sizeIn u (g / 2) else a = 0
  let h := { o.1 with ctl := BitVec.ofNat 8 (o.1.tc + (if wrap then 8 else 0) + 16 * o.1.type) }
  match o.2.pickLink g h with
  | some n => o.2.transmit n h x.data none
  | none => o.2.routeOut o.1 x.data none

end Sys2Proof.Machine
end

