-- ==== Sys2Proof/Machine/LogSum.lean ====
section
/-! DEFINITION. Log-sum addition and its trees (R91 to R96, R272), the exponential unit (R98 to R100),
logarithms of results (R268, R273) and the sigmoid and GELU of R218. -/

namespace Sys2Proof.Machine

/-- What runs along a log-sum: the additions into the running value and those within trees so far, and the flags. -/
structure SumSt where
  adds  : Nat
  trees : Nat
  flags : Flags
  deriving DecidableEq, Repr, Inhabited

/-- The log of the sum of two numbers of one sign, 23 fraction bits, rounded with the draw `d` (R91 to R93). -/
def logAddNum (a b : Int) (d : Unit → Nat) : Int :=
  let hi := max a b
  let gap := (hi - min a b).toNat
  if 24 * 2 ^ 23 ≤ gap then hi
  else
    let z := hi * 65536 + phi gap
    roundLog z 39 23 (.sr (d ()))

/-- The draw of an addition: whether it is one within a tree, and how many additions of both kinds precede it. -/
abbrev Draws : Type := Bool → Nat → Nat → Nat

/-- The draws where every addition is numbered in order (R267). -/
def inOrder (d : Nat → Nat) : Draws := fun _ n t => d (n + t)

/-- The counts after one addition. -/
def SumSt.counted (st : SumSt) (tree : Bool) : SumSt :=
  if tree then { st with trees := st.trees + 1 } else { st with adds := st.adds + 1 }

/-- One log-sum addition (R91), `tree` where it is within a tree. Every addition takes its number, also one that leaves an
operand as it is (R207, R267). -/
def logAdd (dr : Draws) (tree : Bool) (st : SumSt) (a b : Lg) : Lg × SumSt :=
  match a, b with
  | .nan, _ => (.nan, st.counted tree)
  | _, .nan => (.nan, st.counted tree)
  | .zero, v => (v, st.counted tree)
  | v, .zero => (v, st.counted tree)
  | .num n x, .num k y =>
    if n = k then (.num n (logAddNum x y fun _ => dr tree st.adds st.trees), st.counted tree)
    else (.nan, { st.counted tree with flags := st.flags.or .invalid })

/-- One level of the balanced tree: neighbours combine, the lower pair first; a missing leaf (none) lets its partner pass
upward with no addition and no number (R96, R267). -/
def treeLevel (dr : Draws) : List (Option Lg) → SumSt → List (Option Lg) × SumSt
  | some a :: some b :: r, st =>
    let x := logAdd dr true st a b
    let y := treeLevel dr r x.2
    (some x.1 :: y.1, y.2)
  | none :: b :: r, st =>
    let y := treeLevel dr r st
    (b :: y.1, y.2)
  | some a :: none :: r, st =>
    let y := treeLevel dr r st
    (some a :: y.1, y.2)
  | l, st => (l, st)

/-- A group of at most 16 leaves through the tree (R96); none where every leaf is missing. -/
def treeSum (dr : Draws) (xs : List (Option Lg)) (st : SumSt) : Option Lg × SumSt :=
  let l1 := treeLevel dr (xs ++ List.replicate (16 - xs.length) none) st
  let l2 := treeLevel dr l1.1 l1.2
  let l3 := treeLevel dr l2.1 l2.2
  let l4 := treeLevel dr l3.1 l3.2
  (l4.1.headD none, l4.2)

/-- Groups of 16 into a running value, in ascending order (R96, R272); `n` bounds the groups. A group without a leaf has no
result to add. `skip` leaves a group whose sum is zero out, as R208 leaves out a contribution with no non-zero product: it is
not added and takes no number. -/
def logSumGroups (dr : Draws) (skip : Bool) : Nat → List (Option Lg) → Lg → SumSt → Lg × SumSt
  | 0, _, run, st => (run, st)
  | n + 1, xs, run, st =>
    let t := treeSum dr (xs.take 16) st
    let r := match t.1 with
      | none => (run, t.2)
      | some v => if skip = true ∧ v = Lg.zero then (run, t.2) else logAdd dr false t.2 run v
    logSumGroups dr skip n (xs.drop 16) r.1 r.2

/-- A log-sum of a whole vector (R272), none at a position that counts as a missing leaf; the first addition has ordinal 1
(R267). -/
def logSum (dr : Nat → Nat) (xs : List (Option Lg)) : Lg × SumSt :=
  logSumGroups (inOrder dr) false ((xs.length + 15) / 16) xs .zero ⟨1, 0, .no⟩

/-! ### The exponential unit -/

/-- y = (z / T) × log2 e as an exact value (R98, R100): λ of z has 16 fraction bits, `t` is log2 T with 16.
NaN gives NaN. -/
def expUnit (z : Val) (t : Int) : Lin :=
  match z.toLog with
  | .zero => .zero
  | .nan => .nan
  | .num n l =>
    let lam := nearestEven l 23 16 + expC - t
    if 9 * 65536 ≤ lam then .fin n (512 * 65536 - 1) (-16)
    else match pow2R77 lam with
      | .fin _ m e => .fin n m e
      | v => v

/-- A signed exact value as an integer count of 2^-nb, rounded as the bits of a log are (R58). -/
def linToLog (x : Lin) (nb : Nat) (r : Rnd) : Int :=
  if 0 ≤ x.expo + nb then x.sint * 2 ^ (x.expo + nb).toNat
  else roundLog x.sint (-(x.expo)).toNat nb r

/-- The log2 of e^(z/T) kept with `nb` fraction bits, nearest even (R98 step 4); none for NaN. -/
def expLog (z : Val) (t : Int) (nb : Nat) : Option Int :=
  match expUnit z t with
  | .nan => none
  | y => some (linToLog y nb .rne)

/-- The temperature of an LG16 code as log2 T with 16 fraction bits; none where T is not a positive number
(R98, R99). -/
def tempLog (code : Nat) : Option Int :=
  match (decodeElem .lg16 false code).1 with
  | .log (.num false l) => some (l / 128)
  | _ => none

/-- A log value times ln 2, as a log with 16 fraction bits (23 here): log2 of its magnitude through the
converter less C (R268 LN, R273). `x` has `nb` fraction bits. -/
def timesLn2 (x : Int) (nb : Nat) : Lg :=
  if x = 0 then .zero else .num (decide (x < 0)) ((conv x.natAbs (-(nb : Int)) - expC) * 128)

/-- A log value taken to a log (R268 LOG2). -/
def logOfLog (x : Int) (nb : Nat) : Lg :=
  if x = 0 then .zero else .num (decide (x < 0)) (conv x.natAbs (-(nb : Int)) * 128)

/-! ### Activations (R218) -/

/-- The sigmoid of a linear value (R218); y indexes φ with 23 fraction bits (log entry 14). -/
def sigmoidLin (x : Lin) : Lin :=
  match expUnit (.lin x.neg) 0 with
  | .nan => .nan
  | y =>
    let y23 := linToLog y 23 .rne
    let a := y23.natAbs
    let ph : Int := if 24 * 2 ^ 23 ≤ a then 0 else phi a
    let lg := -(max y23 0 * 65536 + ph)
    pow2R77 (nearestEven lg 39 16)

/-- The value of interval n of the Φ table of R218, 30 fraction bits: Φ at the interval's start, moved by what the fit moves it
(Config.geluValueFit; log entry 63). -/
def geluValue (n : Nat) : Int := phiNormal n + (Config.geluValueFit n).toInt

/-- The slope of interval n of the Φ table of R218, 30 fraction bits: the secant's, moved by what the fit moves it
(Config.geluSlopeFit; log entry 63). -/
def geluSlope (n : Nat) : Int := 64 * (phiNormal (n + 1) - phiNormal n) + (Config.geluSlopeFit n).toInt

/-- Φ(x) by the table of R218, for −8 ≤ x < 8. -/
def geluPhi (x : Lin) : Lin :=
  -- x + 8 in units of 2^-30, truncated: ten bits of index and 24 of offset
  let u : Nat := (linToLog (x.add (.fin false 8 0)) 30 .rtz).toNat
  let n : Nat := u / 2 ^ 24
  let off : Int := ((u % 2 ^ 24 : Nat) : Int)
  .ofInt (geluValue n * 2 ^ 30 + geluSlope n * off) (-60)

/-- GELU of a linear value before its rounding at 53 bits (R218). -/
def geluLin (x : Lin) : Lin :=
  if x.isNan then .nan
  else if x.lt (.fin true 8 0) then .zero
  else if x.lt (.fin false 8 0) then x.mul (geluPhi x)
  else x

end Sys2Proof.Machine
end

