-- ==== Sys2Proof/Machine/Operands.lean ====
section
/-! DEFINITION. Tensor descriptors (R440 to R443), the bytes and elements they name, hanks and their checks
(R231 to R238), and the writing of elements: what one engine operation reads and writes. -/

namespace Sys2Proof.Machine

/-- Bytes [hi:lo] of a descriptor as a number (R10, R11). -/
def lineBytes (d : Line) (hi lo : Nat) : Nat := bitsOf d.toNat (8 * lo) (8 * (hi - lo + 1))

/-- A tensor descriptor read out (R440). -/
structure Tensor where
  fmt     : Fmt
  layout  : Nat
  rowdims : Bool
  rank    : Nat
  d0      : Nat
  d1      : Nat
  d2      : Nat
  d3      : Nat
  base    : Nat
  s1      : Nat
  s2      : Nat
  s3      : Nat
  aux     : Nat
  koff    : Nat
  deriving DecidableEq, Repr, Inhabited

/-- The fields of a descriptor as a tensor, whatever its kind; a reserved FMT reads as raw bytes. -/
def tensorRaw (d : Line) : Tensor :=
  let rank := lineBytes d 3 3
  let dim (k n : Nat) : Nat := if k < rank then n else 1
  let str (k n : Nat) : Nat := if k < rank then n else 0
  { fmt := (Fmt.ofCode (lineBytes d 1 1)).getD .raw
    layout := lineBytes d 2 2 % 4
    rowdims := (lineBytes d 2 2).testBit 2
    rank := rank
    d0 := lineBytes d 7 4
    d1 := dim 1 (lineBytes d 19 16)
    d2 := dim 2 (lineBytes d 23 20)
    d3 := dim 3 (lineBytes d 27 24)
    base := lineBytes d 15 8 % 2 ^ 57
    s1 := str 1 (lineBytes d 35 28)
    s2 := str 2 (lineBytes d 43 36)
    s3 := str 3 (lineBytes d 51 44)
    aux := lineBytes d 59 52 % 2 ^ 57
    koff := lineBytes d 62 60 }

namespace Tensor

/-- The number of rows (R442). -/
def rows (t : Tensor) : Nat := if t.rowdims then t.d2 * t.d3 else t.d1 * t.d2 * t.d3

/-- The elements of a row (R442). -/
def rowLen (t : Tensor) : Nat := if t.rowdims then t.d0 * t.d1 else t.d0

/-- The elements of the whole tensor. -/
def count (t : Tensor) : Nat := t.rows * t.rowLen

/-- Whether the tensor is held in hanks or double hanks. -/
def hanked (t : Tensor) : Bool := t.layout = 1 || t.layout = 2

/-- The packed NG4 form (R28). -/
def packed (t : Tensor) : Bool := t.fmt = .ng4 && t.layout = 0

/-- Whether the tensor has a scale array (R443). -/
def hasScales (t : Tensor) : Bool := t.layout = 0 && (t.fmt.isMx || t.fmt = .b1 || t.fmt = .b2 || t.fmt = .ng4)

/-- Whether KOFF belongs to the tensor's layout and format (R440). -/
def hasKoff (t : Tensor) : Bool := t.hanked || t.hasScales

/-- Bytes of one hank of the tensor (R233, R234). -/
def hankSize (t : Tensor) : Nat := if t.layout = 2 then 256 else 128

/-- Whether a descriptor's hank kind and format go together: a double hank holds NG4 only (R232). -/
def kindOk (t : Tensor) : Bool := t.layout ≠ 2 || t.fmt = .ng4

/-- The length of a stored row (R442). -/
def stored (t : Tensor) : Nat := t.koff + t.rowLen

/-- Bytes of the scale array for one row (R443). -/
def scaleRow (t : Tensor) : Nat := (t.stored + 31) / 32

/-- The address at which row `r` begins, at step `i1` of dimension 1 where rows have two dimensions (R442). -/
def rowAddr (t : Tensor) (r i1 : Nat) : Nat :=
  if t.rowdims then t.base + i1 * t.s1 + r % t.d2 * t.s2 + r / t.d2 * t.s3
  else t.base + r % t.d1 * t.s1 + r / t.d1 % t.d2 * t.s2 + r / t.d1 / t.d2 * t.s3

/-- The address of the string of elements that holds element `c` of row `r`, and its index there (R442): element c is element
KOFF + c of the stored row, which with ROWDIMS = 1 goes on from one string of D0 elements to the next (log entry 76). -/
def pos (t : Tensor) (r c : Nat) : Nat × Nat :=
  if t.rowdims then (t.rowAddr r ((t.koff + c) / t.d0), (t.koff + c) % t.d0) else (t.rowAddr r 0, t.koff + c)

end Tensor

/-- Whether a descriptor is a tensor descriptor whose fields keep R440 and R443; else DESC_KIND. -/
def descOk (d : Line) : Bool :=
  let t := tensorRaw d
  let sz := t.fmt.bits / 8
  let known := (Fmt.ofCode (lineBytes d 1 1)).isSome
  lineBytes d 0 0 = 1 && t.layout ≠ 3
  && 1 ≤ t.rank && t.rank ≤ 4 && 1 ≤ t.d0 && t.d0 ≤ 2 ^ 24 && 1 ≤ t.d1 && 1 ≤ t.d2 && 1 ≤ t.d3
  && t.s1 < 2 ^ 56 && t.s2 < 2 ^ 56 && t.s3 < 2 ^ 56
  && (!known || t.fmt.bits < 8
      || (t.base % sz = 0 && t.s1 % sz = 0 && t.s2 % sz = 0 && t.s3 % sz = 0))
  && (!t.hanked || !known
      || (!t.rowdims && (t.fmt = .ng4 || t.fmt = .fp4 || t.fmt = .in4)
          && t.base % t.hankSize = 0 && t.s1 % t.hankSize = 0
          && (t.rank < 2 || t.hankSize * ((t.stored + 191) / 192) ≤ t.s1)))
  && (t.koff = 0 || !known || t.hasKoff)

/-- Whether a descriptor's FMT is one of R441. -/
def fmtOk (d : Line) : Bool := (Fmt.ofCode (lineBytes d 1 1)).isSome

/-! ### Reading elements -/

/-- A decoded element: its bare value and the log2 of its block scale (R66, R87). -/
structure El where
  v : Val
  e : Int
  deriving DecidableEq, Repr, Inhabited

/-- The element with its block scale applied. -/
def El.val (x : El) : Val :=
  match x.v with
  | .lin y => .lin (y.scale x.e)
  | .log (.num n l) => .log (.num n (l + x.e * 2 ^ 23))
  | .log g => .log g

/-- A NaN element. -/
def El.nan : El := ⟨.lin .nan, 0⟩

/-- A zero element. -/
def El.zero : El := ⟨.lin .zero, 0⟩

/-- What a read of elements gives: the elements, the flags of their decoding, the first hank fault, and the address of every hank
whose check failed (R239). -/
structure RowRead where
  els   : List El
  flags : Flags
  fault : Byte
  addr  : Nat
  chks  : List Nat
  deriving DecidableEq, Repr, Inhabited

/-- The code of one element (R38, R442). -/
def elemCode (rd : Nat → Byte) (f : Fmt) (a i : Nat) : Nat :=
  match f with
  | .b2 =>
    (if (rd (a + 2 * (i / 8))).toNat.testBit (i % 8) then 2 else 0)
      + (if (rd (a + 2 * (i / 8) + 1)).toNat.testBit (i % 8) then 1 else 0)
  | _ =>
    if f.bits = 1 then bitsOf (rd (a + i / 8)).toNat (i % 8) 1
    else if f.bits = 4 then bitsOf (rd (a + i / 2)).toNat (4 * (i % 2)) 4
    else leNat ((List.range (f.bits / 8)).map fun k => rd (a + i * (f.bits / 8) + k))

/-- The code of element `c` of row `r`. -/
def Tensor.code (t : Tensor) (rd : Nat → Byte) (r c : Nat) : Nat :=
  let p := t.pos r c
  elemCode rd t.fmt p.1 p.2

/-- The scale byte of element `c` of row `r` (R443). -/
def Tensor.scaleAddr (t : Tensor) (r c : Nat) : Nat := t.aux + r * t.scaleRow + (t.koff + c) / 32

/-- The meaning of a scale byte (R39, R40): none for a NaN block, some none for a zero block. -/
def scaleMean (e8m0 : Bool) (c : Nat) : Option (Option Int) :=
  if c = 255 then none
  else if e8m0 then some (some (c - 127))
  else if c = 0 then some none else some (some (c - 128))

/-! ### Hanks -/

/-- Byte `i` of a hank. -/
def hb (bs : List Byte) (i : Nat) : Nat := (bs.getD i 0).toNat

/-- The 16-bit word at byte `i` of a hank. -/
def hw (bs : List Byte) (i : Nat) : Nat := hb bs i + 256 * hb bs (i + 1)

/-- Code `i` of a hank (R233). -/
def hankCode (bs : List Byte) (i : Nat) : Nat := bitsOf (hb bs (i / 2)) (4 * (i % 2)) 4

/-- The HDR of a hank (R235). -/
def hankHdr (bs : List Byte) : Nat := hw bs 102

/-- The side-list capacity of a hank kind (R235). -/
def hankCap (dbl : Bool) : Nat := if dbl then 40 else 8

/-- The CHECK field that R236 gives for a hank's bytes. -/
def hankCheck (bs : List Byte) (dbl : Bool) : Nat :=
  let n := if dbl then 92 else 60
  let csum := ((List.range n).map fun i => hw bs (2 * i)).sum % 65536
  let hres := hankHdr bs % 7
  let sres := ((List.range (hankCap dbl)).map fun i => hw bs (104 + 2 * i)).sum % 7
  let res := ((List.range 6).map fun j =>
    ((hb bs (96 + j) + ((List.range 32).map fun i => hankCode bs (32 * j + i)).sum) % 7) * 2 ^ (3 * j)).sum
  csum * 2 ^ 32 + hres * 2 ^ 21 + sres * 2 ^ 18 + res

/-- The CHECK field a hank holds. -/
def hankHeld (bs : List Byte) (dbl : Bool) : Nat :=
  leNat ((List.range 8).map fun i => bs.getD ((if dbl then 248 else 120) + i) 0)

/-- The FMT code of a hank's header for a format (R235). -/
def hankFmt (f : Fmt) : Nat :=
  match f with
  | .fp4 => 1
  | .in4 => 2
  | _ => 0

/-- The test of a hank (R237): HANK_CHK where its residues or CSUM differ, else HANK_BAD where it is
malformed, else 0. -/
def hankTest (bs : List Byte) (f : Fmt) (dbl : Bool) : Byte :=
  let want := hankCheck bs dbl
  let held := hankHeld bs dbl
  let live (x : Nat) : Nat := bitsOf x 32 16 * 2 ^ 24 + bitsOf x 0 24
  let hdr := hankHdr bs
  let esc := hdr % 64
  let escs := ((List.range 192).filter fun i =>
    hankCode bs i = 8 && 1 ≤ hb bs (96 + i / 32) && hb bs (96 + i / 32) ≤ 254).length
  if live held ≠ live want then 0x41
  else if bitsOf hdr 8 2 ≠ hankFmt f ∨ bitsOf hdr 10 6 ≠ hankCap dbl ∨ hankCap dbl < esc
      ∨ (f = .ng4 ∧ esc ≠ escs) ∨ (f ≠ .ng4 ∧ esc ≠ 0) ∨ bitsOf hdr 6 2 ≠ 0
      ∨ bitsOf held 48 16 ≠ 0 ∨ bitsOf held 24 8 ≠ 0
      ∨ (dbl ∧ (List.range 64).any fun i => hb bs (184 + i) ≠ 0) then 0x50
  else 0

/-- The D-form of a side-list value in a block of scale `e` (R66). -/
def escapeEl (code : Nat) (e : Int) : El :=
  match (decodeElem .lg16 false code).1 with
  | .log (.num n l) => ⟨.log (.num n (l - e * 2 ^ 23)), e⟩
  | .log .zero => ⟨.log .zero, e⟩
  | _ => ⟨.log .nan, e⟩

/-- The elements of a valid hank from position `i` on, `slot` being the next slot (R26, R238, R250). -/
def hankEls (bs : List Byte) (f : Fmt) : Nat → Nat → Nat → List El
  | 0, _, _ => []
  | n + 1, i, slot =>
    let c := hankCode bs i
    match scaleMean false (hb bs (96 + i / 32)) with
    | none => .nan :: hankEls bs f n (i + 1) slot
    | some none => .zero :: hankEls bs f n (i + 1) slot
    | some (some e) =>
      if f = .ng4 ∧ c = 8 then escapeEl (hw bs (104 + 2 * slot)) e :: hankEls bs f n (i + 1) (slot + 1)
      else ⟨(decodeElem f false c).1, e⟩ :: hankEls bs f n (i + 1) slot

/-- Reads and checks one hank (R237, R238). -/
def readHank (bs : List Byte) (f : Fmt) (dbl : Bool) : List El × Byte :=
  match hankTest bs f dbl with
  | 0 => (hankEls bs f 192 0 0, 0)
  | k => (List.replicate 192 .nan, k)

/-- The bytes of hank `h` of row `r`. -/
def Tensor.hankBytes (t : Tensor) (rd : Nat → Byte) (r h : Nat) : List Byte :=
  (List.range t.hankSize).map fun i => rd (t.rowAddr r 0 + t.hankSize * h + i)

/-- The first `n` elements of row `r`, decoded under SUBN (R53, R66, R67, R238). -/
def Tensor.readRow (t : Tensor) (rd : Nat → Byte) (subn : Bool) (r n : Nat) : RowRead :=
  if n = 0 then ⟨[], .no, 0, 0, []⟩
  else if t.hanked then
    let h0 := t.koff / 192
    let h1 := (t.koff + n - 1) / 192
    let hs := (List.range (h1 + 1 - h0)).map fun i =>
      (readHank (t.hankBytes rd r (h0 + i)) t.fmt (t.layout = 2), t.rowAddr r 0 + t.hankSize * (h0 + i))
    let els := (hs.flatMap fun h => h.1.1).drop (t.koff % 192) |>.take n
    let chks := (hs.filter fun h => h.1.2 = 0x41).map (·.2)
    match hs.find? fun h => h.1.2 ≠ 0 with
    | some h => ⟨els, .no, h.1.2, h.2, chks⟩
    | none => ⟨els, .no, 0, 0, chks⟩
  else
    let one (c : Nat) : El × Flags :=
      let d := decodeElem t.fmt subn (t.code rd r c)
      if t.hasScales then
        match scaleMean t.fmt.isMx (rd (t.scaleAddr r c)).toNat with
        | none => (.nan, .no)
        | some none => (.zero, .no)
        | some (some e) =>
          (⟨d.1, e⟩, if t.packed && d.1.isNan then Flags.invalid else d.2)
      else (⟨d.1, 0⟩, d.2)
    let xs := (List.range n).map one
    ⟨xs.map (·.1), xs.foldl (fun f x => f.or x.2) .no, 0, 0, []⟩

/-- All elements of the tensor in flat order (R411). -/
def Tensor.readFlat (t : Tensor) (rd : Nat → Byte) (subn : Bool) (n : Nat) : RowRead :=
  let rs := (List.range ((n + t.rowLen - 1) / t.rowLen)).map fun r =>
    t.readRow rd subn r (min t.rowLen (n - r * t.rowLen))
  let chks := rs.flatMap (·.chks)
  match rs.find? fun x => x.fault ≠ 0 with
  | some x => ⟨rs.flatMap (·.els), rs.foldl (fun f y => f.or y.flags) .no, x.fault, x.addr, chks⟩
  | none => ⟨rs.flatMap (·.els), rs.foldl (fun f y => f.or y.flags) .no, 0, 0, chks⟩

/-! ### The bytes of a tensor, for the checks before an operation starts (R436) -/

/-- The bytes of `n` elements from stored index `i` of a string at `a` (R38). -/
def runSeg (f : Fmt) (a i n : Nat) (w : Want) : Seg :=
  let lo := if f = .b2 then 2 * (i / 8) else i * f.bits / 8
  let hi := if f = .b2 then 2 * ((i + n - 1) / 8) + 1 else ((i + n) * f.bits - 1) / 8
  ⟨a + lo, if n = 0 then 0 else hi + 1 - lo, w⟩

/-- The bytes of the first `n` elements of row `r`: the elements, then the scales. -/
def Tensor.rowSegs (t : Tensor) (r n : Nat) (w : Want) : List Seg :=
  if n = 0 then []
  else if t.hanked then
    let h0 := t.koff / 192
    [⟨t.rowAddr r 0 + t.hankSize * h0, t.hankSize * ((t.koff + n - 1) / 192 + 1 - h0), w⟩]
  else
    let body := if t.rowdims then
        (List.range ((t.koff + n + t.d0 - 1) / t.d0 - t.koff / t.d0)).map fun k =>
          let i := t.koff / t.d0 + k
          let lo := max t.koff (i * t.d0)
          runSeg t.fmt (t.rowAddr r i) (lo - i * t.d0) (min ((i + 1) * t.d0) (t.koff + n) - lo) w
      else [runSeg t.fmt (t.rowAddr r 0) t.koff n w]
    if t.hasScales then
      body ++ [⟨t.scaleAddr r 0, (t.koff + n - 1) / 32 + 1 - t.koff / 32, w⟩]
    else body

/-- The bytes of the first `n` elements of the first `m` rows. -/
def Tensor.segs (t : Tensor) (m n : Nat) (w : Want) : List Seg :=
  (List.range m).flatMap fun r => t.rowSegs r n w

/-- The bytes of the first `n` elements in flat order. -/
def Tensor.flatSegs (t : Tensor) (n : Nat) (w : Want) : List Seg :=
  (List.range ((n + t.rowLen - 1) / t.rowLen)).flatMap fun r => t.rowSegs r (min t.rowLen (n - r * t.rowLen)) w

/-! ### What an operation does -/

/-- The work of one engine operation as it goes: bytes by device address, atomic operations, staging adds,
flags, the first fault that lets it complete, bytes by physical key, packets, and the shuttle records that its
knot makes visible (frame and count, R300); `info` holds the two step numbers of a STEP_SKEW (R348), `chks` the address of every
corrupt hank or slot (R239, R391). -/
structure Run where
  w      : Table Byte := []
  atoms  : List Atom := []
  stages : List Stage := []
  flags  : Flags := {}
  code   : Byte := 0
  addr   : Nat := 0
  phys   : List Host.Cell := []
  sends  : List Send := []
  prod   : Option (Nat × Nat) := none
  info   : Option (Nat × Nat) := none
  chks   : List Nat := []
  deriving DecidableEq, Repr, Inhabited

namespace Run

/-- Adds flags. -/
def flag (x : Run) (f : Flags) : Run := { x with flags := x.flags.or f }

/-- Records a fault that lets the operation complete: the first one stands (R238), and every failed check counts for a repeat (R239,
R391). -/
def note (x : Run) (code : Byte) (addr : Nat) : Run :=
  let x := if code = 0x41 ∨ code = 0x42 then { x with chks := x.chks ++ [addr] } else x
  if x.code = 0 ∧ code ≠ 0 then { x with code := code, addr := addr } else x

/-- A Run with the flags that an operation's entry names, and no others (R424). -/
def only (x : Run) (f : Flags) : Run :=
  { x with flags := { arith := x.flags.arith &&& f.arith, qz := x.flags.qz &&& f.qz, upd := x.flags.upd &&& f.upd } }

/-- Takes the flags and the faults of a read. -/
def take (x : Run) (r : RowRead) : Run :=
  let y := (x.flag r.flags).note r.fault r.addr
  { y with chks := y.chks ++ r.chks }

/-- Writes one byte. -/
def put (x : Run) (a : Nat) (b : Byte) : Run := { x with w := x.w.put a b }

/-- Writes a little-endian number of `n` bytes. -/
def putNat (x : Run) (a n v : Nat) : Run :=
  (leBytes n v).zipIdx.foldl (fun y p => y.put (a + p.2) p.1) x

/-- Writes bytes. -/
def putBytes (x : Run) (a : Nat) (bs : List Byte) : Run := bs.zipIdx.foldl (fun y p => y.put (a + p.2) p.1) x

/-- A byte as the operation sees it: its own write, else what `rd` gives. -/
def see (x : Run) (rd : Nat → Byte) (a : Nat) : Byte := (x.w.find? a).getD (rd a)

/-- Writes bits [lo + n - 1 : lo] of a byte. -/
def putField (x : Run) (rd : Nat → Byte) (a lo n v : Nat) : Run :=
  let old := (x.see rd a).toNat
  x.put a (BitVec.ofNat 8 (old - bitsOf old lo n * 2 ^ lo + v % 2 ^ n * 2 ^ lo))

/-- Writes the code of one element (R38, R442). -/
def putCode (x : Run) (rd : Nat → Byte) (f : Fmt) (a i v : Nat) : Run :=
  match f with
  | .b2 => (x.putField rd (a + 2 * (i / 8)) (i % 8) 1 (v / 2)).putField rd (a + 2 * (i / 8) + 1) (i % 8) 1 v
  | _ =>
    if f.bits = 1 then x.putField rd (a + i / 8) (i % 8) 1 v
    else if f.bits = 4 then x.putField rd (a + i / 2) (4 * (i % 2)) 4 v
    else x.putNat (a + i * (f.bits / 8)) (f.bits / 8) v

/-- Writes the code of element `c` of row `r` of a tensor. -/
def putElem (x : Run) (rd : Nat → Byte) (t : Tensor) (r c v : Nat) : Run :=
  let p := t.pos r c
  x.putCode rd t.fmt p.1 p.2 v

/-- An operation that ends with a code and has written nothing. -/
def fail (code : Byte) (addr : Nat) : Run := { code := code, addr := addr }

end Run

/-- A fault code as an operation's whole outcome. -/
abbrev OpR := Except (Byte × Nat) Run

/-- The outcome as a Run. -/
def OpR.run (x : OpR) : Run :=
  match x with
  | .ok r => r
  | .error e => Run.fail e.1 e.2

/-- Continues unless the condition fails, which ends the operation with a code. -/
def need (ok : Bool) (code : Byte) : Except (Byte × Nat) Unit := if ok then .ok () else .error (code, 0)

/-- Continues unless a check found a fault. -/
def clear (f : Option (Byte × Nat)) : Except (Byte × Nat) Unit :=
  match f with
  | some e => .error e
  | none => .ok ()

end Sys2Proof.Machine
end

