-- ==== Sys2Proof/Machine/Quant.lean ====
section
/-! DEFINITION. The quantiser (R27, R42, R230 to R252): ceilings, blocks, hanks written whole or in parts,
MX blocks, B1 and B2, and the writing of a row of values to any output format. -/

namespace Sys2Proof.Machine

/-- What governs the writing of one operation's output: its modes, whether log values go to linear targets
through R76, the ceiling code with the flags that decoding the record's fields set (R36), the quantisation record if one is
updated, and the keys of purpose 0xE8. -/
structure OutCfg where
  md     : Modes
  narrow : Bool
  cref   : Nat
  rcd    : Option Nat
  seed   : Nat
  step   : Nat
  flags  : Flags := {}
  deriving DecidableEq, Repr, Inhabited

/-- FP32 of a magnitude rounded upward, as AMAX and OBS record it (R222, R223, R252). -/
def amaxCode (v : Val) : Nat :=
  let x := match v with
    | .lin y => y.abs
    | .log g => (logLin77 g).abs
  if x.isNan then 0 else (fpEncode ⟨8, 23, 127, .ieee, true⟩ ⟨.rne, false, false, .rne⟩ true x .up).1

/-- A value as a linear one for the quantiser and the reductions (R62, R219). -/
def Val.toLin (narrow : Bool) (v : Val) : Lin :=
  match v with
  | .lin x => x
  | .log g => if narrow then logLin76 g else logLin77 g

/-- Whether the magnitude of `a` exceeds that of `b`; both of one family, neither NaN. -/
def magLt (b a : Val) : Bool :=
  match b, a with
  | .lin x, .lin y => x.abs.lt y.abs
  | .log .zero, .log (.num _ _) => true
  | .log (.num _ x), .log (.num _ y) => decide (x < y)
  | _, _ => false

/-- The largest magnitude among the numbers of a list; none where there is no number that is not zero. -/
def maxMag (xs : List Val) : Option Val :=
  (xs.filter fun v => !v.isNan && !v.isZero).foldl
    (fun m v => match m with
      | none => some v
      | some b => if magLt b v then some v else m) none

/-- The grid limit G (R240) as an integer. -/
def gridLimit (f : Fmt) : Nat :=
  match f with
  | .fp4 => 6
  | .in4 => 7
  | _ => 1

/-- The smallest k with a ≤ G × 2^k (R240). -/
def blockExp (f : Fmt) (a : Val) : Int :=
  match a with
  | .lin (.fin _ m e) =>
    let o := leadOrder m e
    let g : Int → Lin := fun k => .fin false (gridLimit f) k
    ([o - 3, o - 2, o - 1, o, o + 1].find? fun k => !(g k).lt (.fin false m e)).getD (o + 1)
  | .log (.num _ l) =>
    let lg := conv (gridLimit f) 0 * 128
    0 - (lg - l) / 2 ^ 23
  | _ => 0

/-- The block code c_blk (R240). -/
def blockCode (f : Fmt) (xs : List Val) : Int :=
  match maxMag xs with
  | some a => 128 + blockExp f a
  | none => 128

/-- The scale code of a block (R240). -/
def scaleCode (f : Fmt) (xs : List Val) (cref : Nat) : Nat := (max 1 (min (min (blockCode f xs) cref) 254)).toNat

/-- The ceiling code c_ref of a record under a captured QZ_CTL (R242), with INVALID where one of the fields that it reads is an
infinity (R36); none where it makes QZ_CFG. DEDUCED (log entry 117): the record's FP32 fields decode exactly whatever SUBN holds. -/
def ceiling (qz : BitVec 32) (f : Fmt) (rec : Option (Nat → Byte)) : Option (Nat × Flags) :=
  match bitsOf qz.toNat 10 2, rec with
  | 1, _ => some (254, .no)
  | 0, some rd =>
    let fp (o : Nat) : Lin × Flags := fpDecode ⟨8, 23, 127, .ieee, true⟩ false
      (leNat ((List.range 4).map fun i => rd (o + i)))
    let head := (rd 64).toNat
    let n := min (rd 65).toNat (bitsOf qz.toNat 18 4 + 1)
    let big (m x : Lin × Flags) : Lin × Flags := (if m.1.lt x.1 then x.1 else m.1, m.2.or x.2)
    let hist := (List.range (min n 16)).foldl (fun m i => big m (fp (4 * ((head + 16 - i) % 16)))) (.zero, .no)
    let o := big hist (fp 72)
    match o.1 with
    | .fin _ m e =>
      let z := conv m e - conv (gridLimit f) 0 + (bitsOf qz.toNat 12 6 : Nat) * 8192
      some ((max 1 (min (128 - (-z) / 65536) 254)).toNat, o.2)
    | _ => some (254, o.2)
  | 2, some rd => if (rd 76).toNat = 0 ∨ (rd 76).toNat = 255 then none else some ((rd 76).toNat, .no)
  | _, _ => none

/-- One block as the encoder leaves it (R244). -/
structure Block where
  scale : Nat
  codes : List Nat
  slots : List Nat
  flags : Flags
  nsat  : Nat
  oov   : Bool
  deriving DecidableEq, Repr, Inhabited

/-- Divides a value by 2^e, exact. -/
def Val.unscale (v : Val) (e : Int) : Val :=
  match v with
  | .lin x => .lin (x.scale (-e))
  | .log (.num n l) => .log (.num n (l - e * 2 ^ 23))
  | .log g => .log g

/-- Whether a scaled value lies beyond the NG4 grid (R27). -/
def beyondGrid (v : Val) : Bool :=
  match v with
  | .lin x => (Lin.fin false 1 0).lt x.abs
  | .log (.num _ l) => decide (0 < l)
  | _ => false

/-- One element of a block under scale exponent `e` (R244): code, slot taken, flags, saturations, and
whether a NaN found no slot. `free` counts the slots left. -/
def encodeOne (f : Fmt) (c : OutCfg) (e : Int) (free : Nat) (v : Val) (r : Rnd) :
    Nat × Option Nat × Flags × Nat × Bool :=
  let u := v.unscale e
  if v.isZero then (0, none, .no, 0, false)
  else if v.isNan then
    if f ≠ .ng4 then (7, none, .invalid, 0, false)
    else if 0 < free then (8, some 0xC000, .invalid, 0, false)
    else (0, none, .no, 0, true)
  else if f = .ng4 then
    let s := if v.isNeg then 8 else 0
    if beyondGrid u then
      if 0 < free then
        let x := encodeElem .lg16 c.md c.narrow v r
        (8, some x.1, x.2, 0, false)
      else (s + 7, none, (Flags.satq.or .outlierOvf), 1, false)
    else
      let l := match u.toLog with
        | .num _ l => l
        | _ => 0
      let g := ng4Grid l (match u with
        | .lin x => .lin x.abs
        | w => w) r
      (if g = 0 then 0 else s + g, none, .no, 0, false)
  else
    let x := encodeElem f c.md c.narrow u r
    if x.2.arith &&& 2 ≠ 0 then (x.1, none, x.2.or .satq, 1, false)
    else (x.1, none, x.2, 0, false)

/-- Encodes the elements of a block in ascending position (R244). -/
def encodeEls (f : Fmt) (c : OutCfg) (e : Int) (rn : Nat → Rnd) : List (Option Val) → Nat → Nat → Block × Bool
  | [], _, _ => (⟨0, [], [], .no, 0, false⟩, false)
  | x :: xs, i, free =>
    match x with
    | none =>
      let y := encodeEls f c e rn xs (i + 1) free
      ({ y.1 with codes := 0 :: y.1.codes }, y.2)
    | some v =>
      let o := encodeOne f c e free v (rn i)
      let y := encodeEls f c e rn xs (i + 1) (if o.2.1.isSome then free - 1 else free)
      ({ y.1 with codes := o.1 :: y.1.codes
                  slots := (match o.2.1 with
                    | some sl => [sl]
                    | none => []) ++ y.1.slots
                  flags := y.1.flags.or o.2.2.1
                  nsat := y.1.nsat + o.2.2.2.1
                  oov := y.1.oov || (o.2.2.1.qz &&& 2 ≠ 0) }, y.2 || o.2.2.2.2)

/-- Encodes one block (R244, R245): `xs` holds 32 positions, none for those outside; `free` slots are left. -/
def encodeBlock (f : Fmt) (c : OutCfg) (free : Nat) (rn : Nat → Rnd) (xs : List (Option Val)) (keep : Option Nat) :
    Block :=
  let sc : Nat := match keep with
    | some k => k
    | none => scaleCode f (xs.filterMap id) c.cref
  let b := encodeEls f c ((sc : Int) - 128) rn xs 0 free
  if b.2 then
    { scale := 255, codes := List.replicate 32 0, slots := [], nsat := b.1.nsat, oov := true,
      flags := (b.1.flags.or .invalid).or .outlierOvf }
  else if b.1.codes.all (· = 0) then { b.1 with scale := 0, slots := [] }
  else { b.1 with scale := sc }

/-- The atomic updates of a quantisation record (R253). -/
def recordAtoms (rcd : Option Nat) (obs : Option Val) (nelem nsat nesc : Nat) (oov : Bool) : List Atom :=
  match rcd with
  | none => []
  | some a =>
    (match obs with
      | some v => [⟨.fmax, a + 68, amaxCode v⟩]
      | none => [])
    ++ [⟨.uadd, a + 80, nelem⟩]
    ++ (if nsat = 0 then [] else [⟨.uadd, a + 88, nsat⟩])
    ++ (if nesc = 0 then [] else [⟨.uadd, a + 96, nesc⟩])
    ++ (if oov then [⟨.bor, a + 66, 1⟩] else [])

/-! ### Hanks -/

/-- Replaces bytes of a buffer from a position on. -/
def setAt (bs : List Byte) (i : Nat) (vs : List Byte) : List Byte :=
  vs.zipIdx.foldl (fun l p => l.set (i + p.2) p.1) bs

/-- A started hank: HDR with ESC 0, every other byte zero (R247, R235). -/
def freshHank (f : Fmt) (dbl : Bool) : List Byte :=
  setAt (List.replicate (if dbl then 256 else 128) 0) 102 (leBytes 2 (hankCap dbl * 1024 + hankFmt f * 256))

/-- The hank with CHECK rewritten (R236). -/
def sealHank (bs : List Byte) (dbl : Bool) : List Byte :=
  setAt bs (if dbl then 248 else 120) (leBytes 8 (hankCheck bs dbl))

/-- The packed bytes of 4-bit codes (R38). -/
def packNibbles : List Nat → List Byte
  | a :: b :: r => BitVec.ofNat 8 (a + 16 * b) :: packNibbles r
  | [a] => [BitVec.ofNat 8 a]
  | [] => []

/-- Writes block `j` of a hank (R244): codes, scale, slots, ESC. -/
def putBlock (bs : List Byte) (j : Nat) (b : Block) : List Byte :=
  let hdr := hankHdr bs
  let esc := hdr % 64
  let bs := setAt bs (16 * j) (packNibbles b.codes)
  let bs := setAt bs (96 + j) [BitVec.ofNat 8 b.scale]
  let bs := setAt bs (104 + 2 * esc) (b.slots.flatMap (leBytes 2))
  setAt bs 102 (leBytes 2 (hdr - esc + (esc + b.slots.length)))

/-- Encodes blocks into a hank buffer, in ascending order; `rn j i` is the rounding of element i of block j,
`keep` a scale code to keep (R249). -/
def putBlocks (f : Fmt) (c : OutCfg) (dbl : Bool) (rn : Nat → Nat → Rnd) (keep : Nat → Option Nat) :
    List (Nat × List (Option Val)) → List Byte → Block → List Byte × Block
  | [], bs, acc => (bs, acc)
  | (j, xs) :: r, bs, acc =>
    let b := encodeBlock f c (hankCap dbl - hankHdr bs % 64) (rn j) xs (keep j)
    putBlocks f c dbl rn keep r (putBlock bs j b)
      { acc with flags := acc.flags.or b.flags, nsat := acc.nsat + b.nsat, oov := acc.oov || b.oov,
                 slots := acc.slots ++ b.slots }

/-- The rounding of the quantiser at a row and column of an output (R352 purpose 0xE8). -/
def qzRnd (c : OutCfg) (base row col : Nat) : Rnd := c.md.rm.at fun _ => draw16 c.seed 0xE8 c.step (elemQz base row col)

/-- The rounding of an MX element: ARITH_CTL.RND (R42); a drain puts its modifier there for the outputs that R219 rounds under it
(Machine/Drain.lean; log entry 74). -/
def mxRnd (c : OutCfg) (base row col : Nat) : Rnd :=
  c.md.dflt.at fun _ => draw16 c.seed 0xE8 c.step (elemQz base row col)

/-- Writes the values of one row into a hanked tensor, from its element 0 on (R231, R247). -/
def writeHankRow (x : Run) (rd : Nat → Byte) (t : Tensor) (c : OutCfg) (r : Nat) (vs : List Val) : Run :=
  let dbl := t.layout = 2
  let h0 := t.koff / 192
  let h1 := (t.koff + vs.length - 1) / 192
  let x := x.flag c.flags
  let x := (List.range (h1 + 1 - h0)).foldl (fun x k =>
    let h := h0 + k
    let a := t.rowAddr r 0 + t.hankSize * h
    let at? (p : Nat) : Option Val := if t.koff ≤ p then vs[p - t.koff]? else none
    let blocks := ((List.range 6).map fun j =>
      (j, (List.range 32).map fun i => at? (192 * h + 32 * j + i))).filter fun b => b.2.any Option.isSome
    let old := (List.range t.hankSize).map fun i => x.see rd (a + i)
    let starts := blocks.any fun b => b.1 = 0
    let bad := if starts then 0 else hankTest old t.fmt dbl
    let buf := if starts ∨ bad ≠ 0 then freshHank t.fmt dbl else old
    let o := putBlocks t.fmt c dbl (fun j i => qzRnd c t.base r (192 * h + 32 * j + i)) (fun _ => none)
      blocks buf ⟨0, [], [], .no, 0, false⟩
    let y := ((x.putBytes a (sealHank o.1 dbl)).flag o.2.flags).note bad a
    { y with atoms := y.atoms ++ recordAtoms c.rcd none 0 o.2.nsat o.2.slots.length o.2.oov }) x
  { x with atoms := x.atoms ++ recordAtoms c.rcd (maxMag vs) vs.length 0 0 false }

/-- Writes the values of one row into a packed NG4 tensor (R28). -/
def writePackedRow (x : Run) (rd : Nat → Byte) (t : Tensor) (c : OutCfg) (r : Nat) (vs : List Val) : Run :=
  let n := (vs.length + 31) / 32
  let x := x.flag c.flags
  let x := (List.range n).foldl (fun x k =>
    let xs := (vs.drop (32 * k)).take 32
    let b := encodeBlock .ng4 c 0 (fun i => qzRnd c t.base r (t.koff + 32 * k + i)) (xs.map some) none
    let x := (List.range xs.length).foldl (fun x i => x.putElem rd t r (32 * k + i) (b.codes.getD i 0)) x
    let x := (x.put (t.scaleAddr r (32 * k)) (BitVec.ofNat 8 b.scale)).flag b.flags
    { x with atoms := x.atoms ++ recordAtoms c.rcd none 0 b.nsat 0 b.oov }) x
  { x with atoms := x.atoms ++ recordAtoms c.rcd (maxMag vs) vs.length 0 0 false }

/-! ### MX blocks, B1 and B2 -/

/-- The exponent of an MX element format's largest binade (R42). -/
def mxEmax (f : Fmt) : Int :=
  match f with
  | .mxe4m3 => 8
  | .mxe5m2 => 15
  | .mxfp4 => 2
  | _ => 0

/-- The binary order of a magnitude: floor of its log2. -/
def valOrder (v : Val) : Int :=
  match v with
  | .lin (.fin _ m e) => leadOrder m e
  | .log (.num _ l) => l / 2 ^ 23
  | _ => 0

/-- Whether a scaled value exceeds the largest finite value of its sign that an MX element holds (R42, R60). -/
def mxBeyond (f : Fmt) (v : Lin) : Bool :=
  let top : Lin := match f, f.fp with
    | .mxint8, _ => if v.sint < 0 then .fin false 128 (-6) else .fin false 127 (-6)
    | _, some p => .fin false p.top.2 (p.top.1 - p.mb)
    | _, none => .zero
  top.lt v.abs

/-- Writes the values of one row into an MX tensor (R42). DEDUCED (log entry 100): R42 tests the scaled magnitude against the
largest element and R60 the rounded one; OVF is set where either exceeds the largest (E4M3 449, which rounds to 448, sets it).
DESIGN CHOICE (log entry 101): an MXFP8 element that SUBN = 1 flushes to code
zero sets neither UNF nor FROST (R56), although R53 governs E4M3 and E5M2. -/
def writeMxRow (x : Run) (rd : Nat → Byte) (t : Tensor) (c : OutCfg) (r : Nat) (vs : List Val) : Run :=
  (List.range ((vs.length + 31) / 32)).foldl (fun x k =>
    let xs := (vs.drop (32 * k)).take 32
    if xs.any Val.isNan then
      let x := (List.range xs.length).foldl (fun x i => x.putElem rd t r (32 * k + i) 0) x
      (x.put (t.scaleAddr r (32 * k)) 0xFF).flag .invalid
    else
      let e : Int := match maxMag xs with
        | some a => max (-127) (min 127 (valOrder a - mxEmax t.fmt))
        | none => -127
      let x := xs.zipIdx.foldl (fun x p =>
        let o := encodeElem t.fmt c.md c.narrow (p.1.unscale e) (mxRnd c t.base r (t.koff + 32 * k + p.2))
        ((x.putElem rd t r (32 * k + p.2) o.1).flag
          (if o.1 = 0 then { o.2 with arith := o.2.arith &&& 0x33 } else o.2)).flag
          (if mxBeyond t.fmt ((p.1.unscale e).toLin c.narrow) then .ovf else .no)) x
      x.put (t.scaleAddr r (32 * k)) (BitVec.ofNat 8 (e + 127).toNat)) x

/-- The code of a B2 element from its scaled value (R251). DESIGN CHOICE (log entry 122): a zero lies as near to +½ as to -½, and takes
+½ (code 0b01). -/
def b2Code (v : Lin) (r : Rnd) : Nat :=
  let a := v.abs
  let big := match r with
    | .rne | .up => !a.lt (.fin false 1 0)
    | .rtz => !a.lt (.fin false 3 (-1))
    | .sr d =>
      let p := ((a.sub (.fin false 1 (-1))).scale 16).roundGrid 0 .rtz
      (Lin.ofInt d 0).lt p
  let neg := (v.sint < 0 : Bool)
  if neg then (if big then 3 else 2) else (if big then 0 else 1)

/-- The division of a binary64 sum by a count, to nearest even (R251). -/
def divCount (x : Lin) (n : Nat) : Lin :=
  match x with
  | .fin s m e =>
    match divRat64 m n with
    | .fin _ q f => d64 (.fin s q (f + e))
    | v => v
  | v => v

/-- Writes the values of one row into a B1 or B2 tensor (R251). DEDUCED (log entry 97): a sum of magnitudes that overflows under
INF = 1 is an infinity, which decodes to NaN (R36), and makes the block a NaN block. -/
def writeBRow (x : Run) (rd : Nat → Byte) (t : Tensor) (c : OutCfg) (r : Nat) (vs : List Val) : Run :=
  (List.range ((vs.length + 31) / 32)).foldl (fun x k =>
    let xs := ((vs.drop (32 * k)).take 32).map (Val.toLin c.narrow)
    let sum := xs.foldl (fun a v => a.plus c.md.inf v.abs) ({} : Sum64)
    let x := x.flag sum.flags
    let m := if isInf64 sum.v then .nan else divCount sum.v xs.length
    let put (x : Run) (f : Lin → Nat → Nat) : Run :=
      xs.zipIdx.foldl (fun x p => x.putElem rd t r (32 * k + p.2) (f p.1 p.2)) x
    match m with
    | .nan => ((put x fun _ _ => 0).put (t.scaleAddr r (32 * k)) 0xFF).flag .invalid
    | .zero => (put x fun _ _ => 0).put (t.scaleAddr r (32 * k)) 0
    | .fin _ mm me =>
      let c0 := max 1 (min 254 (128 + nearestEven (conv mm me) 16 0))
      let x := put x fun v i =>
        if t.fmt = .b1 then (if v.sint < 0 then 1 else 0)
        else b2Code (v.scale (128 - c0)) (qzRnd c t.base r (t.koff + 32 * k + i))
      x.put (t.scaleAddr r (32 * k)) (BitVec.ofNat 8 c0.toNat)) x

/-! ### Any output -/

/-- The quantisation record that an output descriptor names (R252). -/
def recordOf (t : Tensor) : Option Nat :=
  if t.hanked then (if t.aux = 0 then none else some t.aux)
  else if t.packed then some (t.aux - 128) else none

/-- The conditions on an output that need no byte of memory (R232, R247, R252); else QZ_CFG. -/
def outOk (qz : BitVec 32) (t : Tensor) : Bool :=
  t.kindOk
  && (!(t.hanked || t.packed || t.fmt.isMx || t.fmt = .b1 || t.fmt = .b2) || t.koff % 32 = 0)
  && (!(t.hanked || t.packed) || (recordOf t).isSome || bitsOf qz.toNat 10 2 = 1)

/-- The checks and the configuration of an output before anything is written (R232, R242, R247, R252): QZ_CFG
or what governs the writing. -/
def outCfg (rd : Nat → Byte) (t : Tensor) (md : Modes) (narrow : Bool) (qz : BitVec 32) (seed step : Nat) :
    Except (Byte × Nat) OutCfg :=
  let rcd := recordOf t
  if t.hanked ∨ t.packed then
    if t.layout = 2 ∧ t.fmt ≠ .ng4 then .error (0x18, 0)
    else if t.koff % 32 ≠ 0 then .error (0x18, 0)
    else match ceiling qz t.fmt (rcd.map fun a o => rd (a + o)) with
      | none => .error (0x18, 0)
      | some cr => .ok ⟨md, narrow, cr.1, rcd, seed, step, cr.2⟩
  else if (t.fmt.isMx ∨ t.fmt = .b1 ∨ t.fmt = .b2) ∧ t.koff % 32 ≠ 0 then .error (0x18, 0)
  else .ok ⟨md, narrow, 254, none, seed, step, .no⟩

/-- The atomic accesses to an output's quantisation record (R253, R436). -/
def recordSegs (t : Tensor) : List Seg :=
  match recordOf t with
  | some a => [⟨a, 128, .atomic⟩]
  | none => []

/-- The hanks that a write of the first `m` rows continues, and reads for that (R247, R453). -/
def continuedSegs (t : Tensor) (m : Nat) : List Seg :=
  if t.hanked && t.koff % 192 ≠ 0 then
    (List.range m).map fun r => ⟨t.rowAddr r 0 + t.hankSize * (t.koff / 192), t.hankSize, .read⟩
  else []

/-- What the writing of the first `m` rows of an output reaches beside its elements: the hanks it continues and its record. -/
def outputSegs (t : Tensor) (m : Nat) : List Seg := continuedSegs t m ++ recordSegs t

/-- The rows that `n` elements in flat order reach. -/
def Tensor.rowsOf (t : Tensor) (n : Nat) : Nat := (n + t.rowLen - 1) / t.rowLen

/-- Writes the values of one row to an output tensor from its element 0 on; `rn` rounds element `c` of an
output in plain elements. -/
def writeRow (x : Run) (rd : Nat → Byte) (t : Tensor) (c : OutCfg) (r : Nat) (vs : List Val) (rn : Nat → Rnd) : Run :=
  if vs = [] then x
  else if t.hanked then writeHankRow x rd t c r vs
  else if t.packed then writePackedRow x rd t c r vs
  else if t.fmt.isMx then writeMxRow x rd t c r vs
  else if t.fmt = .b1 ∨ t.fmt = .b2 then writeBRow x rd t c r vs
  else vs.zipIdx.foldl (fun x p =>
    let o := encodeElem t.fmt c.md c.narrow p.1 (rn p.2)
    (x.putElem rd t r p.2 o.1).flag o.2) x

end Sys2Proof.Machine
end

