-- ==== Sys2Proof/Machine/Rank.lean ====
section
/-! DEFINITION. Candidates and their ranking (R223, R275, R277). -/

namespace Sys2Proof.Machine

/-- A candidate: its index, its 32-bit value and whether it is a pad (R223). -/
structure Cand where
  idx  : Nat
  code : Nat
  pad  : Bool
  deriving DecidableEq, Repr, Inhabited

/-- The value of a candidate: FP32, or the AL32 layout (R190). DEDUCED (log entry 117): a stored FP32 value decodes exactly whatever
SUBN holds; `Cand.infinities` gives the flag of an infinity. -/
def Cand.val (log : Bool) (c : Cand) : Val :=
  if log then (decodeElem .al32 false c.code).1
  else .lin (fpDecode ⟨8, 23, 127, .ieee, true⟩ false c.code).1

/-- Whether `a < b` as values of one family; neither NaN. -/
def Val.lt (a b : Val) : Bool :=
  match a, b with
  | .lin x, .lin y => x.lt y
  | .log x, .log y =>
    match x, y with
    | .num n l, .num k m => if n ≠ k then n else if n then decide (m < l) else decide (l < m)
    | .num n _, .zero => n
    | .zero, .num k _ => !k
    | _, _ => false
  | _, _ => false

/-- Whether `a` ranks before `b` (R223): pads last, NaN above every number, larger values first, ties to the
lower index. -/
def Cand.before (log : Bool) (a b : Cand) : Bool :=
  if a.pad || b.pad then !a.pad
  else
    let x := a.val log
    let y := b.val log
    if x.isNan || y.isNan then
      if x.isNan && y.isNan then decide (a.idx < b.idx) else x.isNan
    else if y.lt x then true else if x.lt y then false else decide (a.idx < b.idx)

/-- INVALID where one of the stored candidates holds an FP32 infinity (R36, R51). -/
def Cand.infinities (log : Bool) (cs : List Cand) : Flags :=
  if !log && cs.any (fun c => c.code % 2 ^ 31 = 0x7F800000) then .invalid else .no

/-- INVALID where a candidate that is written, not a pad, holds a NaN (R51; log entry 129). -/
def Cand.nans (log : Bool) (cs : List Cand) : Flags :=
  if cs.any (fun c => !c.pad && (c.val log).isNan) then .invalid else .no

/-- Puts a candidate behind every one that ranks no later. -/
def Cand.insert (log : Bool) (c : Cand) : List Cand → List Cand
  | [] => [c]
  | d :: r => if c.before log d then c :: d :: r else d :: Cand.insert log c r

/-- The candidates in rank order; equal ones keep their order (R277). -/
def Cand.sort (log : Bool) (cs : List Cand) : List Cand := cs.foldl (fun l c => c.insert log l) []

/-- A pad: index 0xFF_FFFF and value NaN (R223). -/
def Cand.padOf (log : Bool) : Cand := ⟨0xFFFFFF, if log then 0xC0000000 else 0x7FC00000, true⟩

/-- The best `k` candidates, padded. -/
def Cand.top (log : Bool) (k : Nat) (cs : List Cand) : List Cand :=
  let l := (Cand.sort log cs).take k
  l ++ List.replicate (k - l.length) (Cand.padOf log)

/-- The 8 bytes of a candidate as a number (R223). -/
def Cand.word (c : Cand) : Nat := c.idx % 2 ^ 24 * 2 ^ 40 + c.code % 2 ^ 32

/-- A stored candidate: index 0xFF_FFFF with a NaN is a pad. -/
def Cand.ofWord (log : Bool) (w : Nat) : Cand :=
  let c : Cand := ⟨w / 2 ^ 40 % 2 ^ 24, w % 2 ^ 32, false⟩
  { c with pad := c.idx = 0xFFFFFF && (c.val log).isNan }

/-- The value of a drain or lane value as a candidate records it (R223): FP32 to nearest even with
saturation, or the AL32 layout at its limits. -/
def candCode (v : Val) : Nat :=
  match v with
  | .lin x => (fpEncode ⟨8, 23, 127, .ieee, true⟩ ⟨.rne, false, false, .rne⟩ true x .rne).1
  | .log g => (encLogBits g 23 23 32 .rne).1

end Sys2Proof.Machine
end

