-- ==== Sys2Proof/Machine/Products.lean ====
section
/-! DEFINITION. Products and their two summing paths (R65 to R96), the table builder (R164 to R171, R597) and
the adds into one element of a tile (R87, R192, R207). -/

namespace Sys2Proof.Machine

/-- Integer formats of R74. -/
def Fmt.isInt : Fmt → Bool
  | .in4 | .int8 | .mxint8 => true
  | _ => false

/-- The number of plies of a linear format (R66). -/
def Fmt.plies : Fmt → Nat
  | .fp16 => 3
  | .bf16 | .int8 | .mxint8 => 2
  | .e4m3 | .e5m2 | .fp4 | .in4 | .mxfp4 | .mxe4m3 | .mxe5m2 => 1
  | _ => 0

/-- How the products of a pair are formed (R69). -/
inductive Dom where
  | log8      -- log × log, entries of R76
  | log16     -- through the converter, entries of R77
  | plies     -- exact linear products, one pass
  | fp16W     -- three passes, the weight split (R71)
  | fp16X     -- three passes, the streamed operand split
  | fp32      -- six passes (R72)
  | table     -- B1 or B2 weights (R164)
  deriving DecidableEq, Repr, Inhabited

/-- Whether a format is 4-bit linear: FP4 or IN4, with MXFP4 an FP4 (R74). -/
def Fmt.isNib : Fmt → Bool
  | .fp4 | .in4 | .mxfp4 => true
  | _ => false

/-- The domain of a weight and stream pair (R69 to R74). -/
def domOf (w x : Fmt) : Dom :=
  if w = .b1 ∨ w = .b2 then .table
  else if w.isLog ∧ x.isLog then .log8
  else if w.isLog ∨ x.isLog then .log16
  else if w.isInt ≠ x.isInt ∧ !(w.isNib && x.isNib) then .log16
  else if w = .fp32 ∨ x = .fp32 then .fp32
  else if w = .fp16 then .fp16W
  else if x = .fp16 then .fp16X
  else .plies

/-- The number of passes of a pair (R71, R72). -/
def Dom.passes : Dom → Nat
  | .fp16W | .fp16X => 3
  | .fp32 => 6
  | _ => 1

/-- The products of stage 2 in one group (R81, R170). -/
def groupSize (d : Dom) (w x : Fmt) : Nat :=
  match d with
  | .log8 | .log16 => 4
  | .plies => if w.plies + x.plies ≤ 2 then 16 else 8
  | .table => if w = .b1 then 16 else 8
  | _ => 8

/-- A product: none for zero, else its exact value (or NaN), its log where it has one, and the log2 of the
block scales of both operands (R68, R87). -/
structure Prod where
  v : Lin
  l : Lg
  e : Int
  deriving DecidableEq, Repr, Inhabited

/-- A product of NaN class. -/
def Prod.nan : Prod := ⟨.nan, .nan, 0⟩

/-- An exact linear product as a product; its log goes through the converter (R90). -/
def Prod.ofLin (v : Lin) (e : Int) : Option Prod :=
  match v with
  | .nan => some .nan
  | .zero => none
  | .fin n m k => if m = 0 then none else some ⟨.fin n m k, convLin (.fin n m k), e⟩

/-- The significand of an operand widened to FP32: 24 bits, and the exponent of its last bit (R72). -/
def sig24 (x : Lin) : Nat × Int :=
  match x with
  | .fin _ m e =>
    let lo := max (leadOrder m e - 23) (-149)
    (if lo ≤ e then m * 2 ^ (e - lo).toNat else m >>> (lo - e).toNat, lo)
  | _ => (0, 0)

/-- The piece pairs of the six passes, 2 high, 1 middle, 0 low, the weight's piece first (R72; log entry 15). -/
def piecePair : Nat → Nat × Nat
  | 0 => (2, 2) | 1 => (2, 1) | 2 => (1, 2) | 3 => (1, 1) | 4 => (2, 0) | _ => (0, 2)

/-- Ply `k` of an FP16 operand as a value (R71). -/
def plyOf (x : Lin) (k : Nat) : Lin :=
  match x with
  | .fin n m e => .fin n (bitsOf m (4 * k) 4) (e + 4 * k)
  | v => v

/-- An operand's value where a linear one is needed. -/
def El.lin (x : El) : Lin :=
  match x.v with
  | .lin y => y
  | .log g => logLin76 g

/-- The product of two operands in pass `p` of their pair (R68 to R74); none for zero. -/
def product (d : Dom) (p : Nat) (a b : El) : Option Prod :=
  if a.v.isNan || b.v.isNan then some .nan
  else if a.v.isZero || b.v.isZero then none
  else
    let e := a.e + b.e
    let neg := xor a.v.isNeg b.v.isNeg
    let lsum : Int := match a.v.toLog, b.v.toLog with
      | .num _ x, .num _ y => x + y
      | _, _ => 0
    let table (v : Lin) : Option Prod :=
      match v with
      | .fin _ m k => some ⟨.fin neg m k, .num neg lsum, e⟩
      | _ => none
    match d with
    | .log8 => table (pow2R76 (lsum / 32768))
    | .log16 => table (pow2R77 (lsum / 128))
    | .plies | .table => Prod.ofLin (a.lin.mul b.lin) e
    | .fp16W => Prod.ofLin ((plyOf a.lin (2 - p)).mul b.lin) e
    | .fp16X => Prod.ofLin (a.lin.mul (plyOf b.lin (2 - p))) e
    | .fp32 =>
      let x := sig24 a.lin
      let y := sig24 b.lin
      let k := piecePair p
      let pa := bitsOf x.1 (8 * k.1) 8
      let pb := bitsOf y.1 (8 * k.2) 8
      Prod.ofLin (.fin neg (pa * pb) (x.2 + y.2 + 8 * (k.1 + k.2 : Nat))) e

/-! ### The table builder (R164 to R171) -/

/-- The group order: the binary order of the leading bit of the largest activation magnitude that is a number (R167). -/
def groupOrder (vals : List Lin) : Option Int :=
  vals.foldl (fun (o : Option Int) v => match v with
    | .fin _ m e => if m = 0 then o else some (match o with
        | some k => max k (leadOrder m e)
        | none => leadOrder m e)
    | _ => o) none

/-- One activation group against its weights: the exact sum of the entries its cell reads, NaN where an activation is NaN,
and whether the window cut off a bit (R166 to R169, R171). `ws` are the weights' signed values. The truncation depends on
the activations alone (R167), so a NaN among them does not hide that of the others. -/
def builderGroup (ws xs : List El) : Lin × Bool :=
  let vals := xs.map El.lin
  match groupOrder vals with
  | none => (if xs.any fun x => x.v.isNan then .nan else .zero, false)
  | some o =>
    let cut := vals.map fun v => v.roundGrid (o - 23) .rtz
    ((ws.zip cut).foldl (fun a p => a.add (p.1.lin.mul p.2)) .zero,
      (vals.zip cut).any fun p => !p.1.isNan && !p.1.eq p.2)

/-- The activation groups of one cell in ascending order: what each lookup gives, and whether the window cut off a bit of any
(R165, R170). -/
def builderCell : Nat → List El → List El → List Lin × Bool
  | 0, _, _ => ([], false)
  | n + 1, ws, xs =>
    if xs = [] then ([], false)
    else
      let g := builderGroup (ws.take 4) (xs.take 4)
      let r := builderCell n (ws.drop 4) (xs.drop 4)
      (g.1 :: r.1, g.2 || r.2)

/-- The log2 of the block scales of a cell's operands: a cell lies within one block of each (R165, R178). -/
def cellScale (ws xs : List El) : Int := (ws.headD .zero).e + (xs.headD .zero).e

/-- Whether an operand of a cell is of NaN class: a weight of a NaN block makes every lookup of its cell NaN (R86, R171). -/
def cellNan (ws : List El) : Bool := ws.any fun x => x.v.isNan

/-- One cell of a B1 or B2 pass in the linear-sum path: its lookups, each a product of stage 2 (R170, R171). A lookup is one
activation group's entry, T_hi + T_lo / 2 in a B2 pass (R169). DEDUCED (log entry 98): the anchor of R83 goes by the largest
lookup and each lookup is truncated to the window by itself; a cell whose non-zero lookups cancel still holds non-zero
products, so it moves the anchor and its group advances the ordinal (R208), while a lookup that is itself zero is a zero
product. -/
def cellLookups (ws xs : List El) : List (Option Prod) × Bool :=
  let c := builderCell 4 ws xs
  (c.1.map fun v => if cellNan ws then some .nan else Prod.ofLin v (cellScale ws xs), c.2)

/-- One cell of a B1 or B2 pass as one product of the log-sum path: the exact sum of its lookups (R170, R171, R597). -/
def cellProduct (ws xs : List El) : Option Prod × Bool :=
  let c := builderCell 4 ws xs
  (if cellNan ws then some .nan else Prod.ofLin (c.1.foldl Lin.add .zero) (cellScale ws xs), c.2)

/-! ### The block register (R82 to R86) -/

/-- A slice: its value in units of 2^(anchor − 55), its anchor once it has one, the scale of its block, its
NaN bit and whether a bit was discarded. -/
structure Slice where
  val    : Int := 0
  anchor : Option Int := none
  scale  : Int := 0
  nan    : Bool := false
  cut    : Bool := false
  deriving DecidableEq, Repr, Inhabited

/-- Adds one group of products into a slice (R83, R86). -/
def Slice.group (s : Slice) (ps : List Prod) : Slice :=
  let s := if ps.any fun p => p.v.isNan then { s with nan := true } else s
  let nums := ps.filter fun p => !p.v.isNan
  match nums with
  | [] => s
  | p0 :: _ =>
    let top := nums.foldl (fun (o : Option Int) p => match p.v with
      | .fin _ m e => some (match o with
          | some k => max k (leadOrder m e)
          | none => leadOrder m e)
      | _ => o) s.anchor
    match top with
    | none => s
    | some a =>
      let lsb := a - 55
      let sh := match s.anchor with
        | some o => (a - o).toNat
        | none => 0
      let base := s.val / 2 ^ sh
      let lost := s.val % 2 ^ sh ≠ 0
      let cutOne (p : Prod) : Bool := !(p.v.roundGrid lsb .rtz).eq p.v
      let term (p : Prod) : Int := match p.v.roundGrid lsb .rtz with
        | .fin n m e => (if n then -1 else 1) * ((m : Int) * 2 ^ (e - lsb).toNat)
        | _ => 0
      { s with val := base + (nums.map term).sum, anchor := some a, scale := p0.e,
               cut := s.cut || lost || nums.any cutOne }

/-- The value of a slice at the rescale (R86, R87): NaN, or exact. -/
def Slice.value (s : Slice) : Lin :=
  if s.nan then .nan
  else match s.anchor with
    | some a => .ofInt s.val (a - 55 + s.scale)
    | none => .zero

/-- Whether any product reached a slice (R208). -/
def Slice.touched (s : Slice) : Bool := s.nan || s.anchor.isSome

/-- The cells of a B1 or B2 pass that reduction indices [lo, hi) fill: each one's operands, the last cut at `hi`. -/
def cellsOf (n : Nat) (ws xs : List El) (lo hi : Nat) : List (List El × List El) :=
  (List.range ((hi - lo + n - 1) / n)).map fun i =>
    let k := lo + n * i
    ((ws.drop k).take (min n (hi - k)), (xs.drop k).take (min n (hi - k)))

/-- The stage-2 groups of reduction indices [lo, hi) of one pass, in ascending order, with the builder's window flag (R81,
R170). -/
def groupsAt (d : Dom) (w x : Fmt) (p : Nat) (ws xs : List El) (lo hi : Nat) : List (List (Option Prod)) × Bool :=
  let n := groupSize d w x
  match d with
  | .table =>
    let cs := (cellsOf n ws xs lo hi).map fun c => cellLookups c.1 c.2
    (cs.map (·.1), cs.any (·.2))
  | _ => ((List.range ((hi - lo + n - 1) / n)).map fun i => (List.range (min n (hi - lo - n * i))).map fun k =>
      product d p (ws.getD (lo + n * i + k) .zero) (xs.getD (lo + n * i + k) .zero), false)

/-- Groups of products in a slice, in ascending order (R81 stage 3). -/
def sliceGroups (gs : List (List (Option Prod))) (s : Slice) : Slice := gs.foldl (fun s g => s.group (g.filterMap id)) s

/-- One dequant group of a pass (R81, R82): the exact rescaled sum where a product reached it, and the flags. DESIGN CHOICE
(log entry 99): R86 says that a slice whose value is NaN never sets INEXACT and R167 that each truncation by the builder's
window sets it, whatever the cells select; the builder's truncations set it here also where the slice they feed is NaN, and
the shifts and truncations of such a slice itself do not. -/
def dequantGroup (d : Dom) (w x : Fmt) (p : Nat) (ws xs : List El) (lo hi : Nat) : Option Lin × Flags :=
  let sl := (List.range ((hi - lo + 31) / 32)).map fun j =>
    let a := lo + 32 * j
    let gs := groupsAt d w x p ws xs a (min hi (a + 32))
    (sliceGroups gs.1 {}, gs.2)
  let f := if sl.any fun s => s.2 || (s.1.cut && !s.1.nan) then Flags.inexact else .no
  if sl.any fun s => s.1.touched then
    (some (sl.foldl (fun a s => a.add s.1.value) .zero), f)
  else (none, f)

/-! ### Adds into one element -/

/-- What identifies an element's adds: seed, step, logical spindle, tile handle, row and column (R207). -/
structure AddKey where
  seed : Nat
  step : Nat
  lspn : Nat
  tile : Nat
  row  : Nat
  col  : Nat
  deriving DecidableEq, Repr, Inhabited

/-- The draw of an add by purpose and ordinal (R207, R352). -/
def AddKey.draw (k : AddKey) (purpose ord : Nat) : Nat :=
  draw16 k.seed purpose k.step (elemTile k.lspn k.tile k.row k.col ord)

/-- The draw of an addition of the array's log-sum path: one into the element takes the count of adds into it so far
(R207); which ordinal one within a tree of R96 takes is open (log entry 59). -/
def AddKey.drawAl (k : AddKey) (tree : Bool) (adds trees : Nat) : Nat :=
  k.draw 0xE1 (if tree then Config.treeOrdinal adds trees else adds)

/-- One add into an AF32 element (R87): exact, then rounded stochastically to 24 bits. -/
def addAf (k : AddKey) (ord : Nat) (x s : Lin) : Lin :=
  ((x.add s).roundSig 24 (.sr (k.draw 0xE0 ord))).norm24

/-- An element with its counts of adds and of additions within trees, and the flags of a pass. -/
structure ElemSt where
  acc   : Acc
  adds  : Nat
  trees : Nat
  flags : Flags
  deriving DecidableEq, Repr, Inhabited

/-- The adds of one pass into one AF32 element, dequant groups of `dq` ascending (R81, R89, R180). -/
def passAf (d : Dom) (w x : Fmt) (p dq kv : Nat) (ws xs : List El) (k : AddKey) (st : ElemSt) : ElemSt :=
  (List.range ((kv + dq - 1) / dq)).foldl (fun st g =>
    let r := dequantGroup d w x p ws xs (g * dq) (min kv (g * dq + dq))
    match r.1, st.acc with
    | some v, .af y => ⟨.af (addAf k st.adds y v), st.adds + 1, st.trees, st.flags.or r.2⟩
    | _, a => ⟨a, st.adds, st.trees, st.flags.or r.2⟩) st

/-- A product's log with its block scales added (R90, R597). -/
def Prod.leaf (p : Option Prod) : Lg :=
  match p with
  | none => .zero
  | some q => match q.l with
    | .num n l => .num n (l + q.e * 2 ^ 23)
    | g => g

/-- The leaves of the log-sum trees of one pass, index by index, with the builder's window flag: in a B1 or B2 pass a cell's
product stands at its lowest index and its other indices are missing leaves (R96, R597). -/
def leavesOf (d : Dom) (w x : Fmt) (p kv : Nat) (ws xs : List El) : List (Option Lg) × Bool :=
  match d with
  | .table =>
    let n := groupSize d w x
    let cs := (cellsOf n ws xs 0 kv).map fun c => cellProduct c.1 c.2
    (cs.flatMap fun c => some (Prod.leaf c.1) :: List.replicate (n - 1) none, cs.any (·.2))
  | _ => ((List.range kv).map fun k => some (Prod.leaf (product d p (ws.getD k .zero) (xs.getD k .zero))), false)

/-- The adds of one pass into one AL32 element (R96, R597). -/
def passAl (d : Dom) (w x : Fmt) (p kv : Nat) (ws xs : List El) (k : AddKey) (st : ElemSt) : ElemSt :=
  let ps := leavesOf d w x p kv ws xs
  match st.acc with
  | .al g =>
    let r := logSumGroups k.drawAl true ((kv + 15) / 16) ps.1 g
      ⟨st.adds, st.trees, if ps.2 then st.flags.or .inexact else st.flags⟩
    ⟨.al r.1, r.2.adds, r.2.trees, r.2.flags⟩
  | _ => st

/-- The adds of one pass into one AI32 element, groups of 8 (R81, R192). -/
def passAi (kv : Nat) (ws xs : List El) (st : ElemSt) : ElemSt :=
  (List.range ((kv + 7) / 8)).foldl (fun st g =>
    let z := ((List.range (min 8 (kv - 8 * g))).map fun i =>
      ((ws.getD (8 * g + i) .zero).lin.sint * 2 ^ (ws.getD (8 * g + i) .zero).lin.expo.toNat)
        * ((xs.getD (8 * g + i) .zero).lin.sint * 2 ^ (xs.getD (8 * g + i) .zero).lin.expo.toNat)).sum
    match st.acc with
    | .ai v =>
      let t := v.toInt + z
      let wraps : Bool := t < -(2 ^ 31) || 2 ^ 31 ≤ t
      ⟨.ai (BitVec.ofInt 32 t), st.adds, st.trees, if wraps then st.flags.or .wrap else st.flags⟩
    | _ => st) st

/-- One pass `p` of an instruction into one element. -/
def passElem (w x : Fmt) (p dq kv : Nat) (ws xs : List El) (k : AddKey) (st : ElemSt) : ElemSt :=
  let d := domOf w x
  match st.acc with
  | .af _ => passAf d w x p dq kv ws xs k st
  | .al _ => passAl d w x p kv ws xs k st
  | .ai _ => passAi kv ws xs st

end Sys2Proof.Machine
end

