-- ==== Sys2Proof/Machine/Tiles.lean ====
section
/-! DEFINITION. Accumulation tiles (R188 to R211): their elements, opening, spilling, and the array passes that
add into them (R132 to R149, R178 to R181, R202 to R208, R405 to R408). -/

namespace Sys2Proof.Machine

/-- A tile of a context. -/
def Ctx.tile (x : Ctx) (t : Nat) : Tile := x.tiles.get t {}

/-- The context with a tile replaced. -/
def Ctx.setTile (x : Ctx) (t : Nat) (v : Tile) : Ctx := { x with tiles := x.tiles.set t v {} }

/-- The zero element of an accumulator format (R189). -/
def accZero (f : AccFmt) : Acc :=
  match f with
  | .af32 => .af .zero
  | .al32 => .al .zero
  | .ai32 => .ai 0

/-- Element (i, j) of a tile. -/
def Tile.elem (t : Tile) (i j : Nat) : Acc := t.elems.get (i * t.cols + j) (accZero t.fmt)

/-- The adds into element (i, j) since the tile was opened, and its additions within trees (R96, R207). -/
def Tile.addCount (t : Tile) (i j : Nat) : Nat × Nat := t.adds.get (i * t.cols + j) (0, 0)

/-- The tile with element (i, j) and its add count replaced. -/
def Tile.setElem (t : Tile) (i j : Nat) (a : Acc) (n : Nat × Nat) : Tile :=
  { t with elems := t.elems.set (i * t.cols + j) a (accZero t.fmt), adds := t.adds.set (i * t.cols + j) n (0, 0) }

/-- Units of 32 KiB that a tile of the shape occupies (R195). -/
def tileUnits (f : AccFmt) (rows cols : Nat) : Nat :=
  (rows * cols * 4 * (if f = .al32 then 2 else 1) + 32767) / 32768

/-- USED of ACC_QUOTA: the units of the open and draining tiles (R197). -/
def Ctx.quotaUsed (x : Ctx) : Nat :=
  (x.tiles.map fun p => if p.2.st = .closed then 0 else tileUnits p.2.fmt p.2.rows p.2.cols).sum

/-- The accumulator format of an AFMT field (R405, R408); none for 0b11. -/
def accOf : Nat → Option AccFmt
  | 0 => some .af32
  | 1 => some .al32
  | 2 => some .ai32
  | _ => none

/-! ### Spilling -/

/-- The device address of AW64 element (i, j) of a tile's spill buffer (R194, R210). -/
def Tile.bufAddr (t : Tile) (i j : Nat) : Nat := (tensorRaw t.buf).base + 8 * (t.cols * i + j)

/-- A binary64 number at a device address of a context, with INVALID where it is an infinity (R36). -/
def State.readF64 (s : State) (l c a : Nat) : Lin × Flags :=
  decode64 (leNat ((List.range 8).map fun i => s.devGet l c (a + i)))

/-- Writes a little-endian number of `n` bytes at a device address of a context, where it is mapped; a unit written whole loses its
poison (R453). -/
def State.devSet (s : State) (l c a n v : Nat) : State :=
  let ws := (leBytes n v).zipIdx.filterMap fun p => (s.locate l c (a + p.2)).map fun k => (k.key, p.1)
  { s with mem := Mem.setAll s.mem ws, poison := s.healed ws }

/-- One AW64 element after an AF32 element is added into it, and the flags: of the decoding of the old value (R36), of the
addition (R53, R60), of the write (R51, R52). -/
def spillCode (inf : Bool) (old : Nat) (v : Lin) : Nat × Flags :=
  let d := decode64 old
  let o := sum64 inf d.1 v
  ((encode64 inf o.1).1, d.2.or (if o.1.isNan then .invalid else o.2))

/-- The AF32 value of an element; zero for the other formats. -/
def Acc.afLin : Acc → Lin
  | .af v => v
  | _ => .zero

/-- Spills a tile (R209): every AF32 element, zeros too, is added into its AW64 element and set to zero. The flags are those
of the operation that spills. -/
def State.spill (s : State) (l c t : Nat) (inf : Bool) : State × Flags :=
  let x := s.ctx l c
  let tl := x.tile t
  let o := (List.range (tl.rows * tl.cols)).foldl (fun (o : State × Flags) i =>
    let a := tl.bufAddr 0 0 + 8 * i
    let k := spillCode inf (leNat ((List.range 8).map fun b => o.1.devGet l c (a + b))) (tl.elem 0 i).afLin
    (o.1.devSet l c a 8 k.1, o.2.or k.2)) (s, .no)
  (o.1.setCtx l c (x.setTile t { tl with elems := [], groups := 0 }), o.2)

/-- The bytes of a tile's spill buffer that a spill or a drain reads; none for a tile without one (R210, R453). -/
def Tile.bufSegs (t : Tile) : List Seg :=
  if t.interval = 0 then [] else [⟨t.bufAddr 0 0, 8 * t.rows * t.cols, .read⟩]

/-! ### Passes -/

/-- The shapes of the array (R134). -/
inductive Shape where
  | full | half | quarter | rib32 | rib16
  deriving DecidableEq, Repr, Inhabited

/-- K of a shape (R134). -/
def Shape.k : Shape → Nat
  | .full | .half => 128
  | .quarter => 64
  | .rib32 => 32
  | .rib16 => 16

/-- N per section of a shape (R134). -/
def Shape.n : Shape → Nat
  | .full => 128
  | .half | .quarter => 64
  | .rib32 => 512
  | .rib16 => 1024

/-- The sections of a shape (R134). -/
def Shape.sections : Shape → Nat
  | .half => 2
  | .quarter => 4
  | _ => 1

/-- Reduction indices per cell row of a format (R132). -/
def Fmt.pack : Fmt → Nat
  | .b1 => 16
  | .b2 => 8
  | .fp4 | .mxfp4 | .in4 | .ng4 => 4
  | .e4m3 | .e5m2 | .mxe4m3 | .mxe5m2 | .lg8 => 2
  | _ => 1

/-- P of a pair: that of its slower format, the weight's for B1 and B2 (R132, R165). -/
def packOf (w x : Fmt) : Nat := if w = .b1 ∨ w = .b2 then w.pack else min w.pack x.pack

/-- Whether a tensor may stream into the array (R18): FP4 and IN4 in hanks only. -/
def streamOk (t : Tensor) : Bool :=
  match t.fmt with
  | .lg16 | .lg8 | .ng4 | .fp32 | .fp16 | .bf16 | .e4m3 | .e5m2 | .int8
  | .mxfp4 | .mxe4m3 | .mxe5m2 | .mxint8 => true
  | .fp4 | .in4 => t.hanked
  | _ => false

/-- Whether a tensor may be a stationary weight (R18). -/
def weightOk (t : Tensor) : Bool := streamOk t || t.fmt = .b1 || t.fmt = .b2

/-- Whether the pair has a product (R172). -/
def hasProduct (w x : Fmt) : Bool := !((w = .b1 || w = .b2) && x = .fp32)

/-- Whether an accumulator format takes a pair (R90). -/
def accTakes (f : AccFmt) (w x : Fmt) : Bool := f ≠ .ai32 || (w = .int8 && x = .int8)

/-- The KOFF of a pass's operand (R179). -/
def koffOk (t : Tensor) (kp : Nat) : Bool := !t.hasKoff || t.koff % (if kp = 16 then 16 else 32) = 0

/-- The operation's parameter word `i` (R399). -/
def QOp.param (q : QOp) (i : Nat) : Nat := (q.params.getD i 0).toNat

/-- A captured descriptor (R384). -/
def QOp.desc (q : QOp) (d : Nat) : Line := q.descs.get d 0

/-- A field of the operation's MOD (R375). -/
def QOp.modf (q : QOp) (lo w : Nat) : Nat := bitsOf q.form.mod.toNat lo w

/-- The descriptor that DESC names. -/
def QOp.desc0 (q : QOp) : Line := q.desc q.form.desc.toNat

/-- The seed of the operation's context (R354). -/
def State.seedOf (s : State) (q : QOp) : Nat := (s.ctx q.lspn q.ctx).seed.toNat

/-- Reads a byte at a device address on behalf of an operation. -/
def State.rd (s : State) (q : QOp) : Nat → Byte := fun a => s.devGet q.lspn q.ctx a

/-- The operation's checks before it moves a byte (R436). -/
def State.segsOk (s : State) (q : QOp) (gs : List Seg) : Except (Byte × Nat) Unit :=
  clear (s.checkSegs q.lspn q.ctx gs)

/-- What a pass works on once its checks have passed. -/
structure PassJob where
  w    : Tensor
  x    : Tensor
  m    : Nat
  kv   : Nat
  nv   : Nat
  row0 : Nat
  col0 : Nat
  dq   : Nat
  deriving DecidableEq, Repr, Inhabited

/-- The checks of a pass in their order (R407). -/
def mxCheck (s : State) (q : QOp) (sh : Shape) : Except (Byte × Nat) PassJob := do
  let dw := q.desc0
  let dx := q.desc (q.modf 16 8)
  need (descOk dw && descOk dx) 0x1F
  need (fmtOk dw && fmtOk dx) 0x10
  let w := tensorRaw dw
  let x := tensorRaw dx
  need (weightOk w && streamOk x && hasProduct w.fmt x.fmt) 0x10
  need (w.kindOk && x.kindOk) 0x18
  let g := q.param 0
  let m := bitsOf g 48 16 + 1
  let kv := bitsOf g 36 12
  let nv := bitsOf g 25 11
  let row0 := bitsOf g 13 12
  let col0 := 64 * bitsOf g 9 4
  let kp := sh.k * packOf w.fmt x.fmt
  need (bitsOf g 0 9 = 0 && 1 ≤ kv && kv ≤ kp && 1 ≤ nv && nv ≤ sh.n && q.modf 6 2 < sh.sections
    && koffOk w kp && koffOk x kp && nv ≤ w.rows && kv ≤ w.rowLen && m ≤ x.rows && kv ≤ x.rowLen) 0x11
  let t := (s.ctx q.lspn q.ctx).tile q.form.tile.toNat
  need (t.st = .opened) 0x16
  need (some t.fmt = accOf (q.modf 2 2)) 0x13
  need (accTakes t.fmt w.fmt x.fmt) 0x10
  need (row0 + m ≤ t.rows && col0 + nv ≤ t.cols) 0x11
  let spills := t.groups + (domOf w.fmt x.fmt).passes * ((kv + 32 * 2 ^ q.modf 4 2 - 1) / (32 * 2 ^ q.modf 4 2)) ≥ t.interval
  s.segsOk q (w.segs nv kv .read ++ x.segs m kv .read ++ if spills then t.bufSegs else [])
  return ⟨w, x, m, kv, nv, row0, col0, 32 * 2 ^ q.modf 4 2⟩

/-- One pass of an instruction into its tile, element by element; the flags gather in the Run. -/
def passTile (w x : Fmt) (p : Nat) (j : PassJob) (ws xs : List (List El)) (key : AddKey) (t : Tile) (r : Run) :
    Tile × Run :=
  (List.range j.m).foldl (fun a i => (List.range j.nv).foldl (fun (a : Tile × Run) n =>
    let st := passElem w x p j.dq j.kv (ws.getD n []) (xs.getD i [])
      { key with row := j.row0 + i, col := j.col0 + n }
      ⟨a.1.elem (j.row0 + i) (j.col0 + n), (a.1.addCount (j.row0 + i) (j.col0 + n)).1, (a.1.addCount (j.row0 + i) (j.col0 + n)).2, .no⟩
    (a.1.setElem (j.row0 + i) (j.col0 + n) st.acc (st.adds, st.trees), a.2.flag st.flags)) a) (t, r)

/-- Passes number `lo` to `hi` of an array instruction, and the spills that follow them (R81, R87, R209). -/
def mxPasses (s : State) (q : QOp) (j : PassJob) (lo hi : Nat) : State × Run :=
  let subn := q.arith.toNat.testBit 3
  let wr := (List.range j.nv).map fun n => j.w.readRow (s.rd q) subn n j.kv
  let xr := (List.range j.m).map fun i => j.x.readRow (s.rd q) subn i j.kv
  let r := (wr ++ xr).foldl Run.take {}
  let tn := q.form.tile.toNat
  let key : AddKey := ⟨s.seedOf q, q.step.toNat, q.lspn, tn, 0, 0⟩
  (((List.range (domOf j.w.fmt j.x.fmt).passes).take hi).drop lo).foldl (fun (a : State × Run) p =>
    let c := a.1.ctx q.lspn q.ctx
    let o := passTile j.w.fmt j.x.fmt p j (wr.map (·.els)) (xr.map (·.els)) key (c.tile tn) a.2
    let t := { o.1 with groups := o.1.groups + (j.kv + j.dq - 1) / j.dq }
    let s := a.1.setCtx q.lspn q.ctx (c.setTile tn t)
    if t.interval ≠ 0 ∧ t.interval ≤ t.groups then
      let z := s.spill q.lspn q.ctx tn (q.arith.toNat.testBit 4)
      (z.1, o.2.flag z.2)
    else (s, o.2)) (s, r)

/-- Passes `lo` to `hi` of an array instruction whose checks pass. -/
def mxPart (s : State) (q : QOp) (sh : Shape) (lo hi : Nat) : State × Run :=
  match mxCheck s q sh with
  | .error e => (s, Run.fail e.1 e.2)
  | .ok j => mxPasses s q j lo hi

/-- A pass of the array (R81, R87, R209, R407): its checks, its one, three or six passes, and the spills that
follow them. -/
def runMx (s : State) (q : QOp) (sh : Shape) : State × Run := mxPart s q sh 0 6

/-! ### ACC.OPEN -/

/-- Whether Init is allowed with a format and an interval (R194); 0 ZERO, 1 CONTINUE, 2 LOAD. -/
def initOk (f : AccFmt) (init sint : Nat) : Bool :=
  (sint = 0 || f = .af32) &&
  (match init with
   | 0 => true
   | 1 => f = .af32 && sint ≠ 0
   | 2 => f ≠ .af32
   | _ => false)

/-- ACC.OPEN (R193 to R196, R210, R408). DEDUCED (log entry 123): a spill buffer's descriptor has just R rows of C elements (R194);
one with more rows or longer rows fails with ACC_SHAPE as one with fewer or shorter ones does. -/
def runAccOpen (s : State) (q : QOp) : State × Run :=
  let x := s.ctx q.lspn q.ctx
  let tn := q.form.tile.toNat
  let fmt := (accOf (q.modf 24 2)).getD .af32
  let rows := 8 * (q.modf 10 9 + 1)
  let cols := 64 * 2 ^ q.modf 7 3
  let init := q.modf 5 2
  let sint := q.param 0
  let d := q.desc0
  let t := tensorRaw d
  let chk : Except (Byte × Nat) Unit := do
    need (sint ≤ 1024 && tileUnits fmt rows cols ≤ 32 && initOk fmt init sint) 0x15
    need (x.quotaUsed + tileUnits fmt rows cols ≤ x.quota.toNat) 0x14
    if sint ≠ 0 then
      need (descOk d) 0x1F
      need t.kindOk 0x18
      need (t.fmt = .aw64 && fmtOk d && t.rows = rows && t.rowLen = cols
        && (rows = 1 || (List.range rows).all fun i => t.rowAddr i 0 = t.base + 8 * cols * i)
        && (!t.rowdims || t.d1 = 1 || t.s1 = 8 * t.d0)) 0x15
      need (rangeOf t.base = some 1 && rangeOf (t.base + 8 * rows * cols - 1) = some 1) 0x15
      s.segsOk q [⟨t.base, 8 * rows * cols, .write⟩]
    else if init = 2 then
      need (descOk d) 0x1F
      need t.kindOk 0x18
      need (fmtOk d && t.fmt = (if fmt = .al32 then .al32 else .ai32) && rows ≤ t.rows && cols ≤ t.rowLen) 0x15
      s.segsOk q (t.segs rows cols .read)
    else .ok ()
  match chk with
  | .error e => (s, Run.fail e.1 e.2)
  | .ok () =>
    let base : Tile := { st := .opened, fmt := fmt, rows := rows, cols := cols, interval := sint, buf := if sint = 0 then 0 else d }
    let tile := if init = 2 then
        (List.range rows).foldl (fun (tl : Tile) i => (List.range cols).foldl (fun tl j =>
          let code := t.code (s.rd q) i j
          tl.setElem i j (if fmt = .al32 then (match (decodeElem .al32 false code).1 with
              | .log g => .al g
              | .lin _ => .al .zero) else .ai (BitVec.ofNat 32 code)) (0, 0)) tl) base
      else base
    let s := if sint ≠ 0 ∧ init = 0 then
        (List.range (rows * cols)).foldl (fun s i => s.devSet q.lspn q.ctx (t.base + 8 * i) 8 0) s
      else s
    (s.setCtx q.lspn q.ctx ((s.ctx q.lspn q.ctx).setTile tn tile), {})

end Sys2Proof.Machine
end

