-- ==== Sys2Proof/Machine/Drain.lean ====
section
/-! DEFINITION. ACC.DRAIN (R212 to R225, R409): the fused path from a tile or an AW64 buffer through scale,
bias, activation, observers and conversion. -/

namespace Sys2Proof.Machine

/-- A drain descriptor read out (R213, R214). -/
structure DrainCfg where
  src   : Nat
  scl   : Nat
  bias  : Nat
  act   : Nat
  mode  : Nat
  after : Nat
  amax  : Bool
  rsq   : Bool
  csq   : Bool
  topk  : Bool
  acc   : Bool
  k     : Nat
  tbase : Nat
  out   : Line
  sclD  : Line
  biasD : Line
  obsD  : Line
  srcD  : Line
  idxD  : Line
  deriving DecidableEq, Repr, Inhabited

/-- Reads the drain descriptor that an operation captured, with the descriptors it names (R213, R384). -/
def drainCfg (q : QOp) : DrainCfg :=
  let d := q.desc0
  let c := lineBytes d 11 8
  let sub (b : Nat) : Line := q.desc (lineBytes d b b)
  { src := bitsOf c 30 2, scl := bitsOf c 28 2, bias := bitsOf c 26 2, act := bitsOf c 23 3
    mode := bitsOf c 21 2, after := bitsOf c 19 2, amax := c.testBit 18, rsq := c.testBit 17
    csq := c.testBit 16, topk := c.testBit 15, acc := c.testBit 14, k := bitsOf c 0 6 + 1
    tbase := lineBytes d 14 12, out := sub 1, sclD := sub 2, biasD := sub 3, obsD := sub 4
    srcD := sub 5, idxD := sub 6 }

/-- Formats of scale and bias vectors (R214). -/
def vecFmtOk (d : Line) : Bool :=
  fmtOk d && (match (tensorRaw d).fmt with
    | .lg16 | .fp32 | .bf16 | .fp16 => true
    | _ => false)

/-- Formats of a drain's output in normal mode (R18, R219). -/
def drainOutOk (t : Tensor) : Bool :=
  match t.fmt with
  | .lg16 | .lg8 | .ng4 | .fp32 | .fp16 | .bf16 | .e4m3 | .e5m2 | .int8
  | .mxfp4 | .mxe4m3 | .mxe5m2 | .mxint8 => true
  | .fp4 | .in4 => t.hanked
  | _ => false

/-- What a drain works on once its checks have passed. -/
structure DrainJob where
  c    : DrainCfg
  rows : Nat
  cols : Nat
  log  : Bool
  fmt  : AccFmt
  o    : OutCfg
  deriving DecidableEq, Repr, Inhabited

/-- The bytes of the observer record's parts in use (R222): under OBS_ACC the record's old contents are read too, and AMAX is an
atomic maximum at the memory (R450). -/
def obsSegs (c : DrainCfg) (rows cols : Nat) : List Seg :=
  let b := (tensorRaw c.obsD).base
  let both (a n : Nat) : List Seg := ⟨a, n, .write⟩ :: if c.acc then [⟨a, n, .read⟩] else []
  (if c.amax then (if c.acc then [⟨b, 4, .atomic⟩] else []) ++ both b 16 else [])
    ++ (if c.rsq then both (b + 16) (8 * rows) else [])
    ++ (if c.csq then both (b + 16 + 8 * rows) (8 * cols) else [])
    ++ (if c.topk then both (b + 16 + 8 * rows + 8 * cols) (8 * rows * c.k) else [])

/-- The modes of a drain: MXFP8 and MXINT8 elements take the instruction's modifier (R219), where MX blocks take ARITH_CTL.RND
otherwise (R42; log entry 74). -/
def drainModes (q : QOp) (out : Tensor) : Modes :=
  let md := Modes.of q.arith (q.modf 26 2)
  match out.fmt with
  | .mxe4m3 | .mxe5m2 | .mxint8 => { md with dflt := md.rm }
  | _ => md

/-- The checks of a drain in the order of R409. -/
def drainCheck (s : State) (q : QOp) : Except (Byte × Nat) DrainJob := do
  need (lineBytes q.desc0 0 0 = 0x0D) 0x1F
  let c := drainCfg q
  let raw := c.mode = 1
  let obs := !raw && (c.amax || c.rsq || c.csq || c.topk)
  need (descOk c.out && (c.src ≠ 1 || descOk c.srcD) && (c.mode ≠ 2 || descOk c.idxD)
    && (raw || c.scl = 0 || descOk c.sclD) && (raw || c.bias = 0 || descOk c.biasD)
    && (!obs || lineBytes c.obsD 0 0 = 1)) 0x1F
  let tl := (s.ctx q.lspn q.ctx).tile q.form.tile.toNat
  need (c.src = 1 || tl.st = .opened) 0x16
  need ((c.src ≠ 1 || (tensorRaw c.srcD).kindOk) && (c.mode ≠ 2 || (tensorRaw c.idxD).kindOk)
    && (raw || c.scl = 0 || (tensorRaw c.sclD).kindOk) && (raw || c.bias = 0 || (tensorRaw c.biasD).kindOk)) 0x18
  let st := tensorRaw c.srcD
  let rows := if c.src = 1 then st.rows else tl.rows
  let cols := if c.src = 1 then st.rowLen else tl.cols
  let fmt := if c.src = 1 then .af32 else tl.fmt
  let log := fmt = .al32
  let out := tensorRaw c.out
  let served (k : Nat) : Nat := if k = 1 then rows else cols
  need (c.src ≤ 1 && c.scl ≤ 2 && c.bias ≤ 2 && c.act ≤ 5 && c.mode ≤ 2 && c.after ≤ 2 && fmtOk c.out
    && (c.src ≠ 1 || (fmtOk c.srcD && st.fmt = .aw64 && rows ≤ 4096 && cols ≤ 1024))
    && (if raw then out.fmt = (match fmt with
          | .af32 => Fmt.aw64
          | .al32 => Fmt.al32
          | .ai32 => Fmt.ai32)
        else if c.mode = 2 then out.fmt = .fp32 else drainOutOk out)
    && (raw || c.scl = 0 || (vecFmtOk c.sclD && served c.scl ≤ (tensorRaw c.sclD).count))
    && (raw || c.bias = 0 || (vecFmtOk c.biasD && served (3 - c.bias) ≤ (tensorRaw c.biasD).count))
    && (c.mode = 2 || rows ≤ out.rows) && cols ≤ out.rowLen
    && (c.mode ≠ 2 || (fmtOk c.idxD && (tensorRaw c.idxD).fmt = .u32 && rows ≤ (tensorRaw c.idxD).count))
    && (raw || !log || c.act = 0 || c.act = 5)
    && (raw || !(log || c.act = 5) || !(c.rsq || c.csq))) 0x17
  need (outOk q.qz out) 0x18
  s.segsOk q
    ((if c.src = 1 then st.segs rows cols .read else tl.bufSegs)
      ++ (if raw || c.scl = 0 then [] else (tensorRaw c.sclD).flatSegs (served c.scl) .read)
      ++ (if raw || c.bias = 0 then [] else (tensorRaw c.biasD).flatSegs (served (3 - c.bias)) .read)
      ++ (if c.mode = 2 then (tensorRaw c.idxD).flatSegs rows .read else [])
      ++ (if obs then obsSegs c rows cols else [])
      ++ (if c.mode = 2 then [] else out.segs rows cols .write ++ outputSegs out rows))
  let o ← outCfg (s.rd q) out (drainModes q out) false q.qz (s.seedOf q) q.step.toNat
  return ⟨c, rows, cols, log, fmt, o⟩

/-- Rounds a linear drain value to nearest even at 53 bits (R215). -/
def r53 (x : Lin) : Lin := x.roundSig 53 .rne

/-- Stage 2: the scale (R216). -/
def drainScale (v sc : Val) : Val :=
  match v with
  | .lin x => .lin (match x, (match sc with
      | .lin y => y
      | .log g => logLin76 g) with
    | a, b => r53 (a.mul b))
  | .log g =>
    .log (match g, sc.toLog with
      | .nan, _ => .nan
      | _, .nan => .nan
      | .zero, _ => .zero
      | _, .zero => .zero
      | .num n l, .num k m => .num (xor n k) (l + m))

/-- Stage 3: the bias (R217); `d` is the draw of the log-sum addition. -/
def drainBias (v b : Val) (d : Nat) : Val × Flags :=
  match v with
  | .lin x => (.lin (r53 (x.add (match b with
      | .lin y => y
      | .log g => logLin76 g))), .no)
  | .log g =>
    let r := logAdd (fun _ _ _ => d) false ⟨0, 0, .no⟩ g b.toLog
    (.log r.1, r.2.flags)

/-- Stage 4: the activation (R218). A NaN stays NaN; after exp it is the NaN of a log drain value. -/
def drainAct (act : Nat) (v : Val) : Val :=
  if v.isNan then (if act = 5 then .log .nan else v)
  else match act, v with
    | 1, .lin x => .lin (if x.sint ≤ 0 then .zero else x)
    | 2, .lin x => .lin (r53 (geluLin x))
    | 3, .lin x => .lin (r53 (x.mul (sigmoidLin x)))
    | 4, .lin x => .lin (sigmoidLin x)
    | 5, w => .log (match expLog w 0 23 with
        | some y => .num false y
        | none => .nan)
    | _, w => w

/-- Stage 1 to 4 for one element; `raw` stops after stage 1. -/
def drainValue (j : DrainJob) (a : Acc) (sc bi : Option Val) (d : Nat) : Val × Flags :=
  let v : Val := match a with
    | .af x => .lin x
    | .al g => .log g
    | .ai z => .lin (.ofInt z.toInt 0)
  if j.c.mode = 1 then (v, .no)
  else
    let v := match sc with
      | some y => drainScale v y
      | none => v
    let w := match bi with
      | some y => drainBias v y d
      | none => (v, .no)
    (drainAct j.c.act w.1, w.2)

/-- A stored binary64 number of the observer record, as the Run sees it, with INVALID where it is an infinity (R36). -/
def Run.f64At (x : Run) (rd : Nat → Byte) (a : Nat) : Lin × Flags :=
  decode64 (leNat ((List.range 8).map fun i => x.see rd (a + i)))

/-- A little-endian number as the Run sees it. -/
def Run.natAt (x : Run) (rd : Nat → Byte) (a n : Nat) : Nat := leNat ((List.range n).map fun i => x.see rd (a + i))

/-- The sum of the squares of a list in binary64 under ARITH_CTL.INF, NaN left out (R223). -/
def sumSquares (inf : Bool) (vs : List Val) : Sum64 :=
  vs.foldl (fun a v => match v with
    | .lin x => if x.isNan then a else a.plus inf (x.mul x)
    | .log _ => a) {}

/-- A sum of squares as the record takes it (R222, R223): under OBS_ACC the new sum is added to the stored one. Its code, and the
flags of decoding, adding and writing (R36, R51, R52, R60). -/
def sumCode (inf : Bool) (new : Sum64) (old : Option (Lin × Flags)) : Nat × Flags :=
  let t : Sum64 := match old with
    | some o => { new.plus inf o.1 with f := (new.plus inf o.1).f.or o.2 }
    | none => new
  ((encode64 inf t.v).1, if t.v.isNan then .invalid else t.flags)

/-- Stage 5: the observers (R222, R223) over the rows of values. DESIGN CHOICE (log entry 124): an index of a candidate beyond 24 bits
wraps modulo 2^24. -/
def drainObserve (x : Run) (rd : Nat → Byte) (j : DrainJob) (vals : List (List Val)) : Run :=
  let c := j.c
  let b := (tensorRaw c.obsD).base
  let all := vals.flatten
  let x := if c.amax then
      let m := (match maxMag all with
        | some v => amaxCode v
        | none => 0)
      let n := (all.filter Val.isNan).length
      let n := min (2 ^ 32 - 1) (if c.acc then n + x.natAt rd (b + 4) 4 else n)
      let x := if c.acc then { x with atoms := x.atoms ++ [⟨.fmax, b, m⟩] } else x.putNat b 4 m
      (x.putNat (b + 4) 4 n).putNat (b + 8) 8 0
    else x
  let inf := j.o.md.inf
  let sums (x : Run) (at0 : Nat) (ls : List (List Val)) : Run :=
    ls.zipIdx.foldl (fun x p =>
      let v := sumCode inf (sumSquares inf p.1) (if c.acc then some (x.f64At rd (at0 + 8 * p.2)) else none)
      (x.putNat (at0 + 8 * p.2) 8 v.1).flag v.2) x
  let x := if c.rsq then sums x (b + 16) vals else x
  let x := if c.csq then sums x (b + 16 + 8 * j.rows)
      ((List.range j.cols).map fun n => vals.filterMap fun r => r[n]?) else x
  if c.topk then
    let log := j.log || c.act = 5
    let t0 := b + 16 + 8 * j.rows + 8 * j.cols
    vals.zipIdx.foldl (fun x p =>
      let new := p.1.zipIdx.map fun e => (⟨(c.tbase + e.2) % 2 ^ 24, candCode e.1, false⟩ : Cand)
      let a := t0 + 8 * c.k * p.2
      let old := if c.acc then
          (List.range c.k).map fun i => Cand.ofWord log (x.natAt rd (a + 8 * i) 8)
        else []
      (Cand.top log c.k (old ++ new)).zipIdx.foldl (fun x e => x.putNat (a + 8 * e.2) 8 e.1.word)
        (x.flag (Cand.infinities log old))) x
  else x

/-- Stage 6 in scatter mode (R224): rows in order; a row index beyond the target notes SCATTER_IDX, a row whose
staging page is no writable HBM page ends the operation with PAGE_FAULT. DESIGN CHOICE: the adds stand in the job's own list, in no byte
of HBM, and the target row's pages stand for the staging's (log entry 125). -/
def drainScatter (s : State) (q : QOp) (j : DrainJob) (rn : Nat → Nat → Rnd) :
    List (List Val × Nat) → Run → Run
  | [], x => x
  | (vs, i) :: r, x =>
    let out := tensorRaw j.c.out
    let idx := (tensorRaw j.c.idxD).code (s.rd q) (i / (tensorRaw j.c.idxD).rowLen) (i % (tensorRaw j.c.idxD).rowLen)
    if idx = 0xFFFFFFFF then drainScatter s q j rn r x
    else if out.rows ≤ idx then drainScatter s q j rn r (x.note 0x30 0)
    else
      let bad := (out.rowSegs idx j.cols .atomic).findSome? (s.checkSeg q.lspn q.ctx)
      let inHbm (c : Nat) : Bool := match s.locate q.lspn q.ctx (out.pos idx c).1 with
        | some p => p.tier = 1
        | none => false
      match bad with
      | some e => { x with code := e.1, addr := e.2 }
      | none =>
        if (List.range j.cols).any fun c => !inHbm c then { x with code := 0x56, addr := (out.pos idx 0).1 }
        else
          let x := vs.zipIdx.foldl (fun x p =>
            let e := encodeElem .fp32 j.o.md false p.1 (rn i p.2)
            let a := out.pos idx p.2
            match s.locate q.lspn q.ctx (a.1 + 4 * a.2) with
            | some k => { (x.flag e.2) with stages := x.stages ++ [⟨k.key, BitVec.ofNat 32 e.1, idx, out.base⟩] }
            | none => x) x
          drainScatter s q j rn r x

/-- The tile after the drain has read it (R221). -/
def drainAfter (s : State) (q : QOp) (after : Nat) : State :=
  let x := s.ctx q.lspn q.ctx
  let tn := q.form.tile.toNat
  let tl := x.tile tn
  let tl := { tl with drains := tl.drains + 1 }
  match after with
  | 1 =>
    let s := if tl.interval = 0 then s
      else (List.range (tl.rows * tl.cols)).foldl (fun s i => s.devSet q.lspn q.ctx (tl.bufAddr 0 0 + 8 * i) 8 0) s
    s.setCtx q.lspn q.ctx (x.setTile tn { tl with elems := [], groups := 0 })
  | 2 => s.setCtx q.lspn q.ctx (x.setTile tn { tl with st := .draining })
  | _ => s.setCtx q.lspn q.ctx (x.setTile tn tl)

/-- Element (i, n) of the drain's source (R215), with INVALID where it is an infinity (R36). -/
def drainElem (s : State) (q : QOp) (j : DrainJob) (i n : Nat) : Acc × Flags :=
  let tl := (s.ctx q.lspn q.ctx).tile q.form.tile.toNat
  if j.c.src = 1 then
    let d := decode64 ((tensorRaw j.c.srcD).code (s.rd q) i n)
    (.af d.1, d.2)
  else if tl.interval ≠ 0 then
    let d := s.readF64 q.lspn q.ctx (tl.bufAddr i n)
    (.af d.1, d.2)
  else (tl.elem i n, .no)

/-- The elements of the drain's source in rows (R215). -/
def drainSource (s : State) (q : QOp) (j : DrainJob) : List (List (Acc × Flags)) :=
  (List.range j.rows).map fun i => (List.range j.cols).map fun n => drainElem s q j i n

/-- ACC.DRAIN (R212). -/
def runDrain (s : State) (q : QOp) : State × Run :=
  match drainCheck s q with
  | .error e => (s, Run.fail e.1 e.2)
  | .ok j =>
    let tn := q.form.tile.toNat
    let tl0 := (s.ctx q.lspn q.ctx).tile tn
    let sp := if j.c.src = 0 ∧ tl0.interval ≠ 0 then s.spill q.lspn q.ctx tn (q.arith.toNat.testBit 4) else (s, .no)
    let s := sp.1
    let tl := (s.ctx q.lspn q.ctx).tile tn
    let subn := q.arith.toNat.testBit 3
    let raw := j.c.mode = 1
    let vec (on : Bool) (d : Line) (n : Nat) : RowRead :=
      if on then (tensorRaw d).readFlat (s.rd q) subn n else ⟨[], .no, 0, 0, []⟩
    let sc := vec (!raw && j.c.scl ≠ 0) j.c.sclD (if j.c.scl = 1 then j.rows else j.cols)
    let bi := vec (!raw && j.c.bias ≠ 0) j.c.biasD (if j.c.bias = 2 then j.rows else j.cols)
    let x0 : Run := ((({} : Run).take sc).take bi).flag sp.2
    let seed := s.seedOf q
    let key (i n : Nat) : AddKey := ⟨seed, q.step.toNat, q.lspn, tn, i, n⟩
    let src := drainSource s q j
    let x0 := src.foldl (fun x r => r.foldl (fun (x : Run) e => x.flag e.2) x) x0
    let vals := src.zipIdx.map fun row => row.1.zipIdx.map fun e =>
      drainValue j e.1.1 (sc.els[if j.c.scl = 1 then row.2 else e.2]?.map El.val)
        (bi.els[if j.c.bias = 2 then row.2 else e.2]?.map El.val)
        ((key row.2 e.2).drawAl false (tl.addCount row.2 e.2).1 (tl.addCount row.2 e.2).2)
    let x1 := vals.foldl (fun x r => r.foldl (fun (x : Run) v => x.flag v.2) x) x0
    let vs := vals.map fun r => r.map (·.1)
    let x2 := if raw then x1 else drainObserve x1 (s.rd q) j vs
    let low := if j.c.src = 1 then 2 ^ 35 + q.ord % 2 ^ 35 else tl.drains % 2 ^ 35
    let rn (i n : Nat) : Rnd := j.o.md.rm.at fun _ =>
      draw16 seed 0xE2 q.step.toNat (elemTile q.lspn tn i n low)
    let x3 := if j.c.mode = 2 then drainScatter s q j rn vs.zipIdx x2
      else vs.zipIdx.foldl (fun x r => writeRow x (s.rd q) (tensorRaw j.c.out) j.o r.2 r.1 (rn r.2)) x2
    (if j.c.src = 1 then s else drainAfter s q j.c.after, x3)

end Sys2Proof.Machine
end

