-- ==== Sys2Proof/Machine/Sha.lean ====
section
/-! DEFINITION. SHA-512, HMAC-SHA-512 and the check of an RSASSA-PSS signature (R557, R561, R567): the algorithms
that the spec names. -/

namespace Sys2Proof.Machine

/-- The integer part of the n-th root: the largest r below 2^bits with r ^ n ≤ v. -/
def rootFloor (n v : Nat) : Nat → Nat → Nat
  | 0, r => r
  | b + 1, r => if (r + 2 ^ b) ^ n ≤ v then rootFloor n v b (r + 2 ^ b) else rootFloor n v b r

/-- The primes that SHA-512 takes its constants from: the first 80. -/
def shaPrimes : List Nat := ((List.range 410).filter fun n => 2 ≤ n && (List.range 20).all fun d =>
  d < 2 || n ≤ d || n % d ≠ 0).take 80

/-- The first 64 bits of the fractional part of the cube root of p. -/
def shaK (p : Nat) : Word := BitVec.ofNat 64 (rootFloor 3 (p * 2 ^ 192) 68 0)

/-- The first 64 bits of the fractional part of the square root of p. -/
def shaH (p : Nat) : Word := BitVec.ofNat 64 (rootFloor 2 (p * 2 ^ 128) 69 0)

/-- The big-endian number that bytes spell. -/
def beNat (bs : List Byte) : Nat := bs.foldl (fun n b => n * 256 + b.toNat) 0

/-- `n` bytes of a number, big-endian. -/
def beBytes (n v : Nat) : List Byte := (leBytes n v).reverse

/-- The next word of the message schedule from the last sixteen, newest first. -/
def shaNext (ws : List Word) : Word :=
  let w (i : Nat) : Word := ws.getD (i - 1) 0
  let s0 (x : Word) : Word := x.rotateRight 1 ^^^ x.rotateRight 8 ^^^ (x >>> 7)
  let s1 (x : Word) : Word := x.rotateRight 19 ^^^ x.rotateRight 61 ^^^ (x >>> 6)
  s1 (w 2) + w 7 + s0 (w 15) + w 16

/-- The message schedule, oldest first: `n` more words after those given newest first. -/
def shaSchedule : Nat → List Word → List Word
  | 0, ws => ws.reverse
  | n + 1, ws => shaSchedule n (shaNext ws :: ws)

/-- One round on the eight working words. -/
def shaRound (v : List Word) (kw : Word × Word) : List Word :=
  match v with
  | [a, b, c, d, e, f, g, h] =>
    let t1 := h + (e.rotateRight 14 ^^^ e.rotateRight 18 ^^^ e.rotateRight 41) + ((e &&& f) ^^^ (~~~e &&& g)) + kw.1 + kw.2
    let t2 := (a.rotateRight 28 ^^^ a.rotateRight 34 ^^^ a.rotateRight 39) + ((a &&& b) ^^^ (a &&& c) ^^^ (b &&& c))
    [t1 + t2, a, b, c, d + t1, e, f, g]
  | v => v

/-- The compression of one 128-byte block. -/
def shaBlock (ks : List Word) (h : List Word) (blk : List Byte) : List Word :=
  let ws := (List.range 16).map fun i => BitVec.ofNat 64 (beNat ((blk.drop (8 * i)).take 8))
  let v := (ks.zip (shaSchedule 64 ws.reverse)).foldl shaRound h
  (h.zip v).map fun p => p.1 + p.2

/-- All blocks in order. -/
def shaBlocks (ks : List Word) : Nat → List Byte → List Word → List Word
  | 0, _, h => h
  | n + 1, bs, h => shaBlocks ks n (bs.drop 128) (shaBlock ks h (bs.take 128))

/-- SHA-512 as 64 bytes. -/
def sha512 (bs : List Byte) : List Byte :=
  let n := bs.length
  let pad := bs ++ [0x80] ++ List.replicate ((239 - n % 128) % 128) 0 ++ beBytes 16 (8 * n)
  (shaBlocks (shaPrimes.map shaK) (pad.length / 128) pad ((shaPrimes.take 8).map shaH)).flatMap fun w => beBytes 8 w.toNat

/-- HMAC-SHA-512 with a key of at most 128 bytes. -/
def hmac512 (key msg : List Byte) : List Byte :=
  let k := key ++ List.replicate (128 - key.length) 0
  sha512 (k.map (· ^^^ 0x5C) ++ sha512 (k.map (· ^^^ 0x36) ++ msg))

/-- Modular power with an exponent given by its bits, most significant first. -/
def powMod (m b : Nat) : List Bool → Nat → Nat
  | [], acc => acc % m
  | x :: r, acc => powMod m b r ((if x then acc * acc % m * b else acc * acc) % m)

/-- The public operation with the exponent 65,537 (R555). -/
def rsaPublic (m x : Nat) : Nat := powMod m x (true :: (List.replicate 15 false ++ [true])) 1

/-- The bits of a number below 2^`n`, most significant first. -/
def bitsDown (v n : Nat) : List Bool := ((List.range n).map v.testBit).reverse

/-- The extended Euclidean algorithm on `a` and `b` with their coefficients `x` and `y`: the coefficient of the last remainder. -/
def euclid : Nat → Nat → Nat → Int → Int → Int
  | 0, _, _, x, _ => x
  | n + 1, a, b, x, y => if b = 0 then x else euclid n b (a % b) y (x - (a / b : Nat) * y)

/-- The inverse of `a` modulo `m`, where they have one. -/
def invMod (a m : Nat) : Nat := (euclid 4096 m (a % m) 0 1 % (m : Int)).toNat

/-- ID_PRIV for the primes p and q: p, q, d mod (p − 1), d mod (q − 1) and q^−1 mod p, 256 bytes each, for the exponent 65,537 (R555). -/
def privBytes (p q : Nat) : List Byte :=
  [p, q, invMod 65537 (p - 1), invMod 65537 (q - 1), invMod q p].flatMap (leBytes 256)

/-- The private operation with the fields of ID_PRIV, by the Chinese remainder theorem (R555, R564). -/
def rsaPrivate (priv : List Byte) (x : Nat) : Nat :=
  let f (i : Nat) : Nat := leNat ((priv.drop (256 * i)).take 256)
  let p := f 0
  let q := f 1
  let a := powMod p x (bitsDown (f 2) 2048) 1
  let b := powMod q x (bitsDown (f 3) 2048) 1
  b + f 4 * (a + p - b % p) % p * q

/-- MGF1 with SHA-512. -/
def mgf1 (seed : List Byte) (n : Nat) : List Byte :=
  ((List.range ((n + 63) / 64)).flatMap fun i => sha512 (seed ++ beBytes 4 i)).take n

/-- Checks an RSASSA-PSS signature with SHA-512, MGF1 and a salt of 64 bytes under a 4,096-bit modulus (R557). -/
def pssVerify (modulus sig : Nat) (msg : List Byte) : Bool :=
  let em := beBytes 512 (rsaPublic modulus sig)
  let masked := em.take 447
  let h := (em.drop 447).take 64
  let db := (masked.zip (mgf1 h 447)).map fun p => p.1 ^^^ p.2
  let db := match db with
    | b :: r => (b &&& 0x7F) :: r
    | [] => []
  decide (sig < modulus) && em.getD 511 0 = 0xBC && !(em.getD 0 0).toNat.testBit 7
    && db.take 383 = List.replicate 382 0 ++ [1]
    && sha512 (List.replicate 8 0 ++ sha512 msg ++ db.drop 383) = h

/-- The DigestInfo of SHA-512 in RSASSA-PKCS1-v1_5, the scheme that TPM_ALG_RSASSA names (R564; log entry 56). -/
def digestInfo : List Byte :=
  [0x30, 0x51, 0x30, 0x0d, 0x06, 0x09, 0x60, 0x86, 0x48, 0x01, 0x65, 0x03, 0x04, 0x02, 0x03, 0x05, 0x00, 0x04, 0x40]

/-- The padded message that an RSASSA signature with a 4,096-bit key holds (R564). -/
def rsassaEncode (msg : List Byte) : Nat :=
  beNat ([0x00, 0x01] ++ List.replicate 426 0xFF ++ [0x00] ++ digestInfo ++ sha512 msg)

end Sys2Proof.Machine
end

