-- ==== Sys2Proof/Machine/Ops.lean ====
section
/-! DEFINITION. The named operations that the commands share: barograph records (R544 to R549), writes of the
persistent bank (R551 to R556), contexts and jobs, knots (R380 to R383), queues (R115), controller faults (R388 to
R390), and the ends of jobs (R511 to R515). -/

namespace Sys2Proof.Machine

/-- The module has reached ready and takes commands (R581). -/
def State.on (s : State) : Bool := decide (s.power.phase = .ready)

/-- Command core 0, the only one that writes the bank and the barograph, is alive (R121, R123). -/
def State.core0 (s : State) : Bool := s.mill.cores.toNat.testBit 0

/-- Takes `n` free values (log entry 3). -/
def State.skipFree (s : State) (n : Nat) : State := { s with free := s.free + n }

/-- A draw of the hub's entropy source (R562). -/
def State.draw (s : State) : BitVec 512 × State :=
  (Config.entropy s.sec.draws, { s with sec := { s.sec with draws := s.sec.draws + 1 } })

/-- The bytes at a key. -/
def State.bytesAt (s : State) (key n : Nat) : List Byte := Mem.bytes s.mem key n

/-- The little-endian number at a key. -/
def State.natAt (s : State) (key n : Nat) : Nat := Mem.nat s.mem key n

/-- Writes bytes at a key; a unit written whole loses its poison (R453). -/
def State.putAt (s : State) (key : Nat) (bs : List Byte) : State :=
  { s with mem := Mem.setBytes s.mem key bs, poison := s.healedAt key bs.length }

/-! ### Host functions (R491) -/

/-- A host function. -/
def State.fn (s : State) (f : Nat) : Fn := s.host.fns.get f {}

/-- The state with a host function replaced. -/
def State.setFn (s : State) (f : Nat) (x : Fn) : State :=
  { s with host := { s.host with fns := s.host.fns.set f x {} } }

/-- A function that is there: the physical one, or a virtual one that the host has enabled (R491). -/
def State.fnThere (s : State) (f : Nat) : Bool := decide (f ≤ s.host.vfs)

/-- The mask bit of a vector of a function's MSI-X table (log entry 6). -/
def Fn.masked (x : Fn) (v : Nat) : Bool := (x.msix.get v 0).toNat.testBit 96

/-- Sends an MSI-X message, or marks a masked vector pending (R491, R514). -/
def State.interrupt (s : State) (f v : Nat) : State :=
  let x := s.fn f
  if x.masked v then s.setFn f { x with pba := x.pba ||| (1#64 <<< v) } else s.emit (.msix f v)

/-! ### Wear (R15, R554) -/

/-- The writes counted against a word of the bank. -/
def State.wearOf (s : State) (w : Nat) : Nat := s.wear.get w 0

/-- The word is at its endurance and read-only. -/
def State.worn (s : State) (w : Nat) : Bool := decide (endurance (bankRegion (8 * w)) ≤ s.wearOf w)

/-- Counts a write of a word. -/
def State.wearOne (s : State) (w : Nat) : State := { s with wear := s.wear.set w (s.wearOf w + 1) 0 }

/-! ### Barograph records (R544 to R547) -/

/-- The kinds of a locator word (R545). -/
inductive LocKind where
  | site | spindle | link | lane | address | page | slot | bankPage | coord | session | core | client | none
  deriving DecidableEq, Repr, Inhabited

/-- KIND of a locator word (R545). -/
def LocKind.code : LocKind → Nat
  | .site => 0
  | .spindle => 1
  | .link => 2
  | .lane => 3
  | .address => 4
  | .page => 5
  | .slot => 6
  | .bankPage => 7
  | .coord => 8
  | .session => 9
  | .core => 10
  | .client => 11
  | .none => 15

/-- A locator word (R545). -/
def locW (k : LocKind) (v : Nat) : Word := BitVec.ofNat 64 (k.code * 2 ^ 60 + v % 2 ^ 57)

/-- The locator word of nothing, KIND 15 (R545). -/
def noLoc : Word := locW .none 0

/-- A code word (R545). -/
def codeW (code n detail : Nat) : Word := BitVec.ofNat 64 (code % 256 * 2 ^ 56 + n % 256 * 2 ^ 48 + detail % 2 ^ 48)

/-- The number of the step a job is in (R355): a job that does not commit in steps stays at its first one. -/
def Job.step (b : Job) : Nat := b.firstStep.toNat + b.committed

/-- A job word (R545). -/
def jobW (b : Job) : Word :=
  BitVec.ofNat 64 (b.jslot % 256 * 2 ^ 56 + b.client % 256 * 2 ^ 48 + b.step % 2 ^ 48)

/-- The words of a record: header, SEQ, body (R544). -/
def Rec.words (r : Rec) : List Word :=
  BitVec.ofNat 64 (r.time.toNat * 2 ^ 16 + r.type * 2 ^ 10 + r.sev * 2 ^ 8 + (r.body.length + 2)) :: r.seq :: r.body

/-- The words that records take in a ring. -/
def ringWords (rs : List Rec) : Nat := (rs.map fun r => r.body.length + 2).sum

/-- A ring whose oldest records are overwritten until the rest fits in `cap` words (R547). -/
def ringTrim (cap : Nat) : List Rec → List Rec
  | [] => []
  | r :: rs => if ringWords (r :: rs) ≤ cap then r :: rs else ringTrim cap rs

/-- Writes a word of the persistent ring, `at_` words behind its next one, into the bank (R550, R554). DESIGN CHOICE (log entry 107): a
word of the ring itself at its limit keeps its value and gets no PB_WEAR record of its own (R15), which would go to the same ring. -/
def State.ringWord (s : State) (at_ : Nat) (v : Word) : State :=
  let w := baroBase / 8 + (s.baro.pos + at_) % (32 * s.baro.size.toNat)
  if s.worn w then s else { s.wearOne w with mem := Mem.setNat s.mem (keyOf 6 (8 * w)) 8 v.toNat }

/-- Writes the words of a record to the persistent ring, the body first and the header last (R547). -/
def State.ringRec (s : State) (ws : List Word) : State :=
  let order := match ws.zipIdx with
    | [] => []
    | h :: r => r ++ [h]
  let t := order.foldl (fun t p => t.ringWord p.2 p.1) s
  { t with baro := { t.baro with pos := (s.baro.pos + ws.length) % (32 * s.baro.size.toNat) } }

/-- Writes a record without the verification of its words: to the persistent ring and the extension, or to the extension only (R546,
R547). Core 0 alone writes records (R121). -/
def State.baroPut (s : State) (type sev : Nat) (persist : Bool) (body : List Word) : State :=
  if !s.core0 then s
  else
    let r : Rec := { seq := s.baro.next, time := BitVec.ofNat 48 (s.ns / 2 ^ 10), type := type, sev := sev, body := body }
    let x := ringTrim (2 ^ 23) (s.baro.xring ++ [r])
    let s := { s with baro := { s.baro with next := s.baro.next + 1, xring := x } }
    if persist then
      let s := s.ringRec r.words
      { s with baro := { s.baro with pring := ringTrim (32 * s.baro.size.toNat) (s.baro.pring ++ [r]) } }
    else s

/-- A free word of the repair list (R552). -/
def State.repairFree (s : State) : Option Nat :=
  ((List.range 1883).find? fun i => leNat (s.bytesAt (keyOf 6 (repairBase + 8 * i)) 8) = 0).map fun i => repairBase + 8 * i

/-- A page of the persistent bank whose write fails to verify is retired: the ring gives up its last page, whose place the
page takes with its contents and counters, an identity page with those of the HD1 mirror, and the remap is recorded (R541, R542, R547,
R554). -/
def State.pageRetire (s : State) (page : Nat) : State :=
  if s.baro.size.toNat ≤ 1 then s
  else
    let n := s.baro.size - 1
    let s := { s with weak := s.weak.filter fun w => w / 32 ≠ page, baro := { s.baro with
      size := n, pos := s.baro.pos % (32 * n.toNat), pring := ringTrim (32 * n.toNat) s.baro.pring } }
    let s := if page < 16 then { s with mem := Mem.setBytes s.mem (keyOf 6 (256 * page)) (s.bytesAt (keyOf 7 (256 * page)) 256) } else s
    let s := match s.repairFree with
      | some off => if s.worn (off / 8) then s else
          { s.wearOne (off / 8) with mem := Mem.setNat s.mem (keyOf 6 off) 8 (locW .bankPage page).toNat }
      | none => { s with mill := { s.mill with degraded := true } }
    s.baroPut 0x06 3 true [locW .bankPage page, codeW 0 0 0]

/-- The verification of a word of the bank by read-back: its page is retired where it fails, and the word written on the new page
(R542, R551). -/
def State.verify (s : State) (w v : Nat) : State :=
  if w ∈ s.weak then
    let t := s.pageRetire (w / 32)
    { t with mem := Mem.setNat t.mem (keyOf 6 (8 * w)) 8 v }
  else s

/-- Writes a record, and verifies the words of the bank that it takes (R546, R547, R551). -/
def State.baroWrite (s : State) (type sev : Nat) (persist : Bool) (body : List Word) : State :=
  let t := s.baroPut type sev persist body
  if persist && s.core0 then
    (s.weak.filter fun w => (List.range (body.length + 2)).any fun i =>
      w = baroBase / 8 + (s.baro.pos + i) % (32 * s.baro.size.toNat)).foldl (fun t w => t.pageRetire (w / 32)) t
  else t

/-- The time of the module in barograph units (R544). -/
def State.baroTime (s : State) : Nat := s.ns / 2 ^ 10 % 2 ^ 48

/-! ### The persistent bank (R551 to R556) -/

/-- The number at bank bytes. -/
def State.bank (s : State) (off n : Nat) : Nat := s.natAt (keyOf 6 off) n

/-- Writes one word of the bank and verifies it (R15, R551, R554). -/
def State.bankWord (s : State) (off v : Nat) : State :=
  let w := off / 8
  if !s.core0 then s
  else if s.worn w then s.baroWrite 0x0D 1 true [locW .bankPage (off / 256), codeW 0 0 (8 * w)]
  else ({ s.wearOne w with mem := Mem.setNat s.mem (keyOf 6 (8 * w)) 8 v } : State).verify w v

/-- Writes bytes of the bank as whole words; bytes outside keep their values. -/
def State.bankBytes (s : State) (off : Nat) (bs : List Byte) : State :=
  let w0 := off / 8
  let n := (off + bs.length + 7) / 8 - w0
  let old := s.bytesAt (keyOf 6 (8 * w0)) (8 * n)
  let new := old.take (off % 8) ++ bs ++ old.drop (off % 8 + bs.length)
  (List.range n).foldl (fun t i => t.bankWord (8 * (w0 + i)) (leNat ((new.drop (8 * i)).take 8))) s

/-- Writes bytes of the identity region; where a page was retired on the way, which took the mirror's contents, they are written again
(R542, R551). -/
def State.idBytes (s : State) (off : Nat) (bs : List Byte) : State :=
  let t := s.bankBytes off bs
  if t.weak = s.weak then t else t.bankBytes off bs

/-- Writes bytes of the identity region, then its DIGEST, then the mirror (R555, R556). -/
def State.identityBytes (s : State) (off : Nat) (bs : List Byte) : State :=
  if !s.core0 then s
  else
    let s := s.idBytes off bs
    let s := s.idBytes 1880 (sha512 (s.bytesAt (keyOf 6 0) 1880))
    s.putAt (keyOf 7 0) (s.bytesAt (keyOf 6 0) 4096)

/-- Word n of WPREG (R553). -/
def State.wp (s : State) (n : Nat) : Word := BitVec.ofNat 64 (s.bank (wpBase + 8 * n) 8)

/-- Writes a WP register into word n of WPREG (R12, R553). -/
def State.setWp (s : State) (n : Nat) (v : Word) : State := s.bankWord (wpBase + 8 * n) v.toNat

/-- IDFLAGS.OWNED (R555). -/
def State.owned (s : State) : Bool := (s.bank 8 8).testBit 1
/-- IDFLAGS.PROV (R555). -/
def State.prov (s : State) : Bool := (s.bank 8 8).testBit 0
/-- IDFLAGS.REVOKE0 (R555). -/
def State.revoke0 (s : State) : Bool := (s.bank 8 8).testBit 2

/-- Writes a locator to the next free word of REPAIR, while there is one (R552). -/
def State.repairNote (s : State) (v : Word) : State :=
  match s.repairFree with
  | some off => s.bankWord off v.toNat
  | none => { s with mill := { s.mill with degraded := true } }

/-! ### Contexts, jobs and spindles -/

/-- The state with every listed context changed by `f`. -/
def State.mapCtxs (s : State) (f : Nat → Nat → Ctx → Ctx) : State :=
  { s with spindles := s.spindles.mapVals (fun l x => { x with ctxs := x.ctxs.mapVals (f l) {} }) {} }

/-- The state with every listed spindle changed by `f`. -/
def State.mapSpns (s : State) (f : Nat → Spindle → Spindle) : State :=
  { s with spindles := s.spindles.mapVals f {} }

/-- Whether a context belongs to a job. -/
def Ctx.of (x : Ctx) (j : Nat) : Bool := decide (x.status ≠ .free) && x.job = j

/-- The contexts of a job: spindle, number and context. -/
def State.ctxsOf (s : State) (j : Nat) : List (Nat × Nat × Ctx) :=
  s.spindles.flatMap fun p => (p.2.ctxs.filter fun q => q.2.of j).map fun q => (p.1, q.1, q.2)

/-- The spindles of a job's mask (R499). -/
def Job.lspnList (b : Job) : List Nat := (List.range 256).filter fun n => b.lspns.toNat.testBit n

namespace Spindle

/-- The queue of an engine. -/
def queue (x : Spindle) : Engine → List QOp
  | .array => x.arrayQ
  | .vector => x.vectorQ
  | .inReel => x.inQ
  | .outReel => x.outQ
  | .twist => x.twistQ

/-- The spindle with an engine's queue replaced. -/
def setQueue (x : Spindle) (e : Engine) (q : List QOp) : Spindle :=
  match e with
  | .array => { x with arrayQ := q }
  | .vector => { x with vectorQ := q }
  | .inReel => { x with inQ := q }
  | .outReel => { x with outQ := q }
  | .twist => { x with twistQ := q }

/-- The spindle with every queue changed by `f`. -/
def mapQueues (x : Spindle) (f : List QOp → List QOp) : Spindle :=
  { x with arrayQ := f x.arrayQ, vectorQ := f x.vectorQ, inQ := f x.inQ, outQ := f x.outQ, twistQ := f x.twistQ }

/-- Every queued operation. -/
def queued (x : Spindle) : List QOp := x.arrayQ ++ x.vectorQ ++ x.inQ ++ x.outQ ++ x.twistQ

/-- Whether an engine's queue takes `n` more entries of a context (R115): one entry is kept for each context without any. -/
def roomFor (x : Spindle) (e : Engine) (c n : Nat) : Bool :=
  let depth := match e with
    | .array | .vector => 16
    | .inReel | .outReel => 32
    | .twist => 8
  let q := x.queue e
  let others := (List.range 4).filter fun o => o ≠ c && !(q.any fun r => r.ctx = o)
  decide (q.length + others.length + n ≤ depth)

/-- Whether an engine has an entry free for a context (R115). -/
def room (x : Spindle) (e : Engine) (c : Nat) : Bool := x.roomFor e c 1

/-- Whether a context has an operation that has not signalled: started, or queued; UPD operations that wait
for the commit are left out (R383). -/
def busy (x : Spindle) (c : Nat) : Bool :=
  (x.running.any fun r => r.2.q.ctx = c) || (x.queued.any fun q => q.ctx = c && !q.aside)

end Spindle

/-- Whether a started operation of a job has not finished. -/
def State.started (s : State) (j : Nat) : Bool := s.spindles.any fun p => p.2.running.any fun r => r.2.q.job = j

/-- The state without the queued operations of a job. -/
def State.dropQueued (s : State) (j : Nat) : State :=
  s.mapSpns fun _ x => x.mapQueues (·.filter fun q => q.job ≠ j)

/-! ### Faults and their dispositions (R391) -/

/-- What the mill does with an engine fault (R391). -/
inductive Disp where
  | go | replayEnd | finish
  deriving DecidableEq, Repr, Inhabited

/-- The disposition of an engine fault code (R391). -/
def dispOf (code : Byte) : Disp :=
  if code.toNat < 0x40 then .go else if code.toNat < 0x50 then .replayEnd else .finish

/-! ### Knots (R380 to R383) -/

/-- A knot of a context; k0 is the null knot, always signalled with code 0 (R382). -/
def Ctx.knot (x : Ctx) (k : Nat) : Knot := if k = 0 then {} else x.knots.get k {}

/-- The context with a knot replaced; k0 stays (R382). -/
def Ctx.setKnot (x : Ctx) (k : Nat) (v : Knot) : Ctx := if k = 0 then x else { x with knots := x.knots.set k v {} }

/-- Captures a wait on a knot as it stands (R381). -/
def Ctx.capture (x : Ctx) (k : Nat) : Wait :=
  let v := x.knot k
  { knot := k, arm := v.arm, done := if v.pending then none else some v.code, bad := !v.pending && v.bad }

/-- Arms a knot (R380). -/
def Ctx.armKnot (x : Ctx) (k : Nat) : Ctx := x.setKnot k { x.knot k with pending := true, arm := (x.knot k).arm + 1 }

/-- A captured wait after a knot's arming is signalled (R381). -/
def Wait.resolve (w : Wait) (k arm : Nat) (code : Byte) (bad : Bool) : Wait :=
  if w.done = none ∧ w.knot = k ∧ w.arm = arm then { w with done := some code, bad := bad } else w

/-- Signals one arming of a knot: the knot, the waits of the context's queued operations and its joins. -/
def State.signalOne (s : State) (l c k arm : Nat) (code : Byte) (bad : Bool) : State :=
  let x := s.ctx l c
  let v := x.knot k
  let x := if v.pending && v.arm = arm then x.setKnot k { v with pending := false, code := code, bad := bad } else x
  let x := { x with joins := x.joins.map fun j => { j with waits := j.waits.map fun w => w.resolve k arm code bad } }
  let s := s.setCtx l c x
  s.setSpn l ((s.spn l).mapQueues fun q => q.map fun o =>
    if o.ctx = c then { o with wait := o.wait.resolve k arm code bad } else o)

/-- A join whose every wait is done (R383). -/
def Join.ready (j : Join) : Bool := j.waits.all fun w => w.done.isSome

/-- The code of a join: that of the lowest-numbered named knot with a non-zero code (R383). -/
def Join.code (j : Join) : Byte :=
  match (j.waits.filterMap (·.done)).find? fun c => c ≠ 0 with
  | some c => c
  | none => 0

/-- Signals the joins that are ready, oldest first; `n` bounds how many. -/
def State.settleJoins (s : State) (l c : Nat) : Nat → State
  | 0 => s
  | n + 1 =>
    match (s.ctx l c).joins.find? Join.ready with
    | none => s
    | some j =>
      let x := s.ctx l c
      let s := s.setCtx l c { x with joins := x.joins.erase j }
      (s.signalOne l c j.kout j.arm j.code (j.waits.any (·.bad))).settleJoins l c n

/-- Signals a knot and every join that follows from it (R380, R383). -/
def State.signalKnot (s : State) (l c k arm : Nat) (code : Byte) : State :=
  (s.signalOne l c k arm code (decide (dispOf code ≠ .go))).settleJoins l c (s.ctx l c).joins.length

/-- A captured wait that lets its operation start (R379, R391). -/
def Wait.open_ (w : Wait) : Bool := w.done.isSome && !w.bad

/-- Whether the job's flags, first code and counts take one continue-disposition fault (R50, R512). -/
def Job.countFault (b : Job) (code : Byte) : Job :=
  if code = 0 ∨ dispOf code ≠ .go then b
  else
    let n := code.toNat
    { b with
      first := if b.first = 0 then code else b.first
      fcounts := b.fcounts.set n (min (b.fcounts.get n 0 + 1) (2 ^ 32 - 1)) 0 }

/-- Counts a fault that does not only continue, for FMAP and the fault-count area (R512). -/
def Job.countAny (b : Job) (code : Byte) : Job :=
  if dispOf code = .go then b.countFault code
  else { b with fcounts := b.fcounts.set code.toNat (min (b.fcounts.get code.toNat 0 + 1) (2 ^ 32 - 1)) 0 }

/-! ### Ending jobs (R388, R391, R511 to R515) -/

/-- Stops every context of a job from issuing. -/
def State.stopCtxs (s : State) (j : Nat) : State :=
  s.mapCtxs fun _ _ x => if x.of j && x.status ≠ .ended then { x with status := .stopped } else x

/-- The mill has decided that a job ends with a status; the first decision stands. -/
def State.endJob (s : State) (j : Nat) (code : Byte) : State :=
  match s.job? j with
  | none => s
  | some b => if b.endWith.isSome then s else (s.setJob j { b with endWith := some code }).stopCtxs j

/-- The map of the fault codes that occurred, bit c − 0x10 for code c (R512). -/
def Job.fmap (b : Job) : Word :=
  BitVec.ofNat 64 (((List.range 64).map fun i => if b.fcounts.get (i + 16) 0 = 0 then 0 else 2 ^ i).sum)

/-- The completion entry of a job that ends (R512). -/
def Job.compl (b : Job) (status : Byte) (aflags : BitVec 6) (xflags : BitVec 4) : Compl :=
  { client := b.client, kind := 1, status := status, tag := b.tag, ref := b.ref, steps := b.committed
    aflags := aflags, xflags := xflags, first := b.first
    flspn := if 1 ≤ status.toNat ∧ status.toNat ≤ 4 then b.flspn else 0
    fmap := b.fmap, fpc := if 1 ≤ status.toNat ∧ status.toNat ≤ 4 then b.fpc else 0
    irq := b.irq, vec := b.vec, flog := b.flog, counts := b.fcounts }

/-- Advances COMPLETED of a client (R494). -/
def State.countEnd (s : State) (client : Nat) : State :=
  let v := s.mill.cnt.get client 0
  let n := (v >>> 32 <<< 32) ||| ((v + 1) &&& 0xFFFFFFFF)
  { s with mill := { s.mill with cnt := s.mill.cnt.set client n 0 } }

/-- Advances SUBMITTED of a client (R494). -/
def State.countSubmit (s : State) (client : Nat) : State :=
  let v := s.mill.cnt.get client 0
  { s with mill := { s.mill with cnt := s.mill.cnt.set client (v + 0x100000000) 0 } }

/-- The bytes of a completion entry (R512). -/
def Compl.bytes (c : Compl) : List Byte :=
  [BitVec.ofNat 8 c.kind, c.status] ++ List.replicate 6 0 ++ leBytes 8 c.tag.toNat ++ leBytes 8 c.ref.toNat
    ++ leBytes 4 c.steps ++ [c.aflags.zeroExtend 8, c.xflags.zeroExtend 8, c.first, BitVec.ofNat 8 c.flspn]
    ++ leBytes 8 c.fmap.toNat ++ leBytes 8 c.fpc.toNat ++ List.replicate 16 0

/-- The coordinate that a client number of a remote module is bound to (R493, R552). -/
def State.binding (s : State) (client : Nat) : Option Coord :=
  let v := s.bank (bindBase + 8 * client) 8
  if 33 ≤ client ∧ client ≤ 255 ∧ v.testBit 63 then some (BitVec.ofNat 14 v) else none

/-- The key of an address in the space of a client's command ring (R495, R499); clients without a ring name host bus
addresses (log entry 19). -/
def State.clientKey (s : State) (client a : Nat) : Nat :=
  if client < 32 ∧ (s.host.fns.get client {}).live.rspace then keyOf 5 (client * 2 ^ 21 + a % 2 ^ 21) else keyOf 0 a

/-- The bytes of a fault-count area: 64 counts (R512). -/
def Compl.countBytes (c : Compl) : List Byte := (List.range 64).flatMap fun i => leBytes 4 (c.counts.get (i + 16) 0)

/-- Writes the fault counts of a completion, where it has an area for them (R512). -/
def State.writeCounts (s : State) (c : Compl) : State :=
  if c.flog = 0 then s else s.putAt (s.clientKey c.client c.flog) c.countBytes

/-- Hands a completion on: client 32's ring of 64, a packet to a remote client, or the host's rings (R493, R515,
R568). -/
def State.complete (s : State) (c : Compl) : State :=
  if c.client = 32 then
    let s := s.writeCounts c
    let r := s.mill.ring32 ++ [c.bytes]
    { s with mill := { s.mill with ring32 := r.drop (r.length - 64) } }
  else if 33 ≤ c.client then
    match s.binding c.client with
    | some d => ((s.writeCounts c).send { dst := d, tc := 1, type := 0, data := c.bytes }).emit (.remoteCompl d c.bytes)
    | none => s
  else { s with mill := { s.mill with held := s.mill.held ++ [c] } }

/-- The frames whose shuttle a job owns (R296). -/
def State.shuttleFrames (b : Job) : List Nat :=
  match b.pair with
  | some p => (List.range 32).filter fun f => p.smask.toNat.testBit f
  | none => []

/-- Takes a job's shuttles away (R296). -/
def State.closeShuttles (s : State) (b : Job) : State :=
  (State.shuttleFrames b).foldl (fun s f => s.setFrame f { s.frame f with shctl := 0 }) s

/-- Frees the creel slots that a job holds. -/
def State.freeSlots (s : State) (j : Nat) : State :=
  { s with frames := s.frames.mapVals (fun _ f => { f with owner := f.owner.mapVals (fun _ o => if o = j + 1 then 0 else o) 0 }) {} }

/-- Releases everything a job holds and forgets it (R515). -/
def State.releaseJob (s : State) (j : Nat) (b : Job) : State :=
  let s := s.dropQueued j
  let s := s.mapSpns fun _ x => { x with
    journal := x.journal.filter fun e => !((x.ctxs.get e.ctx {}).of j)
    ctxs := x.ctxs.mapVals (fun _ c => if c.of j then { cfault := c.cfault, cfinst := c.cfinst } else c) {} }
  let s := if b.st = .waiting then s else (s.closeShuttles b).freeSlots j
  let m := s.mill
  { s with mill := { m with
      jobs := m.jobs.drop j, critQ := m.critQ.filter (· ≠ j), fillQ := m.fillQ.filter (· ≠ j)
      twins := m.twins.filter fun t => t.job ≠ j } }

/-- The flags that a job's completion reports: the OR of the flag registers of its contexts (R50, R254, R332, R512), those of the
collective combines (log entry 118), and both flags of the quantiser where scale trouble was reported (R257). -/
def State.jobFlags (s : State) (j : Nat) (b : Job) : BitVec 6 × BitVec 4 :=
  let cs := (s.ctxsOf j).map (·.2.2) ++ b.saved.map (·.ctx)
  (cs.foldl (fun v c => v ||| c.arithFlags.truncate 6) b.colFlags,
   cs.foldl (fun v c => v ||| (c.updFlags.truncate 2 ++ c.qzFlags.truncate 2)) (if b.trouble then 3 else 0))

/-- Ends a job: it is released, counted, and its completion handed on, unless a reset of its function ended it (R492,
R494, R512 to R515). -/
def State.removeJob (s : State) (j : Nat) (status : Byte) : State :=
  match s.job? j with
  | none => s
  | some b =>
    let fl := s.jobFlags j b
    let s := (s.releaseJob j b).countEnd b.client
    if b.quiet then s else s.complete (b.compl status fl.1 fl.2)

/-! ### Controller faults (R388 to R390) -/

/-- A controller fault: SPN_CFAULT and SPN_CFINST are recorded, the context stops, and the job ends with the code.
The program counter and every other register stay (R388). -/
def State.ctlFault (s : State) (w : Who) (code : Nat) (inst : Word) : State :=
  let x := s.who w
  let first := !x.cfault.toNat.testBit 63
  let x := { x with
    status := .stopped
    cfault := if first then BitVec.ofNat 64 (2 ^ 63 + code * 2 ^ 57 + x.pc.toNat) else x.cfault
    cfinst := if first then inst else x.cfinst }
  let j := x.job
  let s := s.setWho w x
  let s := s.modJob j fun b => if b.endWith.isSome then b else { b with flspn := w.lspn.toNat, fpc := x.pc }
  let s := s.endJob j (BitVec.ofNat 8 code)
  match s.job? j with
  | some b => s.baroWrite 0x0A 2 true [jobW b, codeW code 0 0, locW .address x.pc.toNat]
  | none => s

end Sys2Proof.Machine
end

