-- ==== Sys2Proof/Machine/Residues.lean ====
section
/-! DEFINITION. The residues that the device carries with its values and compares, and the correction of store words (R516 to
R520). -/

namespace Sys2Proof.Machine

/-- The 3-bit residue modulo 7 of a value counted in its own fixed-point units (R516). -/
def residue7 (v : Int) : Nat := (v % 7).toNat

/-- The check of a value that carries the residue of `v` and has come to hold `v + d` (R517). -/
def mismatch (v d : Int) : Bool := residue7 (v + d) ≠ residue7 v

/-- The check of an alignment shift right by `m` places of `x`, which leaves `y` and discards the bits `d` (R517). -/
def shiftAgrees (x y d : Int) (m : Nat) : Bool := residue7 ((residue7 y : Int) * 2 ^ m + residue7 d) = residue7 x

/-- The check of a log add on its added terms: the larger log, the value of its φ interval and the slope's part, which
together give `sum` (R92, R517). The choice of the larger operand is not checked. -/
def logAddAgrees (larger v slope sum : Int) : Bool := residue7 ((residue7 larger + residue7 v + residue7 slope : Nat) : Int) = residue7 sum

/-- What the checks make of an error `d` in a value `v`, whose error is `again` when it is formed again: how often the check
fails, and the error that stands in the value that is used (R517, R526). -/
def outcome (v d again : Int) : Nat × Int :=
  if !mismatch v d then (0, d) else if !mismatch v again then (1, again) else (2, 0)

/-- The error that an upset leaves in a value, counted in the value's own fixed-point units: the difference from the shift or the sum as it
should be (R517). -/
def upsetErr (u : Upset) : Int :=
  match u with
  | .value _ _ d _ => d
  | .shift _ _ x y cut m _ => y - (x - cut) / 2 ^ m
  | .logAdd _ _ larger v slope sum _ => sum - (larger + v + slope)
  | _ => 0

/-- What the check of a value that an upset meets finds, first and after the value is formed again, and the error that stands in the
value that is used (R516 to R518, R526). `v` is the value. -/
def upsetOutcome (u : Upset) (v : Int) : Nat × Int :=
  let twice (fails again : Bool) : Nat × Int := if !fails then (0, upsetErr u) else if again then (2, 0) else (1, 0)
  match u with
  | .value _ _ d again => outcome v d again
  | .shift _ _ x y cut m again => twice (!shiftAgrees x y cut m) again
  | .logAdd _ _ larger w slope sum again => twice (!logAddAgrees larger w slope sum) again
  | .bits again => twice true again
  | .table true again => twice true again
  | _ => (0, 0)

/-- How often the checks of a group fail: none, once or again (R516 to R518, R526). -/
def groupFails (u : Upset) (v : Int) : Nat := (upsetOutcome u v).1

/-- The bytes that an upset's value forms: the first and how many. -/
def upsetBytes (u : Upset) : Nat × Nat :=
  match u with
  | .value at_ len _ _ | .shift at_ len _ _ _ _ _ | .logAdd at_ len _ _ _ _ _ => (at_, len)
  | _ => (0, 0)

/-- The bytes whose value holds an error that no check finds: the first and how many (R517). -/
def escapedBytes (u : Upset) (v : Int) : Option (Nat × Nat) := if (upsetOutcome u v).2 = 0 then none else some (upsetBytes u)

/-- Cells with the bytes of those from `at_` on replaced: an error that escapes leaves them undetermined, a free value each (log
entry 105). -/
def strayed (free at_ len : Nat) (ws : List (Nat × Byte)) : List (Nat × Byte) :=
  ws.zipIdx.map fun p =>
    if at_ ≤ p.2 ∧ p.2 < at_ + len then (p.1.1, (Config.freeBits (free + (p.2 - at_))).truncate 8) else p.1

/-- The value that the bytes from number `at_` on spell. -/
def valueAt (at_ len : Nat) (ws : List (Nat × Byte)) : Int := (leNat (((ws.drop at_).take len).map Prod.snd) : Nat)

/-- The value that a group's upset meets among the bytes an operation writes. -/
def Run.struck (x : Run) (u : Upset) : Int := valueAt (upsetBytes u).1 (upsetBytes u).2 (x.w ++ x.phys)

/-- What an operation writes where an error escaped its checks (R517; log entry 105). -/
def Run.stray (x : Run) (free : Nat) (u : Upset) : Run :=
  match escapedBytes u (x.struck u) with
  | some (at_, len) =>
    let n := x.w.length
    { x with w := strayed free at_ len x.w, phys := strayed free (at_ - n) (len - (n - at_)) x.phys }
  | none => x

/-! ### The accumulator store (R188, R520) -/

/-- An accumulator element as an integer in its own fixed-point units: the significand, the log or the integer. -/
def Acc.fixed : Acc → Int
  | .af x => x.sint
  | .al (.num _ l) => l
  | .al _ => 0
  | .ai x => x.toInt

/-- An accumulator element whose fixed-point value is off by `d`. A zero or a NaN has no such value, and stays. -/
def Acc.bump (x : Acc) (d : Int) : Acc :=
  match x with
  | .af (.fin n m e) => .af (Lin.ofInt ((Lin.fin n m e).sint + d) e)
  | .al (.num n l) => .al (.num n (l + d))
  | .ai v => .ai (v + BitVec.ofInt 32 d)
  | x => x

/-- What SECDED and the residue make of a store word in which `flips` bits changed (R520): one flipped bit is corrected before the
residue is compared, and two are found as a double error; beyond that the carried residue, off by `res`, is compared (R517). -/
def storeOutcome (u : Upset) (v : Int) : Nat × Int :=
  match u with
  | .store _ _ flips d res again =>
    if flips ≤ 1 then (0, 0)
    else if flips = 2 ∨ residue7 (v + d) ≠ residue7 (residue7 v + res.toNat : Nat) then (if again then 2 else 1, 0)
    else (0, d)
  | _ => (0, 0)

/-- The store word that SECDED corrects, where it corrects one (R520). -/
def storeCorrects (u : Upset) : Option Nat :=
  match u with
  | .store w _ 1 _ _ _ => some w.toNat
  | _ => none

end Sys2Proof.Machine
end

