-- ==== Sys2Proof/Machine/Sites.lean ====
section
/-! DEFINITION. Physical sites: substitution (R110 to R112), attributed faults and retirement (R540), and the
choice of a twin (R533). -/

namespace Sys2Proof.Machine

/-- The frame of a site (R104). -/
def siteFrame (p : Nat) : Nat := p / 9

/-- The compute die of a site (R104). -/
def siteDie (p : Nat) : Nat := p / 72

/-- Writes STATE of a site and keeps it in the bank (R109, R552). -/
def State.markSite (s : State) (p st : Nat) : State :=
  let v := (s.site p &&& 0xFFFFFFF8) ||| BitVec.ofNat 32 (st % 8)
  (s.setSite p v).bankBytes (siteBase + p) [v.truncate 8]

/-- Writes MILL_SPMAP of a logical spindle and keeps it in the bank (R108, R110). -/
def State.markSpmap (s : State) (n : Nat) (v : BitVec 32) : State :=
  (s.setSpmap n v).bankBytes (spmapBase + 4 * n) (leBytes 4 v.toNat)

/-- The reserves among given sites, in ascending order. -/
def State.reservesIn (s : State) (ps : List Nat) : List Nat := ps.filter fun p => s.siteState p = 1

/-- The sites of a frame. -/
def frameSites (f : Nat) : List Nat := (List.range 9).map fun i => 9 * f + i

/-- The new site of a logical spindle that leaves its site (R110). -/
def State.newSite (s : State) (n : Nat) : Option Nat :=
  let f := s.hframe n
  let die := f / 8
  (s.reservesIn (frameSites f)).head?.or
    ((List.range 8).findSome? fun i =>
      if 8 * die + i = f then none else (s.reservesIn (frameSites (8 * die + i))).head?)

/-- The spindle that does the work of an absent one: the lowest other spindle of its home frame that is seated (R112; log entry
106). -/
def State.worker (s : State) (n : Nat) : Option Nat :=
  (List.range 256).find? fun m => m ≠ n && s.seat m ≠ 2 && s.hframe m = s.hframe n

/-- The spindle on whose site a logical spindle's work is done (R112). DESIGN CHOICE (log entry 121): where no other spindle of its home
frame is seated, an absent one does its own work. -/
def State.doer (s : State) (n : Nat) : Nat := if s.seat n = 2 then (s.worker n).getD n else n

/-- The site on which a logical spindle's work is done. -/
def State.workSite (s : State) (n : Nat) : Nat := s.psite (s.doer n)

/-- The frame in which a logical spindle's work is done, which clocks its array (R111, R119). -/
def State.seatFrame (s : State) (n : Nat) : Nat := siteFrame (s.workSite n)

/-- The logical spindle that sits on a site (R108). -/
def State.seated (s : State) (p : Nat) : Option Nat :=
  (List.range 256).find? fun n => s.seat n ≠ 2 && s.psite n = p

/-- A substitution: the map changes, GEN advances, a record is written, and the bank takes the map (R110, R112). It depends on the
commit, so without command core 0 there is none (R123). PSITE of an absent spindle is a free value (R108). -/
def State.substitute (s : State) (n : Nat) : State :=
  if !s.core0 then s else
  let old := s.psite n
  let gen := ((s.spmap n).toNat + 1) % 4096
  let word (seat p : Nat) : BitVec 32 := BitVec.ofNat 32 (seat * 2 ^ 26 + s.hframe n * 2 ^ 21 + p * 2 ^ 12 + gen)
  match s.newSite n with
  | some p =>
    let s := (s.markSite p 0).markSpmap n (word (if siteFrame p = s.hframe n then 0 else 1) p)
    s.baroWrite 0x05 1 true [locW .spindle n, locW .site old, locW .site p, codeW 0 0 gen]
  | none =>
    let s := s.markSpmap n (word 2 (Config.absentSite n).toNat)
    let s := { s with mill := { s.mill with degraded := true } }
    s.baroWrite 0x05 3 true [locW .spindle n, locW .site old, noLoc, codeW 0 0 gen]

/-- A fault that needs a replay of the job's step; it ends a job that does not commit in steps (R391, R522). One replay serves
every fault that is pending (R528). -/
def State.needReplay (s : State) (j : Nat) (code : Byte) (addr : Nat) : State :=
  match s.job? j with
  | none => s
  | some b =>
    if !b.steps then s.endJob j code
    else s.setJob j { b with fault := b.fault.or (some (code, addr)), causes := b.causes ++ [(code, addr)] }

/-- The jobs with a context on a logical spindle. -/
def State.jobsOn (s : State) (l : Nat) : List Nat :=
  ((s.spn l).ctxs.filter fun c => c.2.status ≠ .free).map (·.2.job)

/-- LASTPASS of a site (R539). -/
def State.lastPass (s : State) (p : Nat) : Nat := (s.mill.sitet.get p 0).toNat

/-- Retires a site for the reason that a record of TYPE `cause` gives: a record, the substitution of its spindle, and a replay of each
job on it (R110, R540, R546). The place of an absent spindle's bobbin is no site (log entry 121). -/
def State.retireSite (s : State) (p cause count : Nat) : State :=
  if 288 ≤ p then s else
  let l := s.seated p
  let s := s.markSite p 3
  let s := s.baroWrite 0x06 3 true [locW .site p, codeW cause count (s.lastPass p)]
  match l with
  | none => s
  | some n => (s.jobsOn n).foldl (fun s j => s.needReplay j 0x40 0) (s.substitute n)

/-- RFAULTS of MILL_RCFG (R539). -/
def State.rfaults (s : State) : Nat := bitsOf (s.wp 3).toNat 8 4

/-- MAXREP of MILL_RCFG (R539). -/
def State.maxrep (s : State) : Nat := bitsOf (s.wp 3).toNat 12 4

/-- TRPL of MILL_RCFG (R539). -/
def State.trpl (s : State) : Bool := (s.wp 3).toNat.testBit 0

/-- 24 hours in nanoseconds. -/
def dayNs : Nat := 24 * 3600 * 10 ^ 9

/-- FAULTS of a site advances, in the register and in the bank; STATE stays, also what the bank holds of it during a test or a loan
(R109, R534, R540). -/
def State.countFault (s : State) (p : Nat) : State :=
  let v := (s.site p).toNat
  let f := min 15 (bitsOf v 4 4 + 1)
  let s := s.setSite p (BitVec.ofNat 32 (f * 16 + v % 16))
  let s := s.bankBytes (siteBase + p) [BitVec.ofNat 8 (f * 16 + s.bank (siteBase + p) 1 % 16)]
  { s with mill := { s.mill with attrib := (s.mill.attrib.filter fun a => s.ns < a.2 + dayNs) ++ [(p, s.ns)] } }

/-- Attributes a fault to a site: FAULTS advances, and RFAULTS faults within 24 hours retire it (R109, R540). -/
def State.attribute (s : State) (p : Nat) : State :=
  if 288 ≤ p then s
  else
    let s := s.countFault p
    let n := (s.mill.attrib.filter fun a => a.1 = p).length
    if s.rfaults ≤ n ∧ s.siteState p ≠ 3 then s.retireSite p 0x01 n else s

/-! ### Corrected errors and spare rows (R452, R520) -/

/-- The state after a corrected error of a row, and how many the row has collected within 24 hours (R452). -/
def State.countRow (s : State) (row : Nat) : State × Nat :=
  let live := (s.rowErr.filter fun r => s.ns < r.2 + dayNs) ++ [(row, s.ns)]
  ({ s with rowErr := live }, (live.filter fun r => r.1 = row).length)

/-- A row, held under its key, goes to a spare row of its part: none where the part has used all of its `count` (R452). `tier` is
what the REPAIR record names (log entry 38). -/
def State.spareRow (s : State) (row part count tier : Nat) : Option State :=
  if s.spares.get part 0 < count then
    let s := { s with spares := s.spares.set part (s.spares.get part 0 + 1) 0, rowErr := s.rowErr.filter fun r => r.1 ≠ row }
    some ((s.baroWrite 0x07 1 true [locW .address (offOf row), codeW 0 tier 0]).repairNote (locW .address (offOf row)))
  else none

/-- The key that names a row of a site's accumulator store: 16 store words (log entry 38). -/
def storeRow (p w : Nat) : Nat := keyOf 9 (p * 2 ^ 21 + w / 16 * 64)

/-- The key that names a bank of a site's accumulator store. -/
def storePart (p w : Nat) : Nat := keyOf 9 (2 ^ 40 + p * 2 ^ 21 + (Config.storeBank w).toNat)

/-- SECDED has corrected a store word: the error is counted for its row, three within 24 hours give the row to one of the bank's 8
spare rows, and the spindle is retired where none is left (R452, R520). -/
def State.storeCorrected (s : State) (p w : Nat) : State :=
  let r := s.countRow (storeRow p w)
  if r.2 < 3 then r.1
  else match r.1.spareRow (storeRow p w) (storePart p w) 8 4 with
    | some t => t
    | none => r.1.retireSite p 0x07 r.2

/-- The sites that hold a loan or serve a running test (R533). -/
def State.engaged (s : State) : List Nat :=
  s.mill.spots.flatMap fun t => t.twin :: (t.third.toList ++ t.loan.toList)

/-- The reserves of the die of a site that may serve as its twin, nearest frame first, a tie to the lower frame
(R533; log entry 18). -/
def State.twinSites (s : State) (p : Nat) : List Nat :=
  let f := siteFrame p
  let die := f / 8
  let near (d : Nat) : List Nat :=
    (if 8 * die + d ≤ f then frameSites (f - d) else []) ++ (if d ≠ 0 ∧ f + d < 8 * die + 8 then frameSites (f + d) else [])
  (s.reservesIn ((List.range 8).flatMap near)).filter fun r => r ≠ p && !(r ∈ s.engaged)

end Sys2Proof.Machine
end

