-- ==== Sys2Proof/Machine/Fits.lean ====
section
/-! DEFINITION. Whether a job fits the spindles it names, and which job would make room for it (R431, R502, R504). -/

namespace Sys2Proof.Machine

/-- The partitions of the resident contexts of a spindle: first unit and size. -/
def Spindle.parts (x : Spindle) : List (Nat × Nat) :=
  (x.ctxs.filter fun c => c.2.status ≠ .free).map fun c => (c.2.bpBase.toNat, c.2.bpSize.toNat)

/-- The lowest place for a partition of `n` units among units 0 to 158 (R430; log entry 20). -/
def Spindle.baseFor (x : Spindle) (n : Nat) : Option Nat :=
  if n = 0 then some 0
  else (List.range (160 - n)).find? fun b => x.parts.all fun p => decide (b + n ≤ p.1) || decide (p.1 + p.2 ≤ b) || p.2 = 0

/-- The partitions on a spindle whose units still hold the bytes of jobs that are switched out (R431). -/
def State.keptParts (s : State) (l : Nat) : List (Nat × Nat) :=
  s.mill.jobs.flatMap fun p => if p.2.st ≠ .out then [] else
    (p.2.saved.filter fun v => v.lspn = l).map fun v => (v.ctx.bpBase.toNat, v.ctx.bpSize.toNat)

/-- Where a partition of `n` units goes on a spindle: `own`, where these units are free; else the lowest place whose units hold no
switched-out job's bytes; else the lowest place that is free, whose bytes are in the save areas (R430, R431; log entry 20). -/
def State.baseIn (s : State) (l n : Nat) (own : Option Nat) : Option Nat :=
  let x := s.spn l
  let clear (ps : List (Nat × Nat)) (b : Nat) : Bool :=
    ps.all fun p => decide (b + n ≤ p.1) || decide (p.1 + p.2 ≤ b) || p.2 = 0
  if n = 0 then some (own.getD 0)
  else ((own.filter (clear x.parts)).or ((List.range (160 - n)).find? (clear (x.parts ++ s.keptParts l)))).or (x.baseFor n)

/-- A free context of a spindle. -/
def Spindle.freeCtx (x : Spindle) : Option Nat := (List.range 4).find? fun c => (x.ctxs.get c {}).status = .free

/-- Whether a spindle takes a context of a job (R502): its units that no resident context holds number at least BPART. -/
def Spindle.takes (x : Spindle) (b : Job) : Bool :=
  x.freeCtx.isSome && decide ((x.parts.map (·.2)).sum + b.bpart ≤ 159)
  && decide (((x.ctxs.filter fun c => c.2.status ≠ .free).map fun c => c.2.quota.toNat).sum + b.qunits ≤ 64)

/-- Whether the queues of a spindle take the operations that a switched-out job has there, with an entry kept for each other context
(R115, R506; log entry 127). -/
def State.opsFit (s : State) (l : Nat) (b : Job) : Bool :=
  let x := s.spn l
  b.saved.all fun v => v.lspn ≠ l || [Engine.array, .vector, .inReel, .outReel, .twist].all fun e =>
    x.roomFor e (x.freeCtx.getD 0) (v.ops.filter fun o => o.1 = e).length

/-- Whether the frames whose shuttle a job consumes are free of other shuttles and other jobs' pages in slot 15
(R294, R296, R432; log entry 21). -/
def State.shuttlesFree (s : State) (j : Nat) (b : Job) : Bool :=
  (State.shuttleFrames b).all fun f =>
    let x := s.frame f
    !x.shctl.toNat.testBit 31 && (x.owner.get 15 0 = 0 || x.owner.get 15 0 = j + 1)

/-- Whether a job can be placed now, as far as spindles go (R502). -/
def State.fits (s : State) (j : Nat) (b : Job) : Bool :=
  (b.lspnList.all fun l => (s.spn l).takes b && s.opsFit l b) && (b.st = .out || s.shuttlesFree j b)

/-- The resident fill job that the head of the critical queue would switch out (R504): the one that frees the most of
the spindles it needs, the latest placed among equals. -/
def State.victim (s : State) : Option Nat :=
  match s.mill.critQ.head?.bind fun k => (s.job? k).map fun b => (k, b) with
  | none => none
  | some (k, b) =>
    if s.fits k b then none
    else
      let score (o : Job) : Nat := (b.lspnList.filter fun l => o.lspns.toNat.testBit l).length
      let cs := s.mill.jobs.filter fun p => p.2.st = .resident && !p.2.stopping && !p.2.crit && p.2.endWith.isNone && decide (0 < score p.2)
      cs.foldl (fun (best : Option (Nat × Job)) p =>
        match best with
        | none => some p
        | some q => if score q.2 < score p.2 ∨ (score q.2 = score p.2 ∧ q.2.placedAt < p.2.placedAt) then some p else some q)
        none |>.map (·.1)

end Sys2Proof.Machine
end

