-- ==== Sys2Proof/Machine/Lanes.lean ====
section
/-! DEFINITION. The lanes of the vector engine (R260 to R271): loading, elementwise arithmetic, log-domain
functions, and the writing of results. -/

namespace Sys2Proof.Machine

/-- The lane forms (R260). -/
inductive Form where
  | log | single | double | int
  deriving DecidableEq, Repr, Inhabited

/-- The lane form that a tensor loads into (R260); none for a format of another role. -/
def formOf (t : Tensor) : Option Form :=
  match t.fmt with
  | .lg16 | .lg8 | .ng4 | .al32 => some .log
  | .fp32 | .bf16 | .fp16 | .e4m3 | .e5m2 | .int8 | .mxfp4 | .mxe4m3 | .mxe5m2 | .mxint8 => some .single
  | .fp4 | .in4 => if t.hanked then some .single else none
  | .f64 | .aw64 => some .double
  | .ai32 => some .int
  | _ => none

/-- Whether a result may be written to a tensor (R18, R260); B1 and B2 come from the quantiser only. -/
def veOutOk (t : Tensor) : Bool := (formOf t).isSome

/-- The modes of a vector engine operation (R47, R48). -/
def QOp.modes (q : QOp) : Modes := Modes.of q.arith (q.modf 26 2)

/-- Unpacks an element to LG16 or binary32 (R250, R260): NG4 grid codes through the range of LG16, the elements of NG4 zero and
NaN blocks as logs too, scaled elements through the range of binary32, tiny ones under R53 and those beyond it under R60. The
infinity that INF = 1 asks for is `inf64`, which no finite value of a format reaches, so that it is one in every format that has
infinities. -/
def unpackEl (f : Fmt) (md : Modes) (x : El) : Val × Flags :=
  match f with
  | .ng4 =>
    match x.val with
    | .log (.num n l) =>
      let q := l / 32768
      if q < -16383 then (.log .zero, .unfFrost)
      else if 16383 < q then (.log (.num n (16383 * 32768)), .ovf) else (.log (.num n l), .no)
    | .lin .nan => (.log .nan, .no)
    | .lin _ => (.log .zero, .no)
    | v => (v, .no)
  | .fp4 | .in4 | .mxfp4 | .mxe4m3 | .mxe5m2 | .mxint8 =>
    match x.val with
    | .lin (.fin n m e) =>
      let o := leadOrder m e
      if 128 ≤ o then (.lin (if md.inf && md.rm ≠ .rtz then inf64 n else .fin n (2 ^ 24 - 1) 104), .ovf)
      else if md.subn ∧ o < -126 then (.lin .zero, .unfFrost) else (.lin (.fin n m e), .no)
    | v => (v, .no)
  | _ => (x.val, .no)

/-- Loads an element into its lane (R260): an unpacking that leaves an infinity loads as NaN and sets INVALID, as any
infinity does (R36; log entry 97). -/
def laneLoad (f : Fmt) (md : Modes) (x : El) : Val × Flags :=
  let o := unpackEl f md x
  match o.1 with
  | .lin x => if isInf64 x then (.lin .nan, o.2.or .invalid) else o
  | .log _ => o

/-- Elements of a format as an operation takes them: a conversion (`cvt`) keeps what the unpacking gives, every other
operation loads its lanes. -/
def loadEls (cvt : Bool) (f : Fmt) (md : Modes) (r : RowRead) : List Val × RowRead :=
  let xs := r.els.map (if cvt then unpackEl f md else laneLoad f md)
  (xs.map (·.1), { r with flags := xs.foldl (fun f x => f.or x.2) r.flags })

/-- The lanes of the first `n` elements in flat order, with flags and the first hank fault. -/
def laneRead (s : State) (q : QOp) (cvt : Bool) (t : Tensor) (n : Nat) : List Val × RowRead :=
  loadEls cvt t.fmt q.modes (t.readFlat (s.rd q) q.modes.subn n)

/-- A result before it is written: a linear value, a log with `nb` fraction bits, or a class. -/
inductive Res where
  | lin (x : Lin)
  | log (neg : Bool) (l : Int) (nb : Nat)
  | zero | nan
  deriving DecidableEq, Repr, Inhabited

/-- A lane value as a result. -/
def Val.res (v : Val) : Res :=
  match v with
  | .lin x => .lin x
  | .log (.num n l) => .log n l 23
  | .log .zero => .zero
  | .log .nan => .nan

/-- A result as a value for a quantised output, its log at 23 fraction bits. -/
def Res.val (log : Bool) (r : Res) : Val :=
  match r with
  | .lin x => .lin x
  | .log n l nb => .log (.num n (nearestEven l nb 23))
  | .zero => if log then .log .zero else .lin .zero
  | .nan => if log then .log .nan else .lin .nan

/-- Writes a result to a plain element format (R58 to R64, R268). -/
def encodeRes (f : Fmt) (md : Modes) (narrow : Bool) (x : Res) (r : Rnd) : Nat × Flags :=
  match x with
  | .log n l nb =>
    match f with
    | .lg16 => encLogBits (.num n l) nb 8 16 r
    | .lg8 => encLogBits (.num n l) nb 3 8 r
    | .al32 => encLogBits (.num n l) nb 23 32 r
    | _ => encodeElem f md narrow (.log (.num n (if narrow then nearestEven l nb 23 else nearestEven l nb 16 * 128))) r
  | .lin v => encodeElem f md narrow (.lin v) r
  | .zero => encodeElem f md narrow (.lin .zero) r
  | .nan => encodeElem f md narrow (.lin .nan) r

/-- The rounding of a vector engine result at a flat index (R267, R352 purpose 0xE3). -/
def veRnd (s : State) (q : QOp) (rm : RMode) (idx : Nat) : Rnd :=
  rm.at fun _ => draw16 (s.seedOf q) 0xE3 q.step.toNat (elemVe q.lspn q.ord idx 0)

/-- Writes results in flat order from element 0 on; none leaves its element as it is (R411 SEL). -/
def writeFlat (s : State) (q : QOp) (t : Tensor) (c : OutCfg) (rs : List (Option Res)) (x : Run) : Run :=
  if t.hanked || t.packed || t.hasScales then
    (List.range ((rs.length + t.rowLen - 1) / t.rowLen)).foldl (fun x r =>
      writeRow x (s.rd q) t c r (((rs.drop (r * t.rowLen)).take t.rowLen).filterMap
        fun o => o.map (Res.val t.fmt.isLog)) fun _ => .rne) x
  else rs.zipIdx.foldl (fun x p =>
    match p.1 with
    | none => x
    | some v =>
      let o := encodeRes t.fmt c.md c.narrow v (veRnd s q c.md.rm p.2)
      (x.putElem (s.rd q) t (p.2 / t.rowLen) (p.2 % t.rowLen) o.1).flag o.2) x

/-- Whether logs loaded from the format have at most 8 fraction bits (R266). -/
def Fmt.narrow : Fmt → Bool
  | .lg16 | .lg8 | .ng4 => true
  | _ => false

/-! ### Elementwise operations (R265, R266, R270) -/

/-- The elementwise operations of R411 up to CVT. -/
inductive EOp where
  | add | sub | mul | neg | abs | eq | lt | le | max | min | cvt
  deriving DecidableEq, Repr, Inhabited

/-- A 32-bit integer result, wrapped; WRAP for additions (R192, R265). -/
def wrap32 (z : Int) (flag : Bool) : Res × Flags :=
  let v := (BitVec.ofInt 32 z).toInt
  (.lin (.ofInt v 0), if flag && v ≠ z then .wrap else .no)

/-- The negation of a lane value. -/
def Val.neg (v : Val) : Val :=
  match v with
  | .lin x => .lin x.neg
  | .log (.num n l) => .log (.num (!n) l)
  | w => w

/-- The magnitude of a lane value. -/
def Val.abs (v : Val) : Val :=
  match v with
  | .lin x => .lin x.abs
  | .log (.num _ l) => .log (.num false l)
  | w => w

/-- A lane value as a fixed-point one: through R76, or R77 for logs of more than 8 fraction bits (R266). -/
def laneLin (narrow : Bool) (v : Val) : Lin :=
  match v with
  | .lin x => x
  | .log g => if narrow then logLin76 g else logLin77 g

/-- An integer lane's value. -/
def laneInt (v : Val) : Int :=
  match v with
  | .lin x => x.sint * 2 ^ x.expo.toNat
  | _ => 0

/-- Values compared for equality; false with a NaN. -/
def valEq (a b : Val) : Bool := !(a.isNan || b.isNan) && !(a.lt b) && !(b.lt a)

/-- One elementwise result (R265, R266, R270); `na` and `nb` say of each operand whether its logs have at most 8 fraction
bits, which decides the table it goes through (R266). -/
def elementwise (o : EOp) (f : Form) (na nb : Bool) (a b : Val) : Res × Flags :=
  let bool (p : Bool) : Res × Flags := (.lin (.ofInt (if p then 1 else 0) 0), .no)
  match o with
  | .eq => bool (valEq a b)
  | .lt => bool (!(a.isNan || b.isNan) && a.lt b)
  | .le => bool (!(a.isNan || b.isNan) && !(b.lt a))
  | .max => if a.isNan || b.isNan then (.nan, .no) else ((if a.lt b then b else a).res, .no)
  | .min => if a.isNan || b.isNan then (.nan, .no) else ((if b.lt a then b else a).res, .no)
  | .cvt => (a.res, .no)
  | .neg => if f = .int then wrap32 (-laneInt a) false else (a.neg.res, .no)
  | .abs => if f = .int then wrap32 (laneInt a).natAbs false else (a.abs.res, .no)
  | .mul =>
    if f = .int then wrap32 (laneInt a * laneInt b) false
    else match a, b with
      | .log x, .log y =>
        (match x, y with
          | .nan, _ => .nan
          | _, .nan => .nan
          | .zero, _ => .zero
          | _, .zero => .zero
          | .num n l, .num k m => .log (xor n k) (l + m) 23, .no)
      | _, _ => (.lin ((laneLin na a).mul (laneLin nb b)), .no)
  | .add | .sub =>
    let b := if o = .sub then b.neg else b
    if f = .int then wrap32 (laneInt a + laneInt b) true
    else if f = .log then
      match (laneLin na a).add (laneLin nb b) with
      | .nan => (.nan, .no)
      | x => ((Val.log (convLin x)).res, .no)
    else (.lin ((laneLin na a).add (laneLin nb b)), .no)

/-! ### Log-domain functions (R268, R269) -/

/-- The functions of R268, with the exponent of POW (Q8.8) and log2 T of EXP (16 fraction bits). -/
inductive LFn where
  | recip | sqrt | rsqrt | log2 | ln | sigmoid
  | pow (p : Int)
  | exp (t : Int)
  deriving DecidableEq, Repr, Inhabited

/-- A log result. -/
def lgRes (g : Lg) : Res :=
  match g with
  | .zero => .zero
  | .nan => .nan
  | .num n l => .log n l 23

/-- One result of a log-domain function (R268, R269). -/
def logFn (fn : LFn) (v : Val) : Res :=
  match fn with
  | .sigmoid =>
    .lin (sigmoidLin (match v with
      | .lin x => x
      | .log g => logLin77 g))
  | .exp t =>
    match expUnit v t with
    | .nan => .nan
    | y => .log false (linToLog y 600 .rtz) 600
  | fn =>
    match v.toLog with
    | .nan => .nan
    | .zero => match fn with
      | .sqrt => .zero
      | .pow p => if 0 < p then .zero else if p = 0 then .log false 0 23 else .nan
      | _ => .nan
    | .num n l => match fn with
      | .recip => .log n (-l) 23
      | .sqrt => if n then .nan else .log false l 24
      | .rsqrt => if n then .nan else .log false (-l) 24
      | .log2 => if n then .nan else lgRes (logOfLog l 23)
      | .ln => if n then .nan else lgRes (timesLn2 l 23)
      | .pow p =>
        if n ∧ p % 256 ≠ 0 then .nan else .log (n && (p / 256) % 2 ≠ 0) (l * p) 31
      | _ => .nan

/-! ### Linear sums (R271) -/

/-- Neighbours added in binary64; each sum keeps the flags of its parts. -/
def pairAdd (inf : Bool) : List Sum64 → List Sum64
  | a :: b :: r => { a.plus inf b.v with f := (a.plus inf b.v).f.or b.f } :: pairAdd inf r
  | l => l

/-- The sum of R271 under ARITH_CTL.INF: 256 lanes in ascending order, then the balanced tree. -/
def laneSum (inf : Bool) (xs : List Lin) : Sum64 :=
  let lanes := (List.range 256).map fun j =>
    (List.range ((xs.length + 255 - j) / 256)).foldl (fun a i => a.plus inf (xs.getD (j + 256 * i) .zero)) ({} : Sum64)
  let two (l : List Sum64) : List Sum64 := pairAdd inf (pairAdd inf l)
  (two (two (two (two lanes)))).headD {}

/-! ### Extremes of a row (R270) -/

/-- The extreme of a row and its position: the lowest index of a NaN, else the lowest index of the extreme. -/
def extreme (mx : Bool) (vs : List Val) : Option Val × Nat :=
  match vs.findIdx? Val.isNan with
  | some i => (none, i)
  | none => vs.zipIdx.foldl (fun (a : Option Val × Nat) p =>
      match a.1 with
      | none => (some p.1, p.2)
      | some m => if (if mx then m.lt p.1 else p.1.lt m) then (some p.1, p.2) else a) (none, 0)

end Sys2Proof.Machine
end

