-- ==== Sys2Proof/Machine/VecRun.lean ====
section
/-! DEFINITION. What the vector engine does for each of its operations (R261 to R283, R410 to R417), the
distillation and update operations apart. -/

namespace Sys2Proof.Machine

/-- The conditions of an output that need no byte of memory (R232, R247, R252), QZ_CFG where one fails. -/
def needOut (q : QOp) (t : Tensor) : Except (Byte × Nat) Unit := need (outOk q.qz t) 0x18

/-- Raw output configuration of a vector engine operation, its quantiser checks done (R280, R252). -/
def veOut (s : State) (q : QOp) (t : Tensor) (narrow : Bool) : Except (Byte × Nat) OutCfg :=
  outCfg (s.rd q) t q.modes narrow q.qz (s.seedOf q) q.step.toNat

/-- The lane form of an input: QZ_CFG for a double hank of another format than NG4 (R232), FMT_ROLE where it has no form or none
among those the operation takes (R261). -/
def needForm (t : Tensor) (ok : List Form) : Except (Byte × Nat) Form :=
  if !t.kindOk then .error (0x18, 0)
  else match formOf t with
  | some f => if f ∈ ok then .ok f else .error (0x10, 0)
  | none => .error (0x10, 0)

/-- The captured descriptor that MOD[23:16] names (R410). -/
def QOp.srcA (q : QOp) : Line := q.desc (q.modf 16 8)

/-- The captured descriptor that MOD[15:8] names (R410). -/
def QOp.srcB (q : QOp) : Line := q.desc (q.modf 8 8)

/-- Ends an operation that only writes memory. -/
def done (s : State) (x : OpR) : State × Run := (s, x.run)

/-- An elementwise operation of one or two operands (R411, R412). -/
def runElementwise (s : State) (q : QOp) (o : EOp) : State × Run := done s do
  let two := match o with
    | .add | .sub | .mul | .eq | .lt | .le | .max | .min => true
    | _ => false
  let cmp := match o with
    | .eq | .lt | .le => true
    | _ => false
  need (descOk q.desc0 && descOk q.srcA && (!two || descOk q.srcB)) 0x1F
  need (fmtOk q.desc0 && fmtOk q.srcA && (!two || fmtOk q.srcB)) 0x10
  let out := tensorRaw q.desc0
  let a := tensorRaw q.srcA
  let b := tensorRaw q.srcB
  let f ← needForm a [.log, .single, .double, .int]
  if two then
    need b.kindOk 0x18
    need (formOf b = some f) 0x10
  need (if cmp then out.fmt = .mask && out.layout = 0 else veOutOk out) 0x10
  need (f ≠ .int || cmp || out.fmt = .ai32 || (o = .cvt && formOf out ≠ some .log)) 0x10
  let n := out.count
  need (n ≤ a.count && (!two || n ≤ b.count)) 0x19
  let narrow := a.fmt.narrow && (!two || b.fmt.narrow)
  needOut q out
  s.segsOk q (a.flatSegs n .read ++ (if two then b.flatSegs n .read else []) ++ out.flatSegs n .write
    ++ outputSegs out (out.rowsOf n))
  let c ← veOut s q out (narrow && o ≠ .add && o ≠ .sub)
  let ra := laneRead s q (o = .cvt) a n
  let rb := if two then laneRead s q false b n else ([], ⟨[], .no, 0, 0, []⟩)
  let rs := ra.1.zipIdx.map fun p => elementwise o f a.fmt.narrow b.fmt.narrow p.1 (rb.1.getD p.2 (.lin .zero))
  let x := ((({} : Run).take ra.2).take rb.2).flag (rs.foldl (fun f r => f.or r.2) .no)
  if cmp then
    return rs.zipIdx.foldl (fun x p => x.putElem (s.rd q) out (p.2 / out.rowLen) (p.2 % out.rowLen)
      (match p.1.1 with
        | .lin v => if v.isZero then 0 else 1
        | _ => 0)) x
  else return writeFlat s q out c (rs.map fun r => some r.1) x

/-- VE.SEL (R411). -/
def runSel (s : State) (q : QOp) : State × Run := done s do
  need (descOk q.desc0 && descOk q.srcA && descOk q.srcB) 0x1F
  need (fmtOk q.desc0 && fmtOk q.srcA && fmtOk q.srcB) 0x10
  let out := tensorRaw q.desc0
  let a := tensorRaw q.srcA
  let m := tensorRaw q.srcB
  let f ← needForm a [.log, .single, .double, .int]
  need m.kindOk 0x18
  need (m.fmt = .mask && m.layout = 0) 0x10
  need (veOutOk out && !out.hanked && !out.hasScales && (f ≠ .int || out.fmt = .ai32)) 0x10
  let n := out.count
  need (n ≤ a.count && n ≤ m.count) 0x19
  needOut q out
  s.segsOk q (a.flatSegs n .read ++ m.flatSegs n .read ++ out.flatSegs n .write)
  let c ← veOut s q out a.fmt.narrow
  let ra := laneRead s q false a n
  let rs := ra.1.zipIdx.map fun p =>
    if m.code (s.rd q) (p.2 / m.rowLen) (p.2 % m.rowLen) = 1 then some p.1.res else none
  return writeFlat s q out c rs (({} : Run).take ra.2)

/-- T of an operation as log2 T with 16 fraction bits (R410, R411): 0 where TONE is set; none where it is not a
positive LG16 number (R99). -/
def tempOf (s : State) (q : QOp) : Option Int :=
  if q.modf 25 1 = 1 then some 0 else tempLog ((tensorRaw q.srcB).code (s.rd q) 0 0)

/-- A function of one operand (R268, R411, R413). -/
def runLogFn (s : State) (q : QOp) (fn : Option Int → Option LFn) (useT : Bool) : State × Run := done s do
  let t := useT && q.modf 25 1 = 0
  need (descOk q.desc0 && descOk q.srcA && (!t || descOk q.srcB)) 0x1F
  need (fmtOk q.desc0 && fmtOk q.srcA && (!t || fmtOk q.srcB)) 0x10
  let out := tensorRaw q.desc0
  let a := tensorRaw q.srcA
  let _ ← needForm a [.log, .single]
  need (veOutOk out && out.fmt ≠ .ai32 && (!t || (tensorRaw q.srcB).fmt = .lg16)) 0x10
  let n := out.count
  need (n ≤ a.count) 0x19
  needOut q out
  s.segsOk q (a.flatSegs n .read ++ (if t then (tensorRaw q.srcB).flatSegs 1 .read else [])
    ++ out.flatSegs n .write ++ outputSegs out (out.rowsOf n))
  let c ← veOut s q out false
  let ra := laneRead s q false a n
  let rs := match fn (if useT then tempOf s q else some 0) with
    | some g => ra.1.map fun v => some (logFn g v)
    | none => ra.1.map fun _ => some Res.nan
  return writeFlat s q out c rs (({} : Run).take ra.2)

/-- The lanes of each row of a tensor, with the flags and faults of their reading. -/
def laneRows (s : State) (q : QOp) (cvt : Bool) (t : Tensor) : List (List Val) × Run :=
  let rs := (List.range t.rows).map fun r =>
    loadEls cvt t.fmt q.modes (t.readRow (s.rd q) q.modes.subn r t.rowLen)
  (rs.map (·.1), rs.foldl (fun x r => x.take r.2) {})

/-- The ranges of a reduction's row length and count (R412). -/
def rowsOk (t : Tensor) : Bool := 1 ≤ t.rowLen && t.rowLen ≤ 2 ^ 24 && 1 ≤ t.rows && t.rows ≤ 65536

/-- The draws of a log-sum's additions in row `r` (R267). DEDUCED (log entry 102): R97 and R272 say that a log-sum formed here in
the array's order gives the array's bits, while R352 and R362 give it a purpose of its own (0xE3, not 0xE1) and R267 its own
numbers; this follows R352 and R267, so the stochastic roundings of the two paths may differ. -/
def sumDraw (s : State) (q : QOp) (r n : Nat) : Nat :=
  draw16 (s.seedOf q) 0xE3 q.step.toNat (elemVe q.lspn q.ord r n)

/-- One result per row (R412): `ok` lists the forms, `fn` gives row r's result and flags. -/
def runReduce (s : State) (q : QOp) (ok : List Form) (useT : Bool)
    (fn : Option Int → Nat → List Val → Res × Flags) : State × Run := done s do
  let t := useT && q.modf 25 1 = 0
  need (descOk q.desc0 && descOk q.srcA && (!t || descOk q.srcB)) 0x1F
  need (fmtOk q.desc0 && fmtOk q.srcA && (!t || fmtOk q.srcB)) 0x10
  let out := tensorRaw q.desc0
  let a := tensorRaw q.srcA
  let _ ← needForm a ok
  need (veOutOk out && out.fmt ≠ .ai32 && (!t || (tensorRaw q.srcB).fmt = .lg16)) 0x10
  need (rowsOk a && a.rows ≤ out.count) 0x19
  needOut q out
  s.segsOk q (a.segs a.rows a.rowLen .read ++ (if t then (tensorRaw q.srcB).flatSegs 1 .read else [])
    ++ out.flatSegs a.rows .write ++ outputSegs out (out.rowsOf a.rows))
  let c ← veOut s q out false
  let ra := laneRows s q false a
  let tv := if useT then tempOf s q else some 0
  let rs := ra.1.zipIdx.map fun p => fn tv p.2 p.1
  return writeFlat s q out c (rs.map fun r => some r.1) (ra.2.flag (rs.foldl (fun f r => f.or r.2) .no))

/-- VE.SUM and VE.SUMSQ of a row under ARITH_CTL.INF (R271). -/
def sumRow (inf sq : Bool) (vs : List Val) : Res × Flags :=
  let t := laneSum inf (vs.map fun v => let x := v.toLin false; if sq then x.mul x else x)
  (.lin t.v, t.flags)

/-- VE.LSUM of a row (R272). -/
def lsumRow (s : State) (q : QOp) (r : Nat) (vs : List Val) : Res × Flags :=
  let y := logSum (sumDraw s q r) (vs.map fun v => some v.toLog)
  (lgRes y.1, y.2.flags)

/-- The y_i of a row with 16 fraction bits (R273); none with a NaN among the row. -/
def expRow (t : Int) (vs : List Val) : Option (List Int) := vs.mapM fun v => expLog v t 16

/-- S of a row: the log-sum of its y_i, saturated (R273, R274). -/
def logSumExp (s : State) (q : QOp) (r : Nat) (ys : List Int) : Int × Flags :=
  match (logSum (sumDraw s q r) (ys.map fun y => some (Lg.num false (y * 128)))).1 with
  | .num _ l => if 512 * 2 ^ 23 - 1 ≤ l then (512 * 2 ^ 23 - 1, .ovf) else (l, .no)
  | _ => (0, .no)

/-- VE.LSE of a row (R273). -/
def lseRow (s : State) (q : QOp) (t : Option Int) (r : Nat) (vs : List Val) : Res × Flags :=
  match t.bind fun k => expRow k vs with
  | none => (.nan, .no)
  | some ys => let y := logSumExp s q r ys; (lgRes (timesLn2 y.1 23), y.2)

/-- VE.SOFTMAX of a row (R273). -/
def softmaxRow (s : State) (q : QOp) (t : Option Int) (logout : Bool) (r : Nat) (vs : List Val) :
    List Res × Flags :=
  match t.bind fun k => expRow k vs with
  | none => (vs.map fun _ => .nan, .no)
  | some ys =>
    let y := logSumExp s q r ys
    (ys.map fun z => if logout then lgRes (timesLn2 (z * 128 - y.1) 23) else .log false (z * 128 - y.1) 23, y.2)

/-- VE.SOFTMAX (R273, R274). -/
def runSoftmax (s : State) (q : QOp) : State × Run := done s do
  let t := q.modf 25 1 = 0
  need (descOk q.desc0 && descOk q.srcA && (!t || descOk q.srcB)) 0x1F
  need (fmtOk q.desc0 && fmtOk q.srcA && (!t || fmtOk q.srcB)) 0x10
  let out := tensorRaw q.desc0
  let a := tensorRaw q.srcA
  let _ ← needForm a [.log, .single]
  need (veOutOk out && out.fmt ≠ .ai32 && (!t || (tensorRaw q.srcB).fmt = .lg16)) 0x10
  need (rowsOk a && a.rows = out.rows && a.rowLen = out.rowLen) 0x19
  needOut q out
  s.segsOk q (a.segs a.rows a.rowLen .read ++ (if t then (tensorRaw q.srcB).flatSegs 1 .read else [])
    ++ out.segs a.rows a.rowLen .write ++ outputSegs out a.rows)
  let c ← veOut s q out false
  let ra := laneRows s q false a
  let rs := ra.1.zipIdx.map fun p => softmaxRow s q (tempOf s q) (q.modf 24 1 = 1) p.2 p.1
  return writeFlat s q out c (rs.flatMap fun r => r.1.map some) (ra.2.flag (rs.foldl (fun f r => f.or r.2) .no))

/-- VE.MAXR and VE.MINR with their position output (R270, R411). -/
def runExtreme (s : State) (q : QOp) (mx : Bool) : State × Run := done s do
  need (descOk q.desc0 && descOk q.srcA && descOk q.srcB) 0x1F
  need (fmtOk q.desc0 && fmtOk q.srcA && fmtOk q.srcB) 0x10
  let out := tensorRaw q.desc0
  let a := tensorRaw q.srcA
  let p := tensorRaw q.srcB
  let f ← needForm a [.log, .single, .double, .int]
  need (veOutOk out && p.fmt = .u32 && p.layout = 0 && (f ≠ .int || out.fmt = .ai32)) 0x10
  need (rowsOk a && a.rows ≤ out.count && a.rows ≤ p.count) 0x19
  needOut q out
  s.segsOk q (a.segs a.rows a.rowLen .read ++ out.flatSegs a.rows .write ++ outputSegs out (out.rowsOf a.rows)
    ++ p.flatSegs a.rows .write)
  let c ← veOut s q out a.fmt.narrow
  let ra := laneRows s q false a
  let es := ra.1.map (extreme mx)
  let x := writeFlat s q out c (es.map fun e => some (match e.1 with
    | some v => v.res
    | none => .nan)) ra.2
  return es.zipIdx.foldl (fun x e => x.putElem (s.rd q) p (e.2 / p.rowLen) (e.2 % p.rowLen) e.1.2) x

/-! ### Candidates (R275 to R278) -/

/-- VE.TOPK (R275, R414). -/
def runTopk (s : State) (q : QOp) : State × Run := done s do
  need (descOk q.desc0 && descOk q.srcA) 0x1F
  need (fmtOk q.desc0 && fmtOk q.srcA) 0x10
  let out := tensorRaw q.desc0
  let a := tensorRaw q.srcA
  let f ← needForm a [.log, .single]
  need out.kindOk 0x18
  need (out.fmt = .cand && out.layout = 0) 0x10
  let k := bitsOf (q.param 0) 24 6 + 1
  let b := bitsOf (q.param 0) 0 24
  need (bitsOf (q.param 0) 30 34 = 0 && 1 ≤ a.rowLen && a.rowLen ≤ 2 ^ 24 && a.rows * k ≤ out.count) 0x19
  s.segsOk q (a.segs a.rows a.rowLen .read ++ out.flatSegs (a.rows * k) .write)
  let ra := laneRows s q false a
  let cs := ra.1.flatMap fun vs => Cand.top (f = .log) k
    (vs.zipIdx.map fun p => (⟨(b + p.2) % 2 ^ 24, candCode p.1, false⟩ : Cand))
  return cs.zipIdx.foldl (fun x p => x.putElem (s.rd q) out (p.2 / out.rowLen) (p.2 % out.rowLen) p.1.word)
    ((ra.2.only (.or .invalid .wrap)).flag (Cand.nans (f = .log) cs))

/-- VE.TOPKMERGE (R277, R414). -/
def runTopkmerge (s : State) (q : QOp) : State × Run := done s do
  need (descOk q.desc0 && descOk q.srcA) 0x1F
  need (fmtOk q.desc0 && fmtOk q.srcA) 0x10
  let out := tensorRaw q.desc0
  let a := tensorRaw q.srcA
  need (out.kindOk && a.kindOk) 0x18
  need (out.fmt = .cand && out.layout = 0 && a.fmt = .cand && a.layout = 0) 0x10
  let g := q.param 0
  let k := bitsOf g 24 6 + 1
  let m := bitsOf g 32 7
  let log := g.testBit 40
  need (bitsOf g 41 23 = 0 && bitsOf g 39 1 = 0 && bitsOf g 30 2 = 0 && bitsOf g 0 24 = 0
    && 2 ≤ m && m ≤ 64 && m * k ≤ a.count && k ≤ out.count) 0x19
  s.segsOk q (a.flatSegs (m * k) .read ++ out.flatSegs k .write)
  let cs := (List.range (m * k)).map fun i => Cand.ofWord log (a.code (s.rd q) (i / a.rowLen) (i % a.rowLen))
  let best := Cand.top log k cs
  return best.zipIdx.foldl (fun x p =>
    x.putElem (s.rd q) out (p.2 / out.rowLen) (p.2 % out.rowLen) p.1.word)
    ((({} : Run).flag (Cand.infinities log cs)).flag (Cand.nans log best))

/-! ### Combining (R279) -/

/-- Whether two lists of segments share a byte. -/
def segsMeet (a b : List Seg) : Bool :=
  a.any fun x => b.any fun y => x.addr < y.addr + y.len && y.addr < x.addr + x.len

/-- The extent of the outermost dimension. -/
def Tensor.outer (t : Tensor) : Nat :=
  match t.rank with
  | 1 => t.d0
  | 2 => t.d1
  | 3 => t.d2
  | _ => t.d3

/-- The bytes of elements [lo, lo + n) in flat order. -/
def Tensor.partSegs (t : Tensor) (lo n : Nat) : List Seg :=
  (List.range n).map fun i =>
    let p := t.pos ((lo + i) / t.rowLen) ((lo + i) % t.rowLen)
    runSeg t.fmt p.1 p.2 1 .read

/-- One fold of partials (R226, R279): log-sums for AL32, binary64 additions under ARITH_CTL.INF for AW64. -/
def combineFold (inf : Bool) (dr : Nat → Nat) : List Val → Val → Nat → Flags → Val × Flags
  | [], v, _, f => (v, f)
  | y :: r, v, j, f =>
    match v, y with
    | .log a, .log b =>
      let o := logAdd (fun _ _ _ => dr j) false ⟨0, 0, .no⟩ a b
      combineFold inf dr r (.log o.1) (j + 1) (f.or o.2.flags)
    | a, b =>
      let o := sum64 inf (a.toLin false) (b.toLin false)
      combineFold inf dr r (.lin o.1) (j + 1) (f.or o.2)

/-- VE.COMBINE (R279, R414). -/
def runCombine (s : State) (q : QOp) : State × Run := done s do
  need (descOk q.desc0 && descOk q.srcA) 0x1F
  need (fmtOk q.desc0 && fmtOk q.srcA) 0x10
  let out := tensorRaw q.desc0
  let a := tensorRaw q.srcA
  let f ← needForm a [.log, .double, .int]
  need (out.fmt = a.fmt && !a.hanked && !a.hasScales && !out.hanked) 0x10
  let g := q.param 0
  let m := bitsOf g 32 7
  let ord := bitsOf g 40 24
  let n := a.count / a.outer
  need (bitsOf g 0 32 = 0 && bitsOf g 39 1 = 0 && 2 ≤ m && m ≤ 64 && m = a.outer && out.count = n) 0x19
  need (!segsMeet (out.partSegs 0 n) (a.partSegs n (n * (m - 1)))) 0x19
  needOut q out
  s.segsOk q (a.flatSegs a.count .read ++ out.flatSegs n .write)
  let c ← veOut s q out false
  let ra := laneRead s q false a a.count
  let rs := (List.range n).map fun i =>
    let ps := (List.range m).map fun j => ra.1.getD (j * n + i) (.lin .zero)
    if f = .int then
      ps.tail.foldl (fun (v : Res × Flags) p => match v.1 with
        | .lin x => let o := wrap32 (laneInt (.lin x) + laneInt p) true; (o.1, v.2.or o.2)
        | _ => v) ((ps.headD (.lin .zero)).res, Flags.no)
    else
      let o := combineFold q.modes.inf (fun j => draw16 (s.seedOf q) 0xE4 q.step.toNat (elemCombine q.lspn (ord + j) i))
        ps.tail (ps.headD (.lin .zero)) 0 .no
      (o.1.res, o.2)
  return (writeFlat s q out { c with md := { c.md with rm := .rne } } (rs.map fun r => some r.1)
    ((({} : Run).take ra.2).flag (rs.foldl (fun f r => f.or r.2) .no))).only (.or .invalid .wrap)

/-! ### The quantiser outside the drain (R280 to R283, R417) -/

/-- VE.QZ (R280). -/
def runQz (s : State) (q : QOp) : State × Run := done s do
  need (descOk q.desc0 && descOk q.srcA) 0x1F
  need (fmtOk q.desc0 && fmtOk q.srcA) 0x10
  let out := tensorRaw q.desc0
  let a := tensorRaw q.srcA
  let _ ← needForm a [.log, .single, .double, .int]
  need (out.hanked || out.packed || out.hasScales) 0x18
  need (out.rows = a.rows && out.rowLen = a.rowLen) 0x19
  needOut q out
  s.segsOk q (a.segs a.rows a.rowLen .read ++ out.segs a.rows a.rowLen .write ++ outputSegs out a.rows)
  let c ← veOut s q out a.fmt.narrow
  let ra := laneRows s q false a
  return ra.1.zipIdx.foldl (fun x p => writeRow x (s.rd q) out c p.2 p.1 fun _ => .rne) ra.2

/-- VE.AMAX (R281). -/
def runAmax (s : State) (q : QOp) : State × Run := done s do
  need (descOk q.desc0 && descOk q.srcA) 0x1F
  need (fmtOk q.desc0 && fmtOk q.srcA) 0x10
  let out := tensorRaw q.desc0
  let a := tensorRaw q.srcA
  let _ ← needForm a [.log, .single]
  need (out.kindOk && (recordOf out).isSome) 0x18
  s.segsOk q (a.segs a.rows a.rowLen .read ++ recordSegs out)
  let ra := laneRows s q false a
  return { ra.2 with atoms := recordAtoms (recordOf out) (maxMag ra.1.flatten) a.count 0 0 false }

/-- VE.DQ (R282): hanks, double hanks and MX blocks to LG16 or FP32. -/
def runDq (s : State) (q : QOp) : State × Run := done s do
  need (descOk q.desc0 && descOk q.srcA) 0x1F
  need (fmtOk q.desc0 && fmtOk q.srcA) 0x10
  let out := tensorRaw q.desc0
  let a := tensorRaw q.srcA
  need a.kindOk 0x18
  need (formOf a).isSome 0x10
  need (a.hanked || a.fmt.isMx) 0x18
  need (out.layout = 0 && (out.fmt = .lg16 || out.fmt = .fp32)) 0x10
  need (out.rows = a.rows && out.rowLen = a.rowLen) 0x19
  needOut q out
  s.segsOk q (a.segs a.rows a.rowLen .read ++ out.segs a.rows a.rowLen .write)
  let c ← veOut s q out true
  let ra := laneRows s q true a
  return writeFlat s q out c (ra.1.flatMap fun r => r.map fun v => some v.res) ra.2

/-- VE.XPOSE (R283): formats that the reels do not transpose (R163). A block-scaled tensor is dequantised under R250 before it is
encoded again. An output of another shape than the transposed input's fails with VE_CFG (R264; log entry 103). -/
def runXpose (s : State) (q : QOp) : State × Run := done s do
  need (descOk q.desc0 && descOk q.srcA) 0x1F
  need (fmtOk q.desc0 && fmtOk q.srcA) 0x10
  let out := tensorRaw q.desc0
  let a := tensorRaw q.srcA
  need (a.kindOk && out.kindOk) 0x18
  let blocks := a.hanked || a.hasScales
  let wide := match a.fmt with
    | .fp32 | .f64 | .aw64 | .al32 | .ai32 | .u32 | .cand | .mask => true
    | _ => false
  need (out.fmt = a.fmt && out.layout = a.layout && (blocks || wide)) 0x10
  need (out.rows = a.rowLen && out.rowLen = a.rows) 0x19
  needOut q out
  s.segsOk q (a.segs a.rows a.rowLen .read ++ out.segs out.rows out.rowLen .write ++ outputSegs out out.rows)
  let c ← veOut s q out a.fmt.narrow
  if blocks then
    let ra := laneRows s q false a
    return (List.range out.rows).foldl (fun x i => writeRow x (s.rd q) out c i
      (ra.1.map fun r => r.getD i (.lin .zero)) fun _ => .rne) ra.2
  else
    return (List.range out.rows).foldl (fun x i => (List.range out.rowLen).foldl (fun x k =>
      x.putElem (s.rd q) out i k (a.code (s.rd q) k i)) x) {}

end Sys2Proof.Machine
end

