-- ==== Sys2Proof/Machine/ShutRun.lean ====
section
/-! DEFINITION. Scan records, shuttle slots and the distillation loss (R288 to R309, R415, R416, R422): what
SHUT.SCAN, SHUT.EMIT, SHUT.TAKE, SHUT.FREE and VE.KLTOPK do. -/

namespace Sys2Proof.Machine

/-- The device address of byte `i` of a tensor's elements in flat order, for elements of whole bytes. -/
def Tensor.byteAddr (t : Tensor) (i : Nat) : Nat :=
  let sz := max 1 (t.fmt.bits / 8)
  let p := t.pos (i / sz / t.rowLen) (i / sz % t.rowLen)
  p.1 + p.2 * sz + i % sz

/-- The bytes a tensor holds, for elements of whole bytes. -/
def Tensor.byteCount (t : Tensor) : Nat := t.count * (t.fmt.bits / 8)

/-- A little-endian number at byte `i` of a tensor's elements. -/
def Tensor.byteNat (t : Tensor) (rd : Nat → Byte) (i n : Nat) : Nat :=
  leNat ((List.range n).map fun k => rd (t.byteAddr (i + k)))

/-- Writes a little-endian number at byte `i` of a tensor's elements. -/
def Run.putTensor (x : Run) (t : Tensor) (i n v : Nat) : Run :=
  (leBytes n v).zipIdx.foldl (fun y p => y.put (t.byteAddr (i + p.2)) p.1) x

/-- The bytes [0, n) of a tensor's elements as segments, one for each row. -/
def Tensor.byteSegs (t : Tensor) (n : Nat) (w : Want) : List Seg :=
  t.flatSegs ((n + max 1 (t.fmt.bits / 8) - 1) / max 1 (t.fmt.bits / 8)) w

/-- Whether a tensor can hold records of bytes: plain elements of whole bytes. -/
def bytesOk (d : Line) : Bool := fmtOk d && (tensorRaw d).layout = 0 && 8 ≤ (tensorRaw d).fmt.bits
  && !(tensorRaw d).hasScales

/-- Adds a list to a value by log-sum additions, in list order (R291, R306). -/
def lsumFold (dr : Draws) : List Lg → Lg → SumSt → Lg × SumSt
  | [], v, st => (v, st)
  | y :: r, v, st => let o := logAdd dr false st v y; lsumFold dr r o.1 o.2

/-- The left fold of a list by log-sum additions: its first element is where it starts (R291, R306); zero for no element. -/
def lsumList (dr : Draws) (xs : List Lg) (st : SumSt) : Lg × SumSt :=
  match xs with
  | [] => (.zero, st)
  | x :: r => lsumFold dr r x st

/-- A log value of 23 fraction bits as a 34-bit field, two's complement Q10.23 (R289). -/
def q1023 (l : Int) : Nat := toBits l 34

/-- The role of a context is the given one (R287). -/
def roleIs (s : State) (q : QOp) (r : Role) : Bool := decide ((s.ctx q.lspn q.ctx).role = r)

/-- Whether every byte of the segments lies in a bobbin or a creel (R290). -/
def State.onChip (s : State) (q : QOp) (gs : List Seg) : Bool :=
  gs.all fun g => g.points.all fun a => match s.locate q.lspn q.ctx a with
    | some p => p.tier = 0 || p.tier = 4
    | none => true

/-- A saturated log-sum at 512 − 2^-23 with OVF (R274). -/
def satLog (g : Lg) : Lg × Flags :=
  match g with
  | .num n l => if 512 * 2 ^ 23 - 1 ≤ l then (.num n (512 * 2 ^ 23 - 1), .ovf) else (g, .no)
  | _ => (g, .no)

/-! ### SHUT.SCAN (R288 to R290) -/

/-- The scan record of one row: header, then candidates (R289). -/
def scanRecord (s : State) (q : QOp) (t : Int) (k b row : Nat) (vs : List Val) : List Nat :=
  match expRow t vs with
  | none =>
    -- a NaN logit: the flag is set, the candidates and U are undefined (R289, log entry 3)
    let f (i : Nat) : Nat := (Config.scanUndefined (vs.map candCode) i).toNat
    (f 0 % 2 ^ 35 + 2 ^ 35 + min k vs.length * 2 ^ 36) :: (List.range k).map fun i => f (i + 1)
  | some ys =>
    let all := ys.zipIdx
    let best := (all.foldl (fun (l : List (Int × Nat)) p =>
      let before := l.takeWhile fun o => p.1 ≤ o.1
      (before ++ p :: l.drop before.length).take k) [])
    let u := (logSum (sumDraw s q row) (all.map fun p =>
      if p ∈ best then none else some (.num false (p.1 * 128)))).1
    let head : Nat := match u with
      | .num _ l => q1023 l
      | _ => 2 ^ 34
    (head + best.length * 2 ^ 36) :: (best.map fun p => (b + p.2) % 2 ^ 24 * 2 ^ 40 + q1023 (p.1 * 128))
      ++ List.replicate (k - best.length) 0

/-- SHUT.SCAN (R288, R422). -/
def runScan (s : State) (q : QOp) : State × Run :=
  let g := q.param 0
  let k := bitsOf g 24 6 + 1
  let b := bitsOf g 0 24
  let a := tensorRaw q.desc0
  let out := tensorRaw q.srcA
  let chk : Except (Byte × Nat) Int := do
    need (descOk q.desc0 && descOk q.srcA) 0x1F
    need (fmtOk q.desc0 && bytesOk q.srcA) 0x10
    let _ ← needForm a [.log, .single]
    need (!roleIs s q .student && bitsOf g 48 16 = 0 && bitsOf g 30 2 = 0 && 1 ≤ a.rowLen && a.rowLen ≤ 2 ^ 24
      && a.rows * (8 + 8 * k) ≤ out.byteCount && s.onChip q (out.byteSegs (a.rows * (8 + 8 * k)) .write)) 0x1A
    let t ← match tempLog (bitsOf g 32 16) with
      | some t => .ok t
      | none => .error (0x1A, 0)
    s.segsOk q (a.segs a.rows a.rowLen .read ++ out.byteSegs (a.rows * (8 + 8 * k)) .write)
    return t
  match chk with
  | .error e => (s, Run.fail e.1 e.2)
  | .ok t =>
    let ra := laneRows s q false a
    (s, ra.1.zipIdx.foldl (fun x p =>
        (scanRecord s q t k b p.2 p.1).zipIdx.foldl (fun x w =>
          x.putTensor out (p.2 * (8 + 8 * k) + 8 * w.2) 8 w.1) x) ra.2)

/-! ### SHUT.EMIT (R291 to R295) -/

/-- One scan record as SHUT.EMIT reads it: U, the NaN flag and its real candidates (index, y). -/
structure ScanRec where
  u     : Lg
  nan   : Bool
  cands : List (Nat × Int)
  deriving DecidableEq, Repr, Inhabited

/-- Reads the scan record at byte `i` of a tensor (R289). -/
def readScan (t : Tensor) (rd : Nat → Byte) (k i : Nat) : ScanRec :=
  let h := t.byteNat rd i 8
  { u := if h.testBit 34 then .zero else .num false (sxt (h % 2 ^ 34) 34)
    nan := h.testBit 35
    cands := (List.range (min k (bitsOf h 36 7))).map fun n =>
      let c := t.byteNat rd (i + 8 + 8 * n) 8
      (c / 2 ^ 40, sxt (c % 2 ^ 34) 34) }

/-- Candidates in rank order: larger y first, ties to the lower index (R223). -/
def rankYs (cs : List (Nat × Int)) : List (Nat × Int) :=
  cs.foldl (fun l c =>
    let before := l.takeWhile fun o => c.2 < o.2 || (c.2 = o.2 && o.1 ≤ c.1)
    before ++ c :: l.drop before.length) []

/-- A soft-target record before its header fields (R291, R293). -/
structure Soft where
  ids   : List Nat
  lps   : List Nat
  resid : Nat
  fl    : Nat
  flags : Flags
  deriving DecidableEq, Repr, Inhabited

/-- Folds the scan records of one token into a soft-target record (R291, R293). -/
def softRecord (dr : Draws) (rn : Nat → Rnd) (k : Nat) (ls : List ScanRec) : Soft :=
  let glob := (rankYs (ls.flatMap (·.cands))).take k
  let ids := glob.map (·.1)
  if ls.any (·.nan) then ⟨ids, List.replicate 64 0xC000, 0xC0000000, 1, .invalid⟩
  else
    let lg (y : Int) : Lg := .num false y
    let m := lsumList dr (glob.map fun c => lg c.2) ⟨1, 0, .no⟩
    let one (l : ScanRec) (st : SumSt) : Lg × SumSt :=
      lsumFold dr ((l.cands.filter fun c => c ∉ glob).map fun c => lg c.2) l.u st
    let qs : Lg × SumSt := match ls with
      | [] => (Lg.zero, m.2)
      | l :: r => r.foldl (fun (a : Lg × SumSt) l =>
          let v := one l a.2
          logAdd dr false v.2 a.1 v.1) (one l m.2)
    let st := logAdd dr false qs.2 m.1 qs.1
    let sum := satLog st.1
    let sv : Int := match sum.1 with
      | .num _ l => l
      | _ => 0
    let lps := glob.zipIdx.map fun c => encLogBits (lg (c.1.2 - sv)) 23 8 16 (rn c.2)
    let res : Nat × Flags := match qs.1 with
      | .num _ l => encLogBits (lg (l - sv)) 23 23 32 .rne
      | _ => (0x40000000, .no)
    let allin := qs.1 = .zero
    let resz := !allin && res.1 = 0x40000000
    ⟨ids, lps.map (·.1) ++ List.replicate (64 - lps.length) 0x4000, res.1,
      (if allin then 2 else 0) + (if resz then 4 else 0),
      lps.foldl (fun f l => f.or l.2) (sum.2.or (res.2.or st.2.flags))⟩

/-- The sum of the little-endian 16-bit words of bytes [61:0] and [383:64] of a slot, modulo 65,536 (R295). -/
def slotSum (bs : List Byte) : Nat :=
  let w (i : Nat) : Nat := hw bs (2 * i)
  (((List.range 31).map w).sum + ((List.range 160).map fun i => w (32 + i)).sum) % 65536

/-- The 384 bytes of a slot (R295). -/
def slotBytes (sqn step tag temp : Nat) (r : Soft) : List Byte :=
  let ids := r.ids ++ List.replicate (64 - r.ids.length) 0xFFFFFF
  let body := leBytes 4 sqn ++ leBytes 4 step ++ leBytes 2 (tag % 1024) ++ leBytes 6 (tag / 65536)
    ++ leBytes 2 temp ++ leBytes 1 r.ids.length ++ leBytes 1 r.fl ++ leBytes 4 r.resid ++ List.replicate 38 0
  let tail := (ids.flatMap (leBytes 3)) ++ r.lps.flatMap (leBytes 2)
  body ++ leBytes 2 (slotSum (body ++ [0, 0] ++ tail)) ++ tail

/-- The shuttle entries that SEL ranks: those that name the spindle as PSPN with DIR = 1 (R422). -/
def selEntry (b : Job) (lspn sel : Nat) : Option (Nat × ShEnt) :=
  match b.pair with
  | some p => ((p.ents.zipIdx.filter fun e => e.1.dir && e.1.pspn = lspn).map fun e => (e.2, e.1))[sel]?
  | none => none

/-- The creel key of a shuttle slot (R294). -/
def slotKey (frame sqn : Nat) : Nat := keyOf 3 (frame * 2 ^ 25 + 0x1E80000 + 384 * (sqn % 4096))

/-- The rows that SHUT.EMIT takes from its row tag tensor (R422). -/
def emitRows (q : QOp) : Nat := (tensorRaw q.srcA).byteCount / 8

/-- The credits of a producing entry: 4,096 − (PROD − FREED), PROD as far as the producer has taken credits
(R299). -/
def Producer.credits (p : Producer) : Nat := 4096 - (BitVec.ofNat 16 p.sqn.toNat - p.freed).toNat

/-- The checks of SHUT.EMIT (R287, R291, R422): the entry that SEL picks. -/
def emitCheck (s : State) (q : QOp) : Except (Byte × Nat) (Nat × ShEnt) := do
  let g := q.param 0
  let k := bitsOf g 0 6 + 1
  let m := bitsOf g 8 7
  need (descOk q.desc0 && descOk q.srcA) 0x1F
  need (bytesOk q.desc0 && bytesOk q.srcA) 0x10
  let scans := tensorRaw q.desc0
  let rows := emitRows q
  let need1 := rows * m * (8 + 8 * k)
  need (!roleIs s q .student && bitsOf g 34 30 = 0 && bitsOf g 15 1 = 0 && bitsOf g 6 2 = 0 && 1 ≤ m && m ≤ 64
    && 1 ≤ rows && rows ≤ 1024 && need1 ≤ scans.byteCount && (tempLog (bitsOf g 16 16)).isSome
    && s.onChip q (scans.byteSegs need1 .read)) 0x1A
  let e ← match (s.job? q.job).bind fun b => selEntry b q.lspn (bitsOf g 32 2) with
    | some e => .ok e
    | none => .error (0x1A, 0)
  s.segsOk q (scans.byteSegs need1 .read ++ (tensorRaw q.srcA).byteSegs (8 * rows) .read)
  return e

/-- SHUT.EMIT once it has its credits (R291, R295, R299, R303). -/
def runEmit (s : State) (q : QOp) : State × Run :=
  match emitCheck s q, s.job? q.job with
  | .ok (i, e), some b =>
    let g := q.param 0
    let k := bitsOf g 0 6 + 1
    let m := bitsOf g 8 7
    let scans := tensorRaw q.desc0
    let tags := tensorRaw q.srcA
    let rows := emitRows q
    let p := b.prods.get i {}
    let local_ := e.peer = s.coord
    let x := (List.range rows).foldl (fun (x : Run) r =>
      let ls := (List.range m).map fun j => readScan scans (s.rd q) k ((r * m + j) * (8 + 8 * k))
      let soft := softRecord (inOrder (sumDraw s q r)) (fun n => veRnd s q q.modes.rm (64 * r + n)) k ls
      let sqn := (p.sqn.toNat + r) % 2 ^ 32
      let bs := slotBytes sqn (q.step.toNat % 2 ^ 32) (tags.byteNat (s.rd q) (8 * r) 8) (bitsOf g 16 16) soft
      let x := x.flag soft.flags
      if local_ then { x with phys := x.phys ++ bs.zipIdx.map fun c => (slotKey e.sframe sqn + c.2, c.1) }
      else { x with sends := x.sends ++ [{ dst := e.peer, tc := 2, type := 0, fjob := b.fjob, xt := e.sframe, tag := sqn + q.step.toNat % 2 ^ 32 * 2 ^ 32, data := bs }] }) {}
    (s.setJob q.job { b with prods := b.prods.set i { p with sqn := p.sqn + BitVec.ofNat 32 rows } {} },
      { x with prod := if local_ then some (e.sframe, rows) else none })
  | .error e, _ => (s, Run.fail e.1 e.2)
  | _, none => (s, Run.fail 0x1A 0)

/-! ### SHUT.TAKE and SHUT.FREE (R301, R387) -/

/-- Bytes of a window descriptor (R387). -/
def windowBytes (src first count base slotsz nslot : Nat) : List Byte :=
  leBytes 1 0x21 ++ leBytes 1 src ++ [0, 0] ++ leBytes 4 first ++ leBytes 2 count ++ List.replicate 6 0
    ++ leBytes 8 base ++ leBytes 4 slotsz ++ leBytes 4 nslot ++ List.replicate 32 0

/-- The device address of descriptor n of a context's file (R384). -/
def descAddr (ctx n : Nat) : Nat := 2 ^ 56 + 0x9F0000 + 0x4000 * ctx + 64 * n

/-- The count c of a SHUT.TAKE or SHUT.FREE. -/
def QOp.shutCount (q : QOp) : Nat := q.modf 0 11

/-- SHUT.TAKE once enough records are there (R301). The window's BASE is the shuttle in the home creel. -/
def runTake (s : State) (q : QOp) : State × Run :=
  let c := q.shutCount
  let f := s.hframe q.lspn
  let x := s.frame f
  if roleIs s q .teacher || c = 0 || 1024 < c || !x.shctl.toNat.testBit 31 then (s, Run.fail 0x1A 0)
  else
    let first := match s.job? q.job with
      | some b => (b.taken.get f 0 : Nat)
      | none => x.taken.toNat
    let s := s.setFrame f { x with taken := x.taken + BitVec.ofNat 16 c }
    (s.modJob q.job fun b => { b with taken := b.taken.set f ((first + c) % 2 ^ 32) 0 },
      ({} : Run).putBytes (descAddr q.ctx q.form.desc.toNat)
        (windowBytes 0 first c (2 ^ 56 + 0x20000000 + 0x1E80000) 384 4096))

/-- The producing entries of a job that feed a frame of this module (R299). -/
def localEntries (s : State) (b : Job) (f : Nat) : List Nat :=
  match b.pair with
  | some p => (p.ents.zipIdx.filter fun e => e.1.dir && e.1.sframe = f && e.1.peer = s.coord).map (·.2)
  | none => []

/-- SHUT.FREE (R301): a local producer sees the new FREED at once (R299). -/
def runFree (s : State) (q : QOp) : State × Run :=
  let c := q.shutCount
  let f := s.hframe q.lspn
  let x := s.frame f
  if roleIs s q .teacher || c = 0 || 1024 < c || !x.shctl.toNat.testBit 31 || (x.taken - x.freed).toNat < c then
    (s, Run.fail 0x1A 0)
  else
    let y := { x with freed := x.freed + BitVec.ofNat 16 c }
    let s := s.setFrame f y
    (s.modJob q.job fun b => { b with prods := (localEntries s b f).foldl (fun t i =>
      t.set i { t.get i {} with freed := y.freed } {}) b.prods }, {})

/-! ### VE.KLTOPK (R305 to R309) -/

/-- ln 2 rounded to binary64 (R306). -/
def ln2f64 : Lin := .fin false 0x162E42FEFA39EF (-53)

/-- A soft-target record read back from its slot (R295). -/
structure SlotRec where
  bytes : List Byte
  deriving DecidableEq, Repr, Inhabited

namespace SlotRec
/-- Bytes of the record as a number. -/
def nat (r : SlotRec) (i n : Nat) : Nat := leNat ((r.bytes.drop i).take n)
/-- k′ (at most 64). -/
def k (r : SlotRec) : Nat := min 64 (r.nat 18 1)
/-- The candidates' indices. -/
def ids (r : SlotRec) : List Nat := (List.range r.k).map fun n => r.nat (64 + 3 * n) 3
/-- log2 p_n of a candidate with 23 fraction bits; zero or NaN classes as they stand. -/
def lp (r : SlotRec) (n : Nat) : Lg :=
  match (decodeElem .lg16 false (r.nat (256 + 2 * n) 2)).1 with
  | .log g => g
  | .lin _ => .nan
/-- The residual log-mass; zero with ALLIN or RESZ (R295). -/
def rho (r : SlotRec) : Lg :=
  if (r.nat 19 1).testBit 1 || (r.nat 19 1).testBit 2 then .zero
  else match (decodeElem .al32 false (r.nat 20 4)).1 with
    | .log g => g
    | .lin _ => .nan
end SlotRec

/-- The check of one record (R309): its code, or 0. -/
def slotCheck (r : SlotRec) (step : Nat) (tag : Option (Nat × Nat × Nat)) (v : Nat) : Byte :=
  if r.nat 62 2 ≠ slotSum r.bytes then 0x42
  else if r.nat 4 4 ≠ step % 2 ^ 32 then 0x51
  else if (match tag with
    | some t => t.1 % 1024 ≠ r.nat 8 2 % 1024 || t.2.1 ≠ r.nat 10 2 || t.2.2 ≠ r.nat 12 4
    | none => false) then 0x51
  else if r.ids.any fun i => v ≤ i then 0x52
  else if !r.ids.Nodup then 0x52
  else 0

/-- A log as the exact linear number of its log value. -/
def logAsLin (l : Int) : Lin := .ofInt l (-23)

/-- The loss of one row in binary64 (R306): none where q_ρ is zero and ρ is not, which the rule leaves open. -/
def klLoss (r : SlotRec) (ys : List Int) (sr : Lg) (sq : Int) : Option Lin :=
  let base := (List.range r.k).foldl (fun loss n =>
    match r.lp n with
    | .num _ l => add64 loss ((logLin76 (.num false l)).mul (logAsLin (l - (ys.getD (r.ids.getD n 0) 0 * 128 - sq))))
    | .zero => loss
    | .nan => .nan) Lin.zero
  match r.rho, sr with
  | .num _ lr, .num _ a => some (add64 base ((logLin77 (.num false lr)).mul (logAsLin (lr - (a - sq)))))
  | .num _ _, _ => none
  | .nan, _ => some .nan
  | .zero, _ => some base

/-- The gradient of one element (R305, R306): exact until its write. -/
def klGrad (r : SlotRec) (y : Int) (j : Nat) (sr : Lg) (sq : Int) (gt : Lg) : Lin :=
  let q := logLin77 (.num false (y * 128 - sq))
  let pt : Lin := match r.ids.findIdx? (· = j) with
    | some n => (match r.lp n with
      | .num _ l => logLin76 (.num false l)
      | .zero => .zero
      | .nan => .nan)
    | none => (match r.rho, sr with
      | .num _ lr, .num _ a => logLin77 (.num false (lr + y * 128 - a))
      | .nan, _ => .nan
      | _, _ => .zero)
  (q.sub pt).mul (logLin76 gt)

/-- log2 (G / T) of R306, with G's sign; both are LG16 values. -/
def klScale (g t : Nat) : Lg :=
  match (decodeElem .lg16 false g).1, (decodeElem .lg16 false t).1 with
  | .log (.num n a), .log (.num _ b) => .num n (a - b)
  | .log .zero, _ => .zero
  | _, _ => .nan

/-- One row of VE.KLTOPK: the loss, or the 32 bits it is where R306 leaves it open (log entry 3), the gradient and the flags of
the sums. -/
def klRow (s : State) (q : QOp) (r : SlotRec) (g row : Nat) (vs : List Val) : (Lin ⊕ BitVec 32) × List Lin × Flags :=
  let bad := (Sum.inl Lin.nan, vs.map fun _ => Lin.nan, Flags.no)
  match (if (r.nat 19 1).testBit 0 then none else tempLog (r.nat 16 2)).bind fun t => expRow t vs with
  | none => bad
  | some ys =>
    let dr := inOrder (sumDraw s q row)
    let st := lsumList dr (r.ids.map fun i => Lg.num false (ys.getD i 0 * 128)) ⟨1, 0, .no⟩
    let leaves := ys.zipIdx.map fun p => if p.2 ∈ r.ids then none else some (Lg.num false (p.1 * 128))
    let sr := logSumGroups dr false ((leaves.length + 15) / 16) leaves .zero st.2
    let tot := satLog (logAdd dr false sr.2 st.1 sr.1).1
    let sq : Int := match tot.1 with
      | .num _ l => l
      | _ => 0
    ((match klLoss r ys sr.1 sq with
        | some l => .inl l
        | none => .inr (Config.klLoss r.bytes ys)), ys.zipIdx.map fun p => klGrad r p.1 p.2 sr.1 sq (klScale g (r.nat 16 2)), tot.2)

/-- VE.KLTOPK (R305 to R309, R415, R416). -/
def runKltopk (s : State) (q : QOp) : State × Run :=
  let out := tensorRaw q.desc0
  let a := tensorRaw q.srcA
  let win := q.srcB
  let rows := tensorRaw (q.desc (q.modf 0 8))
  let count := lineBytes win 9 8
  let first := lineBytes win 7 4
  let slotAt (j : Nat) : Nat := lineBytes win 23 16 + lineBytes win 27 24 * ((first + j) % max 1 (lineBytes win 31 28))
  let tag := q.modf 25 1 = 1
  let chk : Except (Byte × Nat) OutCfg := do
    need (descOk q.desc0 && descOk q.srcA && lineBytes win 0 0 = 0x21 && descOk (q.desc (q.modf 0 8))) 0x1F
    need (fmtOk q.desc0 && fmtOk q.srcA && bytesOk (q.desc (q.modf 0 8)) && veOutOk out) 0x10
    let _ ← needForm a [.log, .single]
    need (16 + 16 * count ≤ rows.byteCount && 1 ≤ count && count ≤ a.rows && a.rowLen ≤ 2 ^ 24
      && out.rows = a.rows && out.rowLen = a.rowLen) 0x19
    need (!roleIs s q .teacher && lineBytes win 1 1 = 0) 0x1A
    needOut q out
    s.segsOk q (a.segs count a.rowLen .read ++ ((List.range count).map fun j => ⟨slotAt j, 384, .read⟩)
      ++ rows.byteSegs (16 + 16 * count) .write ++ rows.byteSegs (16 + 16 * count) .read
      ++ out.segs count a.rowLen .write ++ outputSegs out count)
    veOut s q out false
  match chk with
  | .error e => (s, Run.fail e.1 e.2)
  | .ok c =>
    let rd := s.rd q
    let g := rows.byteNat rd 0 2
    let ra := laneRows s q false a
    (s, (List.range count).foldl (fun (x : Run) j =>
        let r : SlotRec := ⟨(List.range 384).map fun i => rd (slotAt j + i)⟩
        let e := 16 + 16 * j
        let t := if tag then some (rows.byteNat rd e 2, rows.byteNat rd (e + 2) 2, rows.byteNat rd (e + 4) 4) else none
        let code := slotCheck r q.step.toNat t a.rowLen
        if code ≠ 0 then x.note code (slotAt j)
        else
          let o := klRow s q r g j (ra.1.getD j [])
          let x := writeRow (x.flag o.2.2) rd out c j (o.2.1.map Val.lin) fun i =>
            veRnd s q q.modes.rm (j * a.rowLen + i)
          match o.1 with
          | .inr v => x.putTensor rows (e + 8) 4 v.toNat
          | .inl l =>
            let w := fpEncode ⟨8, 23, 127, .ieee, true⟩ { q.modes with rm := .rne } false (l.mul ln2f64) .rne
            (x.putTensor rows (e + 8) 4 w.1).flag w.2) ra.2)

end Sys2Proof.Machine
end

