-- ==== Sys2Proof/Machine/PipeRun.lean ====
section
/-! DEFINITION. Pipeline messages (R364 to R367, R420): what REEL.PSEND and SYNC.PRECV do. -/

namespace Sys2Proof.Machine

/-- CH of a pipeline operation (R420). -/
def QOp.ch (q : QOp) : Nat := q.modf 19 5

/-- MB of a pipeline operation (R420). -/
def QOp.mb (q : QOp) : Nat := q.param 0 % 1024

/-- The channel that an operation names, where the job has it (R420). -/
def State.chan? (s : State) (q : QOp) : Option Chan := (s.job? q.job).bind fun b => b.chans[q.ch]?

/-- The state with a job's channel replaced. -/
def State.setChan (s : State) (j n : Nat) (c : Chan) : State :=
  s.modJob j fun b => { b with chans := b.chans.set n c }

/-- The bytes of a tensor's rows in row order, each row's scale bytes after its elements (log entry 17). -/
def Tensor.rowBytes (t : Tensor) (rd : Nat → Byte) : List Byte :=
  (t.segs t.rows t.rowLen .read).flatMap fun g => (List.range g.len).map fun i => rd (g.addr + i)

/-- The number of bytes of `Tensor.rowBytes`. -/
def Tensor.rowSize (t : Tensor) : Nat := ((t.segs t.rows t.rowLen .read).map (·.len)).sum

/-- Whether message `mb` and every earlier one of the step have arrived whole (R471). -/
def Chan.visible (c : Chan) (mb : Nat) : Bool := (List.range (mb + 1)).all fun i => i ∈ c.arrived

/-- The packets of one message (R366, R468, R469). -/
def messagePackets (c : Chan) (fjob step mb : Nat) (data : List Byte) : List Send :=
  let ps := pieces 262145 0 data
  ps.map fun p =>
    { dst := c.peer, tc := 3, type := if c.down then 1 else 0, fjob := fjob
      flags := if p.1 + 1 = ps.length then 1 else 0, xt := c.peerCh
      tag := step % 2 ^ 32 + mb * 2 ^ 32 + p.1 * 2 ^ 42, data := p.2 }

/-- REEL.PSEND (R366, R367, R420). -/
def runPsend (s : State) (q : QOp) : State × Run :=
  let t := tensorRaw q.desc0
  let chk : Except (Byte × Nat) Chan := do
    need (descOk q.desc0) 0x1F
    let c ← match s.chan? q with
      | some c => .ok c
      | none => .error (0x1D, 0)
    need (fmtOk q.desc0) 0x10
    need t.kindOk 0x18
    need (q.param 0 / 1024 = 0 && t.rowSize ≤ c.slotsz) 0x1D
    need (q.mb = c.sent && q.mb < c.nmb) 0x54
    need (!c.down || c.visible (c.nmb - 1)) 0x55
    s.segsOk q (t.segs t.rows t.rowLen .read)
    return c
  match chk with
  | .error e => (s, Run.fail e.1 e.2)
  | .ok c =>
    let fjob := match s.job? q.job with
      | some b => b.fjob
      | none => 0
    (s.setChan q.job q.ch { c with sent := c.sent + 1 },
      { sends := messagePackets c fjob q.step.toNat q.mb (t.rowBytes (s.rd q)) })

/-- SYNC.PRECV once its message is written (R367, R387, R420). -/
def runPrecv (s : State) (q : QOp) : State × Run :=
  match s.chan? q with
  | none => (s, Run.fail 0x1D 0)
  | some c =>
    if q.param 0 / 1024 ≠ 0 then (s, Run.fail 0x1D 0)
    else if q.mb ≠ c.rcvd ∨ c.nmb ≤ q.mb then (s, Run.fail 0x54 0)
    else
      (s.setChan q.job q.ch { c with rcvd := c.rcvd + 1 },
        ({} : Run).putBytes (descAddr q.ctx q.form.desc.toNat) (windowBytes 1 q.mb 1 c.ring c.slotsz c.nslot))

end Sys2Proof.Machine
end

