-- ==== Sys2Proof/Machine/ReelRun.lean ====
section
/-! DEFINITION. The reel engines (R162, R163, R249, R444 to R446) and the draws of the Twist engine (R356 to
R358, R421). -/

namespace Sys2Proof.Machine

/-- A reel descriptor read out (R444). -/
structure ReelCfg where
  outb  : Bool
  mode  : Nat
  xpose : Bool
  src   : Line
  dst   : Line
  idx   : Line
  count : Nat
  deriving DecidableEq, Repr, Inhabited

/-- Reads the reel descriptor that an operation captured. -/
def reelCfg (q : QOp) : ReelCfg :=
  let d := q.desc0
  let op := lineBytes d 1 1
  { outb := op.testBit 0, mode := bitsOf op 1 3, xpose := op.testBit 4
    src := q.desc (lineBytes d 2 2), dst := q.desc (lineBytes d 3 3), idx := q.desc (lineBytes d 4 4)
    count := lineBytes d 11 8 }

/-- Formats that a reel may transpose (R162); every other one is XPOSE_FMT (R163). DESIGN CHOICE (log entry 104): FP4 and IN4 in
element layout stand in neither list; they are no elements of 8 or 16 bits, and XPOSE_FMT is the code here. -/
def xposeOk (t : Tensor) : Bool :=
  t.layout = 0 && (match t.fmt with
    | .lg16 | .lg8 | .bf16 | .fp16 | .e4m3 | .e5m2 | .int8 | .raw => true
    | _ => false)

/-- Whether an address lies in the bobbin or the creel window (R444). -/
def inWindow (a : Nat) : Bool := rangeOf a = some 1 || rangeOf a = some 2

/-- Whether every byte of a tensor, its scales among them, lies in the bobbin or the creel window (R444). -/
def Tensor.inWindows (t : Tensor) : Bool :=
  (t.segs t.rows t.rowLen .read).all fun g => inWindow g.addr && inWindow (g.addr + g.len - 1)

/-- The KOFF that a move needs at both ends (R445). -/
def moveKoff (t : Tensor) : Bool :=
  if t.hanked then t.koff % 192 = 0 else if t.hasScales then t.koff % 32 = 0 else true

/-- The checks of a reel descriptor's fields against each other (R444, R445); none means that they fit. -/
def reelFits (c : ReelCfg) : Bool :=
  let a := tensorRaw c.src
  let b := tensorRaw c.dst
  let same := a.fmt = b.fmt && a.layout = b.layout
  let rows := a.rowLen = b.rowLen && a.rows = b.rows
  let ix := tensorRaw c.idx
  (if c.outb then a.inWindows else b.inWindows) && c.mode ≤ 5 && (!c.xpose || c.mode = 0)
  && (match c.mode with
    | 0 => same && moveKoff a && moveKoff b
        && (if c.xpose then b.rows = a.rowLen && b.rowLen = a.rows else rows)
    | 1 => same && moveKoff a && moveKoff b && a.rowLen = b.rowLen && ix.fmt = .u32 && ix.layout = 0
        && 1 ≤ c.count && c.count ≤ 2 ^ 24 && c.count ≤ ix.count && c.count ≤ b.rows
    | 2 => same && moveKoff a && moveKoff b && a.rowLen = b.rowLen && ix.fmt = .u32 && ix.layout = 0
        && 1 ≤ c.count && c.count ≤ 2 ^ 24 && c.count ≤ ix.count && c.count ≤ a.rows
    | 3 => rows && a.layout = 0 && b.hanked && (match a.fmt with
        | .lg16 | .lg8 | .fp32 | .bf16 | .fp16 => true
        | _ => false)
    | 4 => rows && a.hanked && b.layout = 0 && b.fmt = (if a.fmt = .ng4 then .lg16 else .fp32)
    | _ => rows && a.fmt = .ng4 && b.fmt = .ng4 && a.hanked && b.hanked && a.layout ≠ b.layout
        && a.koff % 192 = 0 && b.koff % 192 = 0)

/-- Moves one row (R445): elements, then its scale bytes; hanks whole. -/
def moveRow (rd : Nat → Byte) (a b : Tensor) (i j : Nat) (x : Run) : Run :=
  if a.hanked then
    (List.range (a.hankSize * ((a.rowLen + 191) / 192))).foldl (fun x k =>
      x.put (b.rowAddr j 0 + b.hankSize * (b.koff / 192) + k)
        (rd (a.rowAddr i 0 + a.hankSize * (a.koff / 192) + k))) x
  else
    let x := (List.range a.rowLen).foldl (fun x c => x.putElem rd b j c (a.code rd i c)) x
    if a.hasScales then
      (List.range ((a.rowLen + 31) / 32)).foldl (fun x k =>
        x.put (b.scaleAddr j (32 * k)) (rd (a.scaleAddr i (32 * k)))) x
    else x

/-- Moves rows reached through an index vector, in order (R436, R446); `src` tells which end is indexed. -/
def moveIndexed (s : State) (q : QOp) (a b ix : Tensor) (src : Bool) : List Nat → Run → Run
  | [], x => x
  | j :: r, x =>
    let i := ix.code (s.rd q) (j / ix.rowLen) (j % ix.rowLen)
    let t := if src then a else b
    if i = 0xFFFFFFFF ∨ t.rows ≤ i then moveIndexed s q a b ix src r x
    else match (t.rowSegs i t.rowLen (if src then .read else .write)).findSome? (s.checkSeg q.lspn q.ctx) with
      | some e => { x with code := e.1, addr := e.2 }
      | none => moveIndexed s q a b ix src r (if src then moveRow (s.rd q) a b i j x else moveRow (s.rd q) a b j i x)

/-- REHANK of one hank (R249): its blocks are decoded and encoded again under their own scale codes. -/
def rehank (c : OutCfg) (src : List Byte) (sdbl ddbl : Bool) (rn : Nat → Nat → Rnd) : List Byte × Block × Byte :=
  let h := readHank src .ng4 sdbl
  let sc (j : Nat) : Nat := if h.2 ≠ 0 then 255 else hb src (96 + j)
  let nanBlocks := (List.range 6).filter fun j => sc j = 255
  let blocks := ((List.range 6).filter fun j => 1 ≤ sc j && sc j ≤ 254).map fun j =>
    (j, ((h.1.drop (32 * j)).take 32).map fun e => some e.val)
  let o := putBlocks .ng4 c ddbl rn (fun j => some (sc j)) blocks (freshHank .ng4 ddbl) ⟨0, [], [], .no, 0, false⟩
  let bs := nanBlocks.foldl (fun bs j => setAt bs (96 + j) [255]) o.1
  (sealHank bs ddbl, { o.2 with flags := if nanBlocks = [] then o.2.flags else o.2.flags.or .invalid }, h.2)

/-- A Run that goes on from `x` with the flags and the fault of another one. -/
def Run.above (y x : Run) : Run :=
  let z := (x.flag y.flags).note y.code y.addr
  { z with chks := z.chks ++ y.chks }

/-- What a reel moves once its checks have passed (R445). Its flags are INVALID by unpacking and those of packing, no others
(R419). -/
def reelMove (s : State) (q : QOp) (c : ReelCfg) (o : OutCfg) : Run :=
  let a := tensorRaw c.src
  let b := tensorRaw c.dst
  let rd := s.rd q
  let subn := q.modes.subn
  match c.mode with
  | 0 =>
    if c.xpose then
      (List.range b.rows).foldl (fun x i => (List.range b.rowLen).foldl (fun x k =>
        x.putElem rd b i k (a.code rd k i)) x) {}
    else (List.range a.rows).foldl (fun x i => moveRow rd a b i i x) {}
  | 1 => moveIndexed s q a b (tensorRaw c.idx) true (List.range c.count) {}
  | 2 => moveIndexed s q a b (tensorRaw c.idx) false (List.range c.count) {}
  | 3 =>
    (List.range a.rows).foldl (fun x i =>
      let r := a.readRow rd subn i a.rowLen
      writeRow (((({} : Run).take r).only .invalid).above x) rd b o i (r.els.map El.val) fun _ => .rne) {}
  | 4 =>
    ((List.range a.rows).foldl (fun x i =>
      let ls := loadEls true a.fmt q.modes (a.readRow rd subn i a.rowLen)
      writeRow (x.take ls.2) rd b o i ls.1 fun _ => .rne) {}).only .invalid
  | _ =>
    (List.range a.rows).foldl (fun x i => (List.range ((a.rowLen + 191) / 192)).foldl (fun x h =>
      let k := rehank o (a.hankBytes rd i (a.koff / 192 + h)) (a.layout = 2) (b.layout = 2)
        (fun j e => qzRnd o b.base i (b.koff + 192 * h + 32 * j + e))
      let at0 := b.rowAddr i 0 + b.hankSize * (b.koff / 192 + h)
      ((x.putBytes at0 k.1).flag k.2.1.flags).note k.2.2 (a.rowAddr i 0 + a.hankSize * (a.koff / 192 + h))) x) {}

/-- REEL.IN and REEL.OUT (R419, R444 to R446). DESIGN CHOICE (log entry 104): where a descriptor breaks both R163 and R444 or R445,
no rule says which code it reports; both ends are tested for XPOSE_FMT first. -/
def runReel (s : State) (q : QOp) : State × Run :=
  (s, OpR.run do
    need (lineBytes q.desc0 0 0 = 0x11) 0x1F
    let c := reelCfg q
    let ixd := c.mode = 1 || c.mode = 2
    need (descOk c.src && descOk c.dst && (!ixd || descOk c.idx)) 0x1F
    need (fmtOk c.src && fmtOk c.dst && (!ixd || fmtOk c.idx)) 0x10
    let a := tensorRaw c.src
    let b := tensorRaw c.dst
    need (!c.xpose || (xposeOk a && xposeOk b)) 0x12
    need (a.kindOk && b.kindOk) 0x18
    need (reelFits c) 0x1F
    need (c.mode ≠ 3 || outOk q.qz b) 0x18
    s.segsOk q (match c.mode with
      | 1 => (tensorRaw c.idx).flatSegs c.count .read ++ b.segs c.count b.rowLen .write
      | 2 => (tensorRaw c.idx).flatSegs c.count .read ++ a.segs c.count a.rowLen .read
      | 3 => a.segs a.rows a.rowLen .read ++ b.segs b.rows b.rowLen .write ++ outputSegs b b.rows
      | _ => a.segs a.rows a.rowLen .read ++ b.segs b.rows b.rowLen .write)
    let o ← if c.mode = 3 then outCfg (s.rd q) b q.modes a.fmt.narrow q.qz (s.seedOf q) q.step.toNat
      else .ok ⟨q.modes, true, 254, none, s.seedOf q, q.step.toNat, .no⟩
    return reelMove s q c o)

/-! ### The Twist engine (R356 to R358, R421) -/

/-- The kinds of program draw (R356). -/
inductive TwKind where
  | bits | mask | unif
  deriving DecidableEq, Repr, Inhabited

/-- Output elements per draw (R356). -/
def TwKind.q : TwKind → Nat
  | .bits => 1
  | .mask => 8
  | .unif => 4

/-- TW.BITS, TW.MASK and TW.UNIF (R356, R421). The parameter words are s[SP], s[SE], s[SE + 1], s[SN]. -/
def runTw (s : State) (q : QOp) (k : TwKind) : State × Run :=
  (s, OpR.run do
    need (descOk q.desc0) 0x1F
    let t := tensorRaw q.desc0
    need t.kindOk 0x18
    let stream := bitsOf (q.param 0) 48 16
    let purpose := bitsOf (q.param 0) 40 8
    let keep := bitsOf (q.param 0) 24 16
    let e0 := q.param 1 + 2 ^ 64 * (q.param 2 % 256)
    let n := q.param 3
    let fits := fmtOk q.desc0 && t.layout = 0 && inWindow t.base && (match k with
      | .bits => t.fmt = .raw && 16 * n ≤ t.count
      | .mask => t.fmt = .mask && n ≤ t.count
      | .unif => t.fmt = .fp32 && n ≤ t.count)
    need (bitsOf (q.param 0) 0 24 = 0 && q.param 2 / 256 = 0 && purpose < 0xE0 && 1 ≤ n && n ≤ 2 ^ 24
      && e0 + (n + k.q - 1) / k.q ≤ 2 ^ 72 && fits) 0x1B
    s.segsOk q (t.flatSegs (if k = .bits then 16 * n else n) .write)
    let key := (s.seedOf q % 2 ^ 48) * 2 ^ 16 + stream
    let at? (j : Nat) : Nat × Nat := (j / t.rowLen, j % t.rowLen)
    return (List.range ((n + k.q - 1) / k.q)).foldl (fun (x : Run) d =>
      let r := twist key (twistCtr purpose q.step.toNat (e0 + d))
      match k with
      | .bits => (List.range 16).foldl (fun x i =>
          x.putElem (s.rd q) t (at? (16 * d + i)).1 (at? (16 * d + i)).2 (bitsOf r (8 * i) 8)) x
      | .mask => (List.range (min 8 (n - 8 * d))).foldl (fun x i =>
          x.putElem (s.rd q) t (at? (8 * d + i)).1 (at? (8 * d + i)).2 (if bitsOf r (16 * i) 16 < keep then 1 else 0)) x
      | .unif => (List.range (min 4 (n - 4 * d))).foldl (fun x i =>
          x.putElem (s.rd q) t (at? (4 * d + i)).1 (at? (4 * d + i)).2
            (fpCode ⟨8, 23, 127, .ieee, true⟩ false (bitsOf r (32 * i + 8) 24) (-24))) x) {})

end Sys2Proof.Machine
end

