-- ==== Sys2Proof/Machine/UpdRun.lean ====
section
/-! DEFINITION. The parameter update (R319 to R349, R418): UPD.STAT and UPD.APPLY under the FACT and Voulle
rules, block by block. -/

namespace Sys2Proof.Machine

/-- An update descriptor read out, with the descriptors it names (R327). -/
structure UpdCfg where
  rule   : Nat
  grad   : Line
  recs   : Line
  pres   : Option Line
  fac    : Line
  rs     : Line
  cs     : Line
  hdr    : Line
  n      : Nat
  kb     : Nat
  kvalid : Nat
  lr     : Lin
  beta1  : Lin
  beta2  : Lin
  wd     : Lin
  epsv   : Lin
  gscale : Lin
  step   : Nat
  t0     : Nat
  deriving DecidableEq, Repr, Inhabited

/-- The value of a binary32 field of an update descriptor; an infinity reads as NaN here, and breaks R328. DEDUCED (log entry 117): a
subnormal field decodes exactly whatever SUBN holds, since R53 governs the elements of an operation. -/
def f32Lin (code : Nat) : Lin := (fpDecode ⟨8, 23, 127, .ieee, true⟩ false code).1

/-- Reads the update descriptor that an operation captured (R327, R384). -/
def updCfg (q : QOp) : UpdCfg :=
  let d := q.desc0
  let sub (b : Nat) : Line := q.desc (lineBytes d b b)
  let f (hi lo : Nat) : Lin := f32Lin (lineBytes d hi lo)
  { rule := lineBytes d 1 1, grad := sub 2, recs := sub 3
    pres := if lineBytes d 4 4 = 255 then none else some (sub 4)
    fac := sub 5, rs := sub 6, cs := sub 7, hdr := sub 8
    n := lineBytes d 15 12, kb := lineBytes d 19 16, kvalid := lineBytes d 23 20
    lr := f 27 24, beta1 := f 31 28, beta2 := f 35 32, wd := f 39 36, epsv := f 43 40, gscale := f 47 44
    step := lineBytes d 55 48, t0 := lineBytes d 63 56 }

namespace UpdCfg

/-- FACT is the rule (R327). -/
def isFact (d : UpdCfg) : Bool := d.rule = 0

/-- The size of a state record (R322). -/
def recSize (d : UpdCfg) : Nat := if d.rule = 0 then 704 else 832

/-- The address of record (i, b) (R323). -/
def recAddr (d : UpdCfg) (i b : Nat) : Nat := (tensorRaw d.recs).base + (i * d.kb + b) * d.recSize

/-- t of the update (R327). -/
def t (d : UpdCfg) : Nat := d.step - d.t0 + 1

end UpdCfg

/-- A finite non-negative number. -/
def Lin.nonneg (x : Lin) : Bool := !x.isNan && decide (0 ≤ x.sint)

/-- A number in [0, 1). -/
def Lin.unit (x : Lin) : Bool := x.nonneg && x.lt (.fin false 1 0)

/-- Whether a descriptor serves as the bitmap of present blocks (R337): one bit for each block. -/
def presOk (d : Line) (blocks : Nat) : Bool :=
  fmtOk d && (tensorRaw d).layout = 0 && (tensorRaw d).fmt = .mask && (tensorRaw d).count = blocks

/-- A vector of `n` binary64 values. -/
def f64VecOk (d : Line) (n : Nat) : Bool :=
  bytesOk d && ((tensorRaw d).fmt = .f64 || (tensorRaw d).fmt = .aw64) && (tensorRaw d).count = n

/-- A tensor of `n` bytes (R322, R329, R330). -/
def byteTensorOk (d : Line) (n : Nat) : Bool := bytesOk d && (tensorRaw d).byteCount = n

/-- The conditions of R328 on the descriptor, with the format and the extent of every descriptor it names (FAC_D, RS_D and CS_D
under FACT only, R327); `lack` tells whether one of these three is missing. -/
def updOk (q : QOp) (d : UpdCfg) (stat : Bool) : Bool :=
  let lack (b : Nat) : Bool := lineBytes q.desc0 b b = 255
  let gt := tensorRaw d.grad
  d.rule ≤ 1 && (!stat || d.isFact) && lineBytes q.desc0 11 9 = 0
  && 1 ≤ d.n && d.n ≤ 2 ^ 20 && 1 ≤ d.kb && d.kb ≤ 8192 && 128 * d.kb ≤ d.kvalid + 127 && d.kvalid ≤ 128 * d.kb
  && d.lr.nonneg && d.beta1.unit && d.beta2.unit && d.wd.nonneg && (d.isFact || d.epsv.nonneg) && !d.gscale.isNan
  && d.t0 ≤ d.step
  && (!d.isFact || !(lack 5 || lack 6 || lack 7))
  && byteTensorOk d.hdr 16
  && (!d.isFact || (byteTensorOk d.fac (64 + 8 * (d.n + d.kvalid)) && f64VecOk d.rs d.n && f64VecOk d.cs d.kvalid))
  && fmtOk d.grad && gt.layout = 0 && (gt.fmt = .lg16 || gt.fmt = .bf16 || gt.fmt = .fp32)
  && gt.rows = d.n && gt.rowLen = 128 * d.kb
  && byteTensorOk d.recs (d.n * d.kb * d.recSize)
  && (match d.pres with
    | some p => presOk p (d.n * d.kb)
    | none => true)

/-- The kinds of the captured descriptors (R386): the update descriptor and every tensor it names. -/
def updKinds (q : QOp) (d : UpdCfg) : Bool :=
  let lack (b : Nat) : Bool := lineBytes q.desc0 b b = 255
  lineBytes q.desc0 0 0 = 0x55 && descOk d.hdr && descOk d.grad && descOk d.recs
  && (!d.isFact || ((lack 5 || descOk d.fac) && (lack 6 || descOk d.rs) && (lack 7 || descOk d.cs)))
  && (match d.pres with
    | some p => descOk p
    | none => true)

/-! ### Logs and powers (R340 to R344) -/

/-- conv of a positive number, 16 fraction bits (R80). -/
def convPos (x : Lin) : Int :=
  match x with
  | .fin _ m e => if m = 0 then 0 else conv m e
  | _ => 0

/-- Whether a value is a positive number. -/
def Lin.pos (x : Lin) : Bool := !x.isNan && decide (0 < x.sint)

/-- The larger of two numbers (R340, R343). -/
def Lin.max (x y : Lin) : Lin := if x.isNan || y.isNan then .nan else if x.lt y then y else x

/-- ε of the captured UPD_CTL (R331). -/
def epsOf (eps : Nat) : Lin := if eps = 0 then .zero else .fin false 1 (-(eps : Int))

/-- `a × b` rounded to binary64. -/
def mul64 (a b : Lin) : Lin := d64 (a.mul b)

/-- 1 − x in binary64 (R340). -/
def oneMinus (x : Lin) : Lin := d64 ((Lin.fin false 1 0).sub x)

/-- 1 / (1 − β^t), correctly rounded (R343). -/
def biasCorr (beta : Lin) (t : Nat) : Lin :=
  match beta with
  | .fin _ m e => if 0 ≤ e then .fin false 1 0 else
      let k := (-e).toNat * t
      divRat64 (2 ^ k) (2 ^ k - m ^ t)
  | _ => .fin false 1 0

/-- The moment of an LG8 code under an HS8 scale (R324). -/
def momentOf (code c : Nat) : Lin :=
  if c = 0 then .zero
  else match (decodeElem .lg8 false code).1 with
    | .log g => (logLin76 g).scale (c - 128)
    | .lin _ => .nan

/-! ### Records (R322, R325, R344, R345) -/

/-- A state record as read. -/
structure URec where
  hi    : List Nat
  lo    : List Nat
  mc    : List Nat
  vc    : List Nat
  frz   : List Bool
  ms    : Nat
  vs    : Nat
  kind  : Nat
  deriving DecidableEq, Repr, Inhabited

/-- Reads record (i, b) (R322). -/
def readRec (d : UpdCfg) (rd : Nat → Byte) (i b : Nat) : URec :=
  let a := d.recAddr i b
  let at1 (o : Nat) : Nat := (rd (a + o)).toNat
  let at2 (o : Nat) : Nat := at1 o + 256 * at1 (o + 1)
  { hi := (List.range 128).map fun k => at2 (2 * k)
    lo := (List.range 128).map fun k => at2 (256 + 2 * k)
    mc := (List.range 128).map fun k => at1 (512 + k)
    vc := if d.isFact then [] else (List.range 128).map fun k => at1 (704 + k)
    frz := (List.range 128).map fun k => (rd (a + 640 + k / 8)).toNat.testBit (k % 8)
    ms := at1 656, vs := at1 657, kind := at1 659 }

/-- Writes the changed fields of a record back; every other byte keeps its bits (R326, R334). -/
def Run.putRec (x : Run) (d : UpdCfg) (i b : Nat) (r : URec) : Run :=
  let a := d.recAddr i b
  let words (x : Run) (o : Nat) (vs : List Nat) : Run := vs.zipIdx.foldl (fun x p => x.putNat (a + o + 2 * p.2) 2 p.1) x
  let bytes (x : Run) (o : Nat) (vs : List Nat) : Run := vs.zipIdx.foldl (fun x p => x.putNat (a + o + p.2) 1 p.1) x
  let x := bytes (bytes (words (words x 0 r.hi) 256 r.lo) 512 r.mc) 656 [r.ms]
  if d.isFact then x else bytes (bytes x 704 r.vc) 657 [r.vs]

/-- A master (H, E) as written by split, with its flags (R345); `w` is ω′ in units of 2^-24. -/
def splitMaster (neg : Bool) (w : Int) : Nat × Nat × Flags :=
  let s := if neg then 2 ^ 15 else 0
  let l := (w + 2 ^ 15) / 2 ^ 16
  if 16383 < l then (s + 16383, 32767, .ovf)
  else if l < -16383 then (0x4000, 0, .unfFrost)
  else (s + toBits l 15, toBits (w - l * 2 ^ 16) 16, .no)

/-- log2 of a positive number, truncated toward minus infinity at 40 fraction bits (R344). -/
def log40 (x : Lin) : Int :=
  match x with
  | .fin _ m e => if m = 0 then 0 else logFloor m e 40
  | _ => 0

/-- step_master (R344): the new H and E of a master that is not NaN. `dr` is the draw of sr24. -/
def stepMaster (h e : Nat) (delta : Lin) (dr : Unit → Nat) : Nat × Nat × Flags :=
  let sr (l : Int) : Int := roundLog l 40 24 (.sr (dr ()))
  let neg (x : Lin) : Bool := decide (x.sint < 0)
  if delta.isZero then (h, e, .no)
  else if delta.isNan then (0xC000, 0, .invalid)
  else if h % 2 ^ 15 = 2 ^ 14 then splitMaster (neg delta) (sr (log40 delta.abs))
  else
    let s := h.testBit 15
    let om := sxt (h % 2 ^ 15) 15 * 2 ^ 16 + sxt e 16
    let sg (x : Lin) : Lin := if s then x.neg else x
    let y := d64 ((sg delta).mul (pow2Exact64 (-om) 24))
    if (Lin.fin true 1 0).lt y then splitMaster s (sr (om * 2 ^ 16 + log40 ((Lin.fin false 1 0).add y)))
    else
      let w1 := d64 ((sg (pow2Exact64 om 24)).add delta)
      if w1.isZero then (0x4000, 0, .no) else splitMaster (neg w1) (sr (log40 w1.abs))

/-- The codes and the scale of a block's moments (R325). `new` gives the new moment of an element that is
updated; `dr` draws by element. -/
def encodeMoments (codes : List Nat) (c : Nat) (pad : Nat → Bool) (new : Nat → Option Lin) (dr : Nat → Nat) :
    List Nat × Nat × Flags :=
  let mags := (List.range 128).map fun k => match new k with
    | some m => m.abs
    | none => if pad k then Lin.zero else (momentOf (codes.getD k 0) c).abs
  let a := mags.foldl Lin.max .zero
  let keep := (List.range 128).any fun k => (new k).isNone && !pad k && codes.getD k 0 % 128 ≠ 64
  let cn : Nat := if keep then c else (Max.max (1 : Int) (Min.min 254 (128 + -((-(convPos a)) / 65536) - 7))).toNat
  let one (k : Nat) : Nat × Flags :=
    match new k with
    | none => (codes.getD k 0, .no)
    | some .nan => (0xC0, .invalid)
    | some m =>
      if m.isZero || a.isZero then (0x40, .no)
      else
        let l := roundLog (convPos m - ((cn : Int) - 128) * 65536) 16 3 (.sr (dr k))
        let s := if decide (m.sint < 0) then 128 else 0
        if 63 < l then (s + 63, .ovf) else if l < -63 then (0x40, .no) else (s + toBits l 7, .no)
  let os := (List.range 128).map one
  (os.map (·.1), if a.isZero then 0 else cn, os.foldl (fun f o => f.or o.2) .no)

/-- What an update of one block needs: the gradients of its live elements, the elements whose H is NaN, which are live and keep
their bits (R346), and the draws. -/
structure UBlock where
  g    : List (Option Lin)
  nanH : Nat → Bool
  pad  : Nat
  draw : Nat → Nat → Nat

/-- An element of a block is live (R321). -/
def UBlock.live (b : UBlock) (k : Nat) : Bool := (b.g.getD k none).isSome

/-- The gradient of an element that is updated: live, and its H is no NaN (R346). -/
def UBlock.moved (b : UBlock) (k : Nat) : Option Lin := if b.nanH k then none else b.g.getD k none

/-- The update of one element's master (R341, R343): −lr × (u + wd × w). -/
def updDelta (d : UpdCfg) (u : Lin) (h : Nat) : Lin :=
  let w := match (decodeElem .lg16 false h).1 with
    | .log g => logLin76 g
    | .lin _ => .nan
  (mul64 d.lr (d64 (u.add (mul64 d.wd w)))).neg

/-- The masters of a block after their steps; `dl` gives the step of an element, none where it keeps its bits. -/
def stepMasters (r : URec) (dl : Nat → Option Lin) (dr : Nat → Nat) : List (Nat × Nat × Flags) :=
  (List.range 128).map fun k => match dl k with
    | some x => stepMaster (r.hi.getD k 0) (r.lo.getD k 0) x fun _ => dr k
    | none => (r.hi.getD k 0, r.lo.getD k 0, .no)

/-- The log of a normaliser that no rule states, 16 fraction bits: where the factor block holds no positive number (R341; log
entry 3). -/
def openNormaliser (r rbar c : Lin) : Int :=
  (Config.factNormaliser (encode64 false r).1 (encode64 false rbar).1 (encode64 false c).1).toInt

/-- The factor statistics that one block of FACT uses: r_i, r̄ and the block's c_j (R341). -/
structure Factors where
  r    : Lin
  rbar : Lin
  c    : Nat → Lin

/-- One block under FACT (R341, R342). -/
def factBlock (d : UpdCfg) (eps : Nat) (f : Factors) (r : URec) (b : UBlock) : URec × Flags :=
  let zden := eps = 0 && (f.r.isZero || f.rbar.isZero || (List.range 128).any fun k => b.live k && (f.c k).isZero)
  let mom (k : Nat) : Option Lin := (b.moved k).map fun g =>
    let gk := mul64 d.gscale g
    if d.t = 1 then gk
    else d64 ((mul64 d.beta1 (momentOf (r.mc.getD k 0) r.ms)).add (mul64 (oneMinus d.beta1) gk))
  let delta (k : Nat) : Option Lin :=
    if zden then none
    else (mom k).map fun m =>
      let x0 : Int :=
        if f.r.pos && f.rbar.pos && (f.c k).pos then
          nearestEven (-(convPos f.r + convPos (f.c k) - convPos f.rbar)) 17 16
        else if f.rbar.pos && (f.r.isZero || (f.c k).isZero) then (eps : Int) * 65536
        else openNormaliser f.r f.rbar (f.c k)
      let x := if eps ≠ 0 ∧ (eps : Int) * 65536 < x0 then (eps : Int) * 65536 else x0
      updDelta d (mul64 m (pow2R77 x)) (r.hi.getD k 0)
  let ms := stepMasters r delta (b.draw 0xE5)
  let mo := encodeMoments r.mc r.ms (fun k => b.pad ≤ k) mom (b.draw 0xE6)
  ({ r with hi := ms.map (·.1), lo := ms.map (·.2.1), mc := mo.1, ms := mo.2.1 },
    (ms.foldl (fun f m => f.or m.2.2) mo.2.2).or (if zden then .degen else .no))

/-- One block under Voulle (R343): the normaliser is formed for every live element, one whose H is NaN too. -/
def voulleBlock (d : UpdCfg) (eps : Nat) (bc1 bc2 : Lin) (r : URec) (b : UBlock) : URec × Flags :=
  let gk (k : Nat) : Option Lin := (b.g.getD k none).map (mul64 d.gscale)
  let kept (k : Nat) (v : Option Lin) : Option Lin := if b.nanH k then none else v
  let mom (k : Nat) : Option Lin := kept k <| (gk k).map fun g =>
    d64 ((mul64 d.beta1 (momentOf (r.mc.getD k 0) r.ms)).add (mul64 (oneMinus d.beta1) g))
  let sec (k : Nat) : Option Lin := (gk k).map fun g =>
    d64 ((mul64 d.beta2 (momentOf (r.vc.getD k 0) r.vs)).add (mul64 (oneMinus d.beta2) (mul64 g g)))
  let den (k : Nat) : Option Lin := (sec k).map fun v =>
    let vh := mul64 v bc2
    let s : Lin := if vh.isNan then .nan else if vh.isZero then .zero else pow2R77 (nearestEven (convPos vh) 17 16)
    (d64 (s.add d.epsv)).max (epsOf eps)
  let degen := (List.range 128).any fun k => match den k with
    | some x => x.isZero
    | none => false
  let delta (k : Nat) : Option Lin :=
    if degen then none
    else match mom k, den k with
      | some m, some x =>
        let u := if x.isNan then .nan else mul64 (mul64 m bc1) (pow2R77 (-(convPos x)))
        some (updDelta d u (r.hi.getD k 0))
      | _, _ => none
  let ms := stepMasters r delta (b.draw 0xE5)
  let mo := encodeMoments r.mc r.ms (fun k => b.pad ≤ k) mom (b.draw 0xE6)
  let vo := encodeMoments r.vc r.vs (fun k => b.pad ≤ k) (fun k => kept k (sec k)) (b.draw 0xE7)
  ({ r with hi := ms.map (·.1), lo := ms.map (·.2.1), mc := mo.1, ms := mo.2.1, vc := vo.1, vs := vo.2.1 },
    (ms.foldl (fun f m => f.or m.2.2) (mo.2.2.or vo.2.2)).or (if degen then .degen else .no))

/-! ### The operations -/

/-- A little-endian number at byte `i` of a descriptor's tensor. -/
def State.tensorNat (s : State) (q : QOp) (d : Line) (i n : Nat) : Nat := (tensorRaw d).byteNat (s.rd q) i n

/-- Number `i` of a binary64 vector, INVALID where it is an infinity (R36). -/
def State.vecElem (s : State) (q : QOp) (d : Line) (i : Nat) : Lin × Flags := decode64 (s.tensorNat q d (8 * i) 8)

/-- Factor element `i` of a factor block (R330): r from 0, then c; INVALID where it is an infinity (R36). -/
def State.facElem (s : State) (q : QOp) (d : UpdCfg) (i : Nat) : Lin × Flags := s.vecElem q d.fac (8 + i)

/-- The first `n` factor elements from `i` on that hold an infinity: INVALID where there is one (R36). -/
def State.facFlags (s : State) (q : QOp) (d : UpdCfg) (i n : Nat) : Flags :=
  (List.range n).foldl (fun f k => f.or (s.facElem q d (i + k)).2) .no

/-- The checks common to both operations, in the order of R347. -/
def updCheck (s : State) (q : QOp) (stat : Bool) : Except (Byte × Nat) UpdCfg := do
  let d := updCfg q
  need (updKinds q d) 0x1F
  need (!roleIs s q .teacher) 0x1E
  need (updOk q d stat) 0x1C
  return d

/-- A STEP_SKEW outcome (R347, R348): the flag, and the two step numbers for the record. -/
def skew (q : QOp) (step other : Nat) : Run :=
  { Run.fail 0x31 (descAddr q.ctx q.form.desc.toNat) with flags := .stepSkew, info := some (step, other) }

/-- A binary64 value with the flags of its decoding. -/
def Sum64.of (v : Lin × Flags) : Sum64 := ⟨v.1, v.2⟩

/-- A binary64 value that sets no flag. -/
def Sum64.pure (v : Lin) : Sum64 := ⟨v, .no⟩

/-- The larger of a value and the floor ε (R340). -/
def Sum64.atLeast (a : Sum64) (eps : Nat) : Sum64 := ⟨a.v.max (epsOf eps), a.f⟩

/-- One mean square of UPD.STAT (R340) under ARITH_CTL.INF, with INVALID where it reads an infinity (R36) and the flags of its
roundings (R53, R60); the old value is read from t = 2 on. -/
def statElem (inf : Bool) (d : UpdCfg) (eps : Nat) (gs2 inv : Lin) (old sum : Lin × Flags) : Sum64 :=
  let mul := Sum64.op inf Lin.mul
  let a := mul (mul (.pure gs2) (.of sum)) (.pure inv)
  let a := if d.t = 1 then a
    else Sum64.op inf Lin.add (mul (.pure d.beta2) (.of old)) (mul (.pure (oneMinus d.beta2)) a)
  a.atLeast eps

/-- Writes a binary64 value at byte `i` of a tensor under ARITH_CTL.INF, with the flags of its forming and its encoding (R51, R52,
R60). -/
def Run.putF64 (x : Run) (inf : Bool) (t : Tensor) (i : Nat) (v : Sum64) : Run :=
  let c := encode64 inf v.v
  (x.putTensor t i 8 c.1).flag (if v.v.isNan then .invalid else v.f.or c.2)

/-- Bytes [lo, lo + n) of a factor block that are read (R330). -/
def facSegs (d : UpdCfg) (lo n : Nat) : List Seg :=
  (List.range n).map fun i => ⟨(tensorRaw d.fac).byteAddr (lo + i), 1, .read⟩

/-- The checks of an update that need memory, in the order of R347: every page (R436), the poison of the header and the tag (R453),
the step test `bad`, and the poison of what the steps read. -/
def State.stepCheck (s : State) (q : QOp) (pages head : List Seg) (bad : Option Run) (reads : List Seg) : Option Run :=
  let fail (e : Byte × Nat) : Run := Run.fail e.1 e.2
  ((pages.findSome? (s.checkPages q.lspn q.ctx)).map fail).or
    (((s.checkReads q.lspn q.ctx head).map fail).or (bad.or ((s.checkReads q.lspn q.ctx reads).map fail)))

/-- UPD.STAT (R340). -/
def runStat (s : State) (q : QOp) : State × Run :=
  match updCheck s q true with
  | .error e => (s, Run.fail e.1 e.2)
  | .ok d =>
    let eps := q.upd.toNat % 256
    let fac := tensorRaw d.fac
    let size := 64 + 8 * (d.n + d.kvalid)
    let sums := (tensorRaw d.rs).flatSegs d.n .read ++ (tensorRaw d.cs).flatSegs d.kvalid .read
      ++ if d.t = 1 then [] else facSegs d 64 (8 * (d.n + d.kvalid))
    match s.stepCheck q ((tensorRaw d.hdr).byteSegs 16 .read ++ sums ++ fac.byteSegs size .write) ((tensorRaw d.hdr).byteSegs 8 .read)
        (let hs := s.tensorNat q d.hdr 0 8
         if hs ≠ d.step then some (skew q d.step hs) else none) sums with
    | some r => (s, r)
    | none =>
        let inf := q.arith.toNat.testBit 4
        let gs2 := mul64 d.gscale d.gscale
        let invk := divRat64 1 d.kvalid
        let invn := divRat64 1 d.n
        let rs := (List.range d.n).map fun i =>
          statElem inf d eps gs2 invk (s.facElem q d i) (s.vecElem q d.rs i)
        let cs := (List.range d.kvalid).map fun j =>
          statElem inf d eps gs2 invn (s.facElem q d (d.n + j)) (s.vecElem q d.cs j)
        let x := (rs ++ cs).zipIdx.foldl (fun x p => x.putF64 inf fac (64 + 8 * p.2) p.1) ({} : Run)
        let rbar := (Sum64.op inf Lin.mul (laneSum inf (rs.map (·.v))) (.pure invn)).atLeast eps
        (s, (x.putF64 inf fac 0 rbar).putTensor fac 8 8 ((d.step + 1) % 2 ^ 64))

/-- The present bit of a block (R337). -/
def present (s : State) (q : QOp) (d : UpdCfg) (i b : Nat) : Bool :=
  match d.pres with
  | none => true
  | some p => let t := tensorRaw p; t.code (s.rd q) ((i * d.kb + b) / t.rowLen) ((i * d.kb + b) % t.rowLen) = 1

/-- One block of a share (R337, R346, R347): every gradient element inside the tensor is decoded, a frozen one too, and those of
live elements are checked. -/
def updBlock (s : State) (q : QOp) (d : UpdCfg) (bc1 bc2 : Lin) (i b : Nat) (x : Run) : Run :=
  if !present s q d i b then x
  else
    let r := readRec d (s.rd q) i b
    if r.kind ≠ (if d.isFact then 0x51 else 0x52) then x.note 0x53 (d.recAddr i b)
    else
      let pad := d.kvalid - 128 * b
      let live (k : Nat) : Bool := decide (k < pad) && !r.frz.getD k true
      if !(List.range 128).any live then x
      else
        let gt := tensorRaw d.grad
        let subn := q.arith.toNat.testBit 3
        let gs := (List.range 128).map fun k =>
          if decide (k < pad) then some (decodeElem gt.fmt subn (gt.code (s.rd q) i (128 * b + k))) else none
        let x := x.flag (gs.foldl (fun f g => match g with
          | some v => f.or v.2
          | none => f) .no)
        let nan (k : Nat) : Bool := r.hi.getD k 0 = 0xC000
        if gs.zipIdx.any (fun g => live g.2 && (match g.1 with
            | some v => v.1.isNan
            | none => false)) ∨ r.ms = 255 ∨ r.vs = 255 then x.flag .invalid
        else
          let blk : UBlock :=
            { g := gs.zipIdx.map fun g => if !live g.2 then none else g.1.map fun v => match v.1 with
                | .lin y => y
                | .log l => logLin76 l
              nanH := nan
              pad := pad
              draw := fun p k => draw16 (s.seedOf q) p d.step
                (elemUpd q.lspn q.ord (i * 128 * d.kb + 128 * b + k)) }
          let x := if (List.range 128).any fun k => live k && nan k then x.flag .invalid else x
          let eps := q.upd.toNat % 256
          if d.isFact then
            let rbar := s.vecElem q d.fac 0
            let o := factBlock d eps
              ⟨(s.facElem q d i).1, rbar.1, fun k => (s.facElem q d (d.n + 128 * b + k)).1⟩ r blk
            (x.putRec d i b o.1).flag (((s.facElem q d i).2.or rbar.2).or ((s.facFlags q d (d.n + 128 * b) (min 128 pad)).or o.2))
          else
            let o := voulleBlock d eps bc1 bc2 r blk
            (x.putRec d i b o.1).flag o.2

/-- What a share reaches block by block, in order (R337): the record of a block whose present bit is set, read and written back, and,
where the block has a live element and its record the right kind, the gradient of its elements inside the tensor and, under FACT,
the statistics r̄, r_i and c_j that the block takes. Padding columns are never read (R321). -/
def shareSegs (s : State) (q : QOp) (d : UpdCfg) (frow rcnt : Nat) : List Seg :=
  (List.range rcnt).flatMap fun i => (List.range d.kb).flatMap fun b =>
    if !present s q d (frow + i) b then []
    else
      let r := readRec d (s.rd q) (frow + i) b
      let pad := d.kvalid - 128 * b
      let a := d.recAddr (frow + i) b
      [⟨a, d.recSize, .write⟩, ⟨a, d.recSize, .read⟩]
        ++ if r.kind = (if d.isFact then 0x51 else 0x52)
              && (List.range 128).any fun k => decide (k < pad) && !r.frz.getD k true then
            ((List.range (min 128 pad)).map fun k =>
              let p := (tensorRaw d.grad).pos (frow + i) (128 * b + k)
              runSeg (tensorRaw d.grad).fmt p.1 p.2 1 .read)
            ++ if d.isFact then facSegs d 0 8 ++ facSegs d (64 + 8 * (frow + i)) 8
                ++ facSegs d (64 + 8 * (d.n + 128 * b)) (8 * min 128 pad) else []
          else []

/-- UPD.APPLY (R337, R341, R343, R418). -/
def runApply (s : State) (q : QOp) : State × Run :=
  let frow := q.param 0
  let rcnt := q.param 1
  match (do
    let d ← updCheck s q false
    need (rcnt ≠ 0 && frow + rcnt ≤ d.n) 0x1C
    return d : Except (Byte × Nat) UpdCfg) with
  | .error e => (s, Run.fail e.1 e.2)
  | .ok d =>
    let share := (match d.pres with
        | some p => (tensorRaw p).partSegs (frow * d.kb) (rcnt * d.kb)
        | none => [])
      ++ shareSegs s q d frow rcnt
    let head := (tensorRaw d.hdr).byteSegs 8 .read ++ if d.isFact then facSegs d 8 8 else []
    match s.stepCheck q ((tensorRaw d.hdr).byteSegs 16 .read
        ++ (if d.isFact then (tensorRaw d.fac).byteSegs (64 + 8 * (d.n + d.kvalid)) .read else []) ++ share) head
        (let hs := s.tensorNat q d.hdr 0 8
         let ft := s.tensorNat q d.fac 8 8
         if hs ≠ d.step then some (skew q d.step hs)
         else if d.isFact ∧ ft ≠ (d.step + 1) % 2 ^ 64 then some (skew q d.step (ft + 2 ^ 64 - 1))
         else none) share with
    | some r => (s, r)
    | none =>
        let bc1 := biasCorr d.beta1 d.t
        let bc2 := biasCorr d.beta2 d.t
        (s, (List.range rcnt).foldl (fun x i =>
          (List.range d.kb).foldl (fun x b => updBlock s q d bc1 bc2 (frow + i) b x) x) {})

end Sys2Proof.Machine
end

