-- ==== Sys2Proof/Machine/Engine.lean ====
section
/-! DEFINITION. The engines: which queued operation may start, what starting one does, and what its end shows
(R199, R299, R378 to R391, R524 to R526, R536); the removal of jobs that have ended. -/

namespace Sys2Proof.Machine

/-! ### Atomic operations of memory (R450) -/

/-- The FP32 addition of R450: to nearest even, subnormals kept, infinities and NaN as IEEE 754 has them. -/
def f32Add (a b : BitVec 32) : BitVec 32 :=
  let mag (x : BitVec 32) : Nat := x.toNat % 2 ^ 31
  let p : Fp := ⟨8, 23, 127, .ieee, true⟩
  if 0x7F800000 < mag a ∨ 0x7F800000 < mag b then 0x7FC00000
  else if mag a = 0x7F800000 then (if mag b = 0x7F800000 ∧ a ≠ b then 0x7FC00000 else a)
  else if mag b = 0x7F800000 then b
  else
    match (fpDecode p false a.toNat).1.add (fpDecode p false b.toNat).1 with
    | .zero => if mag a = 0 ∧ mag b = 0 ∧ a.msb ∧ b.msb then 0x80000000 else 0
    | x => BitVec.ofNat 32 (fpEncode p ⟨.rne, true, false, .rne⟩ false x .rne).1

/-- The FP32 maximum of non-negative values (R450). For a negative value or a NaN the spec states no result: it is an open function
of the two codes, so that equal inputs give equal bits (R1, R395; log entry 3). -/
def f32Max (a b : BitVec 32) : BitVec 32 :=
  if 0x7F800000 < a.toNat ∨ 0x7F800000 < b.toNat then Config.f32MaxOpen a b
  else if a.toNat < b.toNat then b else a

/-- Performs one atomic operation on the bytes at a key (R450). -/
def atomic (m : List Host.Cell) (k : AtomKind) (key v : Nat) : List Host.Cell :=
  match k with
  | .fadd => Mem.setNat m key 4 (f32Add (BitVec.ofNat 32 (Mem.nat m key 4)) (BitVec.ofNat 32 v)).toNat
  | .fmax => Mem.setNat m key 4 (f32Max (BitVec.ofNat 32 (Mem.nat m key 4)) (BitVec.ofNat 32 v)).toNat
  | .uadd => Mem.setNat m key 8 ((Mem.nat m key 8 + v) % 2 ^ 64)
  | .bor => Mem.setNat m key 1 ((Mem.get m key ||| BitVec.ofNat 8 v).toNat)

/-- Performs an atomic operation. -/
def State.atomicAt (s : State) (a : Atom) : State := { s with mem := atomic s.mem a.kind a.addr a.val }

/-! ### What an operation does when it runs -/

/-- The shape of an array pass. -/
def QOp.shape (q : QOp) : Option Shape :=
  match q.op with
  | .mxF _ _ => some .full
  | .mxH _ _ => some .half
  | .mxQ _ _ => some .quarter
  | .mxRib32 _ _ => some .rib32
  | .mxRib16 _ _ => some .rib16
  | _ => none

/-- What an operation does by its kind: the state it leaves in its spindle, and what it will show at its knot. -/
def runKind (s : State) (q : QOp) : State × Run :=
  match q.op with
  | .mxF _ _ => runMx s q .full
  | .mxH _ _ => runMx s q .half
  | .mxQ _ _ => runMx s q .quarter
  | .mxRib32 _ _ => runMx s q .rib32
  | .mxRib16 _ _ => runMx s q .rib16
  | .accOpen _ _ => runAccOpen s q
  | .accDrain _ _ => runDrain s q
  | .veAdd _ _ => runElementwise s q .add
  | .veSub _ _ => runElementwise s q .sub
  | .veMul _ _ => runElementwise s q .mul
  | .veNeg _ _ => runElementwise s q .neg
  | .veAbs _ _ => runElementwise s q .abs
  | .veCmpEq _ _ => runElementwise s q .eq
  | .veCmpLt _ _ => runElementwise s q .lt
  | .veCmpLe _ _ => runElementwise s q .le
  | .veSel _ _ => runSel s q
  | .veMax _ _ => runElementwise s q .max
  | .veMin _ _ => runElementwise s q .min
  | .veCvt _ _ => runElementwise s q .cvt
  | .veRecip _ _ => runLogFn s q (fun _ => some .recip) false
  | .veSqrt _ _ => runLogFn s q (fun _ => some .sqrt) false
  | .veRsqrt _ _ => runLogFn s q (fun _ => some .rsqrt) false
  | .veLog2 _ _ => runLogFn s q (fun _ => some .log2) false
  | .veLn _ _ => runLogFn s q (fun _ => some .ln) false
  | .veExp _ _ => runLogFn s q (fun t => t.map LFn.exp) true
  | .veSigmoid _ _ => runLogFn s q (fun _ => some .sigmoid) false
  | .vePow _ _ => runLogFn s q (fun _ => some (.pow (sxt (q.modf 0 16) 16))) false
  | .veSum _ _ => runReduce s q [.single, .double] false fun _ _ vs => sumRow q.modes.inf false vs
  | .veSumsq _ _ => runReduce s q [.single, .double] false fun _ _ vs => sumRow q.modes.inf true vs
  | .veLsum _ _ => runReduce s q [.log] false fun _ r vs => lsumRow s q r vs
  | .veLse _ _ => runReduce s q [.log, .single] true fun t r vs => lseRow s q t r vs
  | .veSoftmax _ _ => runSoftmax s q
  | .veMaxr _ _ => runExtreme s q true
  | .veMinr _ _ => runExtreme s q false
  | .veTopk _ _ => runTopk s q
  | .veTopkmerge _ _ => runTopkmerge s q
  | .veCombine _ _ => runCombine s q
  | .veKltopk _ _ => runKltopk s q
  | .veQz _ _ => runQz s q
  | .veAmax _ _ => runAmax s q
  | .veDq _ _ => runDq s q
  | .veXpose _ _ => runXpose s q
  | .updStat _ _ => runStat s q
  | .updApply _ _ => runApply s q
  | .reelIn _ _ => runReel s q
  | .reelOut _ _ => runReel s q
  | .reelPsend _ _ => runPsend s q
  | .syncPrecv _ _ => runPrecv s q
  | .twBits _ _ => runTw s q .bits
  | .twMask _ _ => runTw s q .mask
  | .twUnif _ _ => runTw s q .unif
  | .shutScan _ _ => runScan s q
  | .shutEmit _ _ => runEmit s q
  | .shutTake _ _ => runTake s q
  | .shutFree _ _ => runFree s q
  | _ => (s, {})

/-- The quantisation record of every packed NG4 tensor that an operation captures lies in the tier of its scale array (R443). -/
def State.tiersOk (s : State) (q : QOp) : Bool :=
  q.descs.all fun d =>
    let t := tensorRaw d.2
    !(descOk d.2 && t.packed)
    || (match s.locate q.lspn q.ctx t.aux, s.locate q.lspn q.ctx (t.aux - 128) with
        | some x, some y => decide (x.tier = y.tier)
        | _, _ => true)

/-- Runs an operation; DESC_KIND where a captured descriptor breaks what R443 says of tiers. -/
def runOp (s : State) (q : QOp) : State × Run := if s.tiersOk q then runKind s q else (s, Run.fail 0x1F 0)

/-- The operation is an ACC.DRAIN. -/
def QOp.isDrain (q : QOp) : Bool :=
  match q.op with
  | .accDrain _ _ => true
  | _ => false

/-- The operation is an UPD operation. -/
def QOp.isUpd (q : QOp) : Bool :=
  match q.op with
  | .updStat _ _ | .updApply _ _ => true
  | _ => false

/-- The operation is an ACC.OPEN. -/
def QOp.isOpen (q : QOp) : Bool :=
  match q.op with
  | .accOpen _ _ => true
  | _ => false

/-- The operation is a SHUT.EMIT. -/
def QOp.isEmit (q : QOp) : Bool :=
  match q.op with
  | .shutEmit _ _ => true
  | _ => false

/-- The operation is a SYNC.PRECV. -/
def QOp.isPrecv (q : QOp) : Bool :=
  match q.op with
  | .syncPrecv _ _ => true
  | _ => false

/-! ### Which operation may start (R199, R299, R301, R333, R367, R378) -/

/-- The operation is held out of its queue's order while its condition lacks (R378). -/
def QOp.heldType (q : QOp) : Bool :=
  match q.op with
  | .shutEmit _ _ | .shutTake _ _ | .syncPrecv _ _ | .updStat _ _ | .updApply _ _ => true
  | _ => false

/-- The site that does a spindle's work is under a spot test or held for one, or it is retired and no substitute could be committed: nothing
starts or issues on it (R7, R123, R534). -/
def State.testing (s : State) (l : Nat) : Bool :=
  let p := s.workSite l
  (s.mill.spots.any fun t => t.site = p || t.twin = p || t.third = some p) || p ∈ s.mill.holds || s.siteState p = 3

/-- The channel end may send its message: the upstream end's first forward message of a step waits for the
notice of the step before (R367). -/
def State.mayPsend (s : State) (q : QOp) : Bool :=
  match s.chan? q, s.job? q.job with
  | some c, some b => c.down || c.sent ≠ 0 || decide (b.committed ≤ c.noticed)
  | _, _ => true

/-- The operations of the vector queue that stand before one. -/
def State.aheadOf (s : State) (q : QOp) : List QOp :=
  (s.spn q.lspn).vectorQ.takeWhile fun o => !(o.ctx = q.ctx && o.seq = q.seq)

/-- The shuttle entry that a SHUT.EMIT serves. -/
def State.emitEntry (s : State) (q : QOp) : Option Nat := (emitCheck s q).toOption.map Prod.fst

/-- An earlier SHUT.EMIT of the job to the same shuttle still waits for its credits: the records keep its order, so that no bit
depends on the wait (R292, R299). -/
def State.emitBehind (s : State) (q : QOp) : Bool :=
  (s.aheadOf q).any fun o => o.isEmit && o.job = q.job && o.wait.open_ && s.emitEntry o = s.emitEntry q

/-- An earlier SYNC.PRECV of the context to the same channel still waits: messages are taken in program order (R367). -/
def State.precvBehind (s : State) (q : QOp) : Bool :=
  (s.spn q.lspn).queued.any fun o => o.ctx = q.ctx && decide (o.seq < q.seq) && o.isPrecv && o.ch = q.ch

/-- The condition of an operation that is held out of its queue's order while it lacks (R299, R301, R312, R333, R367, R378). -/
def State.heldCond (s : State) (q : QOp) : Bool :=
  match q.op with
  | .shutEmit _ _ =>
    (match emitCheck s q, s.job? q.job with
     | .ok e, some b => decide (emitRows q ≤ (b.prods.get e.1 {}).credits) && s.victim ≠ some q.job && !s.emitBehind q
     | _, _ => true)
  | .shutTake _ _ =>
    let f := s.frame (s.hframe q.lspn)
    let c := q.shutCount
    roleIs s q .teacher || c = 0 || 1024 < c || !f.shctl.toNat.testBit 31 || decide (c ≤ (f.prod - f.taken).toNat)
  | .syncPrecv _ _ =>
    !s.precvBehind q && (match s.chan? q with
     | some c => q.param 0 / 1024 ≠ 0 || decide (c.nmb ≤ q.mb) || q.mb ≠ c.rcvd || c.visible q.mb
     | none => true)
  | .updStat _ _ | .updApply _ _ => !q.aside
  | _ => true

/-- The operation is held aside: its queue has reached it and it waits for its condition, or the engine has served an entry behind
it meanwhile (R378). -/
def State.heldNow (s : State) (q : QOp) : Bool :=
  q.heldType && (q.passed || q.aside || (q.wait.open_ && !s.heldCond q))

/-- The condition of an operation apart from its captured wait. SHUT.FREE comes after every earlier-issued operation of its
spindle's vector engine that is not held aside (R301). -/
def State.condition (s : State) (q : QOp) : Bool :=
  match q.op with
  | .accOpen _ _ => decide (((s.ctx q.lspn q.ctx).tile q.form.tile.toNat).st = .closed)
  | .shutFree _ _ => (s.aheadOf q).all s.heldNow
  | .reelPsend _ _ => s.mayPsend q
  | _ => s.heldCond q

/-- A teacher context whose SHUT.EMIT waits for credits starts no new front (R299). -/
def State.frontHeld (s : State) (q : QOp) : Bool :=
  q.shape.isSome && (s.spn q.lspn).vectorQ.any fun o =>
    o.ctx = q.ctx && o.isEmit && o.wait.open_ && !s.condition o

/-- A job that ends, whose step is about to be replayed, or whose switch-out has begun (R506) starts no operation, except those that a faulted context had
issued before its controller fault, and the released UPD operations of a job that stops at a commit (R388, R391, R511,
R529). -/
def State.mayRun (s : State) (q : QOp) : Bool :=
  match s.job? q.job with
  | none => false
  | some b =>
    decide (b.st = .resident) && !b.stopping &&
    (match b.endWith with
     | none => b.fault.isNone
     | some c => (decide (1 ≤ c.toNat ∧ c.toNat ≤ 4) && (s.ctx q.lspn q.ctx).cfault.toNat.testBit 63)
       || (c = 0x6A && b.stopAt && q.isUpd && !q.aside))

/-- The handle that an ACC.DRAIN has set draining, from the states before and after its run: its knot closes it (R199, R221). -/
def closing (before after : State) (q : QOp) : Option Nat :=
  let t := q.form.tile.toNat
  let st (s : State) : TileSt := ((s.ctx q.lspn q.ctx).tile t).st
  if q.isDrain ∧ st before ≠ .draining ∧ st after = .draining then some t else none

/-- What tells the place of a fault apart: the key of the physical memory, in a bobbin that of its logical spindle (R239, R391). -/
def State.placeId (s : State) (q : QOp) (a : Nat) : Nat :=
  if a = 0 then 0
  else match s.locate q.lspn q.ctx a with
    | some p => if spaceOf p.key = 4 then keyOf 10 (q.lspn * 2 ^ 24 + offOf p.key % 2 ^ 24) else p.key
    | none => keyOf 11 a

/-- A started operation from what its run gives. -/
def rop (s : State) (q : QOp) (r : Run) : ROp :=
  let at_ (a : Nat) : Option Nat := (s.locate q.lspn q.ctx a).map (·.key)
  let adds := (r.atoms.filter fun a => a.kind = .uadd).map (·.addr)
  { q := q, code := r.code, flags := r.flags
    writes := r.w.filterMap (fun p => (at_ p.1).map fun k => (k, p.2)) ++ r.phys
    atoms := r.atoms.filterMap fun a => (at_ a.addr).map fun k => { a with addr := k }
    stages := r.stages
    closes := none
    addr := r.addr, sends := r.sends, prod := r.prod, info := r.info
    ids := ((if r.code = 0x41 ∨ r.code = 0x42 then r.chks ++ [r.addr] else [r.addr]).map (s.placeId q)).eraseDups
    rcd := adds.min?.bind fun a => (at_ (a - 80)).map fun k => (k, a - 80) }

/-- Whether a physical key lies in the paged range of `n` bytes at `a` of a job. -/
def State.jobHas (s : State) (b : Job) (a n key : Nat) : Bool :=
  n ≠ 0 && (List.range ((a + n - 1) / 2 ^ 21 - a / 2 ^ 21 + 1)).any fun i =>
    let v := a / 2 ^ 21 + i
    match s.pageLoc (b.pages.get v 0) 0 with
    | some x => decide (x.key ≤ key ∧ key < x.key + 2 ^ 21 ∧ a ≤ v * 2 ^ 21 + (key - x.key) ∧ v * 2 ^ 21 + (key - x.key) < a + n)
    | none => false

/-- Whether an operation reads a byte of some units of poison: were they poisoned, its checks would find one (R453). -/
def State.readsUnits (s : State) (q : QOp) (us : List Nat) : Bool :=
  us ≠ [] && (runOp { s with poison := us } q).2.code = 0x40

/-- The units of poison in the paged range of `n` bytes at `a` of a job. -/
def State.jobUnits (s : State) (b : Job) (a n : Nat) : List Nat :=
  if n = 0 then []
  else ((List.range ((a + n - 1) / 32 - a / 32 + 1)).filterMap fun i =>
    (s.jobKey b ((a / 32 + i) * 32)).map fun k => (poisonUnit k).1).eraseDups

/-- An operation that waits for the flight of a collective entry of its job (R476): it writes a byte of SRC, or it reads or writes one of
DST or HDR (log entry 34). -/
def State.flightHeld (s : State) (q : QOp) : Bool :=
  match s.job? q.job with
  | none => false
  | some b => b.flights.any fun f =>
    !f.done &&
      (let c := b.cols.getD f.entry default
       let by_ := s.colBytes c
       let hdr := if c.hdr = 0 then 0 else 16
       let r := rop s q (runOp s q).2
       let keys := r.writes.map (·.1) ++ r.atoms.map (·.addr)
       s.readsUnits q (s.jobUnits b c.dst by_.2 ++ s.jobUnits b c.hdr hdr)
       || keys.any fun k => s.jobHas b c.src by_.1 k || s.jobHas b c.dst by_.2 k || s.jobHas b c.hdr hdr k)

/-- An operation that will start, a running spot test apart. -/
def State.willRun (s : State) (q : QOp) : Bool :=
  q.wait.open_ && s.condition q && !s.frontHeld q && s.mayRun q && !s.flightHeld q

/-- An operation that could start if its engine is free. -/
def State.ready (s : State) (q : QOp) : Bool := s.willRun q && !s.testing q.lspn

/-- The engine takes another operation: the array overlaps its passes, the others run one at a time (R116, R139,
R263). -/
def Spindle.free (x : Spindle) (e : Engine) : Bool :=
  decide (e = .array) || !(x.running.any fun r => r.1 = e)

/-- The engine that does a spindle's work takes another operation. One site does the work of its own spindle first, and that of
the absent spindles it stands in for after it (R112). -/
def State.engineFree (s : State) (l : Nat) (e : Engine) : Bool :=
  let d := s.doer l
  let idle (n : Nat) : Bool := !((s.spn n).running.any fun r => r.1 = e)
  (s.spn l).free e && (d = l || (idle d && !(((s.spn d).queue e).any s.ready)))
    && (s.spindles.all fun p => p.1 = l || s.seat p.1 ≠ 2 || s.doer p.1 ≠ d || idle p.1)

/-- The operation that a start takes: the context's oldest that is not held aside, or its oldest one that was held aside and waits
no longer (R378). -/
def State.pick (s : State) (l c : Nat) (e : Engine) (held : Bool) : Option QOp :=
  let q := ((s.spn l).queue e).filter fun o => o.ctx = c
  let o := if held then q.find? fun o => s.heldNow o && s.ready o else q.find? fun o => !s.heldNow o
  if s.engineFree l e then o.filter s.ready else none

/-- The queued operations of a context that an operation's start passes over: they are held aside (R378). -/
def State.passOver (s : State) (e : Engine) (q : QOp) : State :=
  let x := s.spn q.lspn
  s.setSpn q.lspn (x.setQueue e ((x.queue e).map fun o =>
    if o.ctx = q.ctx && o.seq < q.seq && s.heldNow o then { o with passed := true } else o))

/-! ### The tile journal (R524) -/

/-- The bobbin unit of a key of the spindle's bobbin. -/
def unitOf (key : Nat) : Option Nat := if spaceOf key = 4 then some (offOf key % 2 ^ 24 / 65536) else none

/-- The bobbin units that segments reach. -/
def State.unitsOf (s : State) (l c : Nat) (gs : List Seg) : List Nat :=
  (gs.flatMap fun g => g.points.filterMap fun a => (s.locate l c a).bind fun p => unitOf p.key).eraseDups

/-- The epochs of units. -/
def Spindle.epochsOf (x : Spindle) (us : List Nat) : List (Nat × BitVec 32) := us.map fun u => (u, x.epochs.get u 0)

/-- The entries of a tile in the journal. -/
def Spindle.entries (x : Spindle) (c t : Nat) : List JEntry := x.journal.filter fun e => e.ctx = c && e.tile = t

/-- A tile is replayable (R524). -/
def State.replayable (s : State) (l c t : Nat) : Bool :=
  let x := s.spn l
  let es := x.entries c t
  decide (es.length = ((s.ctx l c).tile t).journalled)
    && es.all fun e => e.epochs.all fun u => x.epochs.get u.1 0 = u.2

/-- Adds an entry of an operation's tile to the journal of 256: its passes from number `from_` on, and the units it read. -/
def State.journalAdd (s : State) (q : QOp) (from_ : Nat) (us : List Nat) : State :=
  let x := s.spn q.lspn
  let tn := q.form.tile.toNat
  let j := x.journal ++ [{ ctx := q.ctx, tile := tn, op := q, from_ := from_, epochs := x.epochsOf us }]
  let s := s.setSpn q.lspn { x with journal := j.drop (j.length - 256) }
  let y := s.ctx q.lspn q.ctx
  s.setCtx q.lspn q.ctx (y.setTile tn { y.tile tn with journalled := (y.tile tn).journalled + 1 })

/-- A check point of an operation's tile: its entries go, and the drain path keeps a copy of the add counts (R524); `base` is the
ACC.OPEN whose LOAD source is the check point. -/
def State.checkPoint (s : State) (q : QOp) (base : Option QOp) (kept : Table (Nat × Nat)) : State :=
  let x := s.spn q.lspn
  let tn := q.form.tile.toNat
  let s := s.setSpn q.lspn { x with journal := x.journal.filter fun e => !(e.ctx = q.ctx && e.tile = tn) }
  let y := s.ctx q.lspn q.ctx
  s.setCtx q.lspn q.ctx (y.setTile tn { y.tile tn with journalled := 0, base := base, kept := kept })

/-- The tile of an operation. -/
def State.tileOf (s : State) (q : QOp) : Tile := (s.ctx q.lspn q.ctx).tile q.form.tile.toNat

/-- The state with the tile of an operation replaced. -/
def State.setTileOf (s : State) (q : QOp) (t : Tile) : State :=
  s.setCtx q.lspn q.ctx ((s.ctx q.lspn q.ctx).setTile q.form.tile.toNat t)

/-- Whether a pass spilled its tile, from the state before and after it (R209). -/
def spilled (s s' : State) (q : QOp) (sh : Shape) : Bool :=
  match mxCheck s q sh with
  | .ok j =>
    decide ((s.tileOf q).interval ≠ 0 ∧
      (s'.tileOf q).groups < (s.tileOf q).groups + (domOf j.w.fmt j.x.fmt).passes * ((j.kv + j.dq - 1) / j.dq))
  | .error _ => false

/-- INIT of an ACC.OPEN is LOAD (R194). -/
def QOp.loads (q : QOp) : Bool := q.isOpen && q.modf 5 2 = 2

/-- The journal after an array operation that did its work (R524). A drain of a spilling tile spills it first (R215). -/
def journalOp (s s' : State) (q : QOp) : State :=
  match q.shape with
  | some sh =>
    (match mxCheck s q sh with
     | .ok j =>
       let us := s.unitsOf q.lspn q.ctx (j.w.segs j.nv j.kv .read ++ j.x.segs j.m j.kv .read)
       if spilled s s' q sh then
         let left := (s'.tileOf q).groups / ((j.kv + j.dq - 1) / j.dq)
         let from_ := (domOf j.w.fmt j.x.fmt).passes - left
         let t := s'.checkPoint q none ((mxPart s q sh 0 from_).1.tileOf q).adds
         if left = 0 then t else t.journalAdd q from_ us
       else s'.journalAdd q 0 us
     | .error _ => s')
  | none =>
    if q.isOpen then s'.checkPoint q (if q.loads then some q else none) (s'.tileOf q).adds
    else if q.isDrain ∧ (drainCfg q).src = 0 then
      if (drainCfg q).after = 0 ∧ (s.tileOf q).interval = 0 then s'.journalAdd q 0 []
      else s'.checkPoint q none (s'.tileOf q).adds
    else s'

/-- The state whose tile stands at its check point again (R525 step 1): the elements zero, beside the spill buffer, or the LOAD source
read again, and the add counts from their copy. None where the source cannot be read. -/
def State.rewindTile (s : State) (q : QOp) : Option State :=
  let t := s.tileOf q
  match t.base with
  | none => some (s.setTileOf q { t with elems := [], groups := 0, adds := t.kept, bad := false })
  | some o =>
    let r := runOp (s.setTileOf q {}) o
    if r.2.code ≠ 0 then none
    else some (r.1.setTileOf q { r.1.tileOf q with
      drains := t.drains, journalled := t.journalled, base := t.base, adds := t.kept, kept := t.kept })

/-- The state after the journalled passes of an operation's tile have run again from its check point (R525 step 2). -/
def State.replayTile (s : State) (q : QOp) : Option State :=
  (s.rewindTile q).map fun s0 =>
    ((s.spn q.lspn).entries q.ctx q.form.tile.toNat).foldl (fun t e =>
      match e.op.shape with
      | some sh => (mxPart t e.op sh e.from_ 6).1
      | none => t) s0

/-! ### Residues (R516, R525, R526) -/

/-- The unit whose groups an operation forms and checks before they are written (R516, R526, R334). -/
def groupUnit (q : QOp) : Option Nat :=
  match q.op with
  | .accDrain _ _ => some 1
  | .updStat _ _ | .updApply _ _ => some 4
  | .veAdd _ _ | .veSub _ _ | .veMul _ _ | .veNeg _ _ | .veAbs _ _ | .veCvt _ _ | .veRecip _ _ | .veSqrt _ _
  | .veRsqrt _ _ | .veLog2 _ _
  | .veLn _ _ | .veExp _ _ | .veSigmoid _ _ | .veSum _ _ | .veSumsq _ _ | .veLsum _ _ | .veLse _ _
  | .veSoftmax _ _ | .vePow _ _ | .veCombine _ _ | .veKltopk _ _ | .veQz _ _ | .veDq _ _ | .veXpose _ _
  | .shutScan _ _ | .shutEmit _ _ => some 2
  | _ => none

/-- The operation reads the tables of R518: those of the array and of the units that form groups, and of a reel that packs the
converter (R242). -/
def readsTable (q : QOp) : Bool :=
  q.shape.isSome || (groupUnit q).isSome
  || (match q.op with
      | .reelIn _ _ | .reelOut _ _ => decide ((reelCfg q).mode = 3)
      | _ => false)

/-- The operation reads values of the accumulator store: a pass that spills, or a drain of a tile (R209, R525). -/
def readsStore (s s' : State) (q : QOp) : Bool :=
  match q.shape with
  | some sh => spilled s s' q sh
  | none => q.isDrain && decide ((drainCfg q).src = 0)

/-- A RESIDUE record (R546). -/
def State.residueRec (s : State) (q : QOp) (n unit : Nat) : State :=
  match s.job? q.job with
  | some b => s.baroWrite 0x01 2 true [locW .site (s.workSite q.lspn), jobW b, codeW 0x40 n unit]
  | none => s

/-- Counts a tile replay (R539). -/
def State.countTrep (s : State) : State :=
  let v := s.mill.rstat0
  let n := min (v.toNat / 2 ^ 32 + 1) (2 ^ 32 - 1)
  { s with mill := { s.mill with rstat0 := BitVec.ofNat 64 (n * 2 ^ 32 + v.toNat % 2 ^ 32) } }

/-- Chooses a drained tile for twin sampling (R536). -/
def sample (s s' : State) (q : QOp) (r : Run) : State :=
  let frac := (s.wp 2).toNat % 32
  let p := s.workSite q.lspn
  let n := s'.mill.drains
  let s' := { s' with mill := { s'.mill with drains := n + 1 } }
  let t := q.form.tile.toNat
  match s.twinSites p with
  | w :: _ =>
    if frac ≠ 0 ∧ (drainCfg q).src = 0 ∧ (drainCfg q).mode ≠ 2 ∧ s.replayable q.lspn q.ctx t ∧ Config.twinChosen frac n then
      let es := ((s.spn q.lspn).entries q.ctx t).flatMap (·.epochs)
      let tw : Twin := { num := s'.mill.twinNum, job := q.job, site := p, twin := w, dig := digest128 (r.w.map (·.2)), epochs := es, lspn := q.lspn }
      { s' with mill := { s'.mill with twins := s'.mill.twins ++ [tw], twinNum := s'.mill.twinNum + 1 } }
    else s'
  | [] => s'

/-- Retires the site at which a failure repeated, where it is not retired yet (R334, R540). -/
def State.retireAgain (s : State) (p : Nat) : State := if s.siteState p = 3 then s else s.retireSite p 0x01 2

/-- An operation's outcome after its checks: the state, what it will show, and the failure that it still has to report
(site, unit, and whether a tile replay failed too). -/
abbrev Checked : Type := State × Run × Option (Nat × Nat × Bool)

/-- A value read from the store fails: a tile replay forms it again, and the operation is performed again; or RESIDUE (R525). -/
def storeUpset (s : State) (q : QOp) (unit : Nat) (again : Bool) : Checked :=
  let p := s.workSite q.lspn
  match if s.trpl && s.replayable q.lspn q.ctx q.form.tile.toNat then s.replayTile q else none with
  | some t =>
    let replay (s : State) : State := (s.countTrep.residueRec q 0 unit).attribute p
    if again then (replay s, Run.fail 0x40 0, some (p, unit, true)) else (replay (runOp t q).1, (runOp t q).2, none)
  | none => (s, Run.fail 0x40 0, some (p, unit, false))

/-- A group fails its check: it is formed again, and RESIDUE where it fails again; a repeated failure of UPD retires the
spindle and the operation goes on (R526, R334). -/
def groupUpset (s s' : State) (q : QOp) (r : Run) (unit : Nat) (again : Bool) : Checked :=
  let p := s.workSite q.lspn
  let formed (s : State) : State := (s.residueRec q 3 unit).attribute p
  if !again then (formed s', r, none)
  else if q.isUpd then ((formed s').retireAgain p, r, none)
  else (formed s, Run.fail 0x40 0, some (p, unit, false))

/-- The element of an operation's tile that a store word holds (R188). -/
def State.storeElem (s : State) (q : QOp) (i : Nat) : Acc := (s.tileOf q).elem (i / (s.tileOf q).cols) (i % (s.tileOf q).cols)

/-- The state whose tile holds an element that is off by an error (R517). -/
def State.bumpElem (s : State) (q : QOp) (e : Nat × Int) : State :=
  let t := s.tileOf q
  s.setTileOf q (t.setElem (e.1 / t.cols) (e.1 % t.cols) ((s.storeElem q e.1).bump e.2) (t.addCount (e.1 / t.cols) (e.1 % t.cols)))

/-- The element of its tile in which an upset of an operation leaves an error that no check finds, and the error: in a store word that
the operation reads, or in the sum of a pass (R517, R520). -/
def strayElem (s s' : State) (q : QOp) (u : Upset) : Option (Nat × Int) :=
  match u with
  | .store _ i _ _ _ _ =>
    let d := (storeOutcome u (s.storeElem q i).fixed).2
    if d ≠ 0 ∧ readsStore s s' q then some (i, d) else none
  | _ =>
    let o := upsetOutcome u (s.storeElem q (upsetBytes u).1).fixed
    if q.shape.isSome ∧ o.1 = 0 ∧ o.2 ≠ 0 then some ((upsetBytes u).1, o.2) else none

/-- Runs an operation, where errors that no check finds stand in elements of its tile (R517, R520). -/
def runStruck (s : State) (q : QOp) (us : List Upset) : State × Run :=
  let o := runOp s q
  match us.filterMap (strayElem s o.1 q) with
  | [] => o
  | es => if o.2.code = 0 then runOp (es.foldl (fun t e => t.bumpElem q e) s) q else o

/-- What the checks make of an upset of a group that an operation forms: the group is formed again, or the operation fails, or an
error escapes (R516 to R518, R526). -/
def checkGroup (s s' : State) (q : QOp) (r : Run) (u : Upset) (unit : Nat) : Checked :=
  let n := groupFails u (r.struck u)
  let r' := r.stray s'.free u
  let t := if r' = r then s' else s'.skipFree (r.w.length + r.phys.length)
  if n = 0 then (t, r', none) else groupUpset s t q r' unit (n = 2)

/-- An error in the arithmetic of a pass: the residue that does not agree goes with the tile, and a pass that spills checks it at the
spill (R516). -/
def checkPass (s : State) (a : Checked) (q : QOp) (u : Upset) (unit : Nat) : Checked :=
  let n := groupFails u (s.storeElem q (upsetBytes u).1).fixed
  if n = 0 then a
  else if readsStore s a.1 q then storeUpset s q unit (n = 2)
  else (a.1.setTileOf q { a.1.tileOf q with bad := true }, a.2.1, none)

/-- What the checks of an operation that did its work make of one upset (R516 to R518, R520, R525, R526). -/
def checkOne (s : State) (q : QOp) (a : Checked) (u : Upset) : Checked :=
  if a.2.1.code ≠ 0 then a
  else match u with
  | .none => a
  | .store w i _ _ _ _ =>
    if !readsStore s a.1 q then a
    else if (storeCorrects u).isSome then (a.1.storeCorrected (s.workSite q.lspn) w.toNat, a.2.1, none)
    else
      let n := (storeOutcome u (s.storeElem q i).fixed).1
      if n = 0 then a else storeUpset s q 5 (n = 2)
  | .table both _ =>
    if !readsTable q then a
    else if !both then (a.1.residueRec q 3 6, a.2.1, none)
    else if q.shape.isSome then checkPass s a q u 6
    else if (groupUnit q).isSome then checkGroup s a.1 q a.2.1 u 6
    else (s, Run.fail 0x40 0, some (s.workSite q.lspn, 6, false))
  | u =>
    match groupUnit q with
    | some unit => checkGroup s a.1 q a.2.1 u unit
    | none => if q.shape.isSome then checkPass s a q u 0 else a

/-- What the checks of an operation that did its work see: a residue that its tile carries, and the upsets that meet it (R516, R525). -/
def checks (s s' : State) (q : QOp) (r : Run) (us : List Upset) : Checked :=
  us.foldl (checkOne s q) (if (s.tileOf q).bad && readsStore s s' q then storeUpset s q 0 false else (s', r, none))

/-! ### Operations that the program has not ordered (R117, R335) -/

/-- The operations that run. -/
def State.runs (s : State) : List ROp := s.spindles.flatMap fun p => p.2.running.map (·.2)

/-- The bytes that operations which have not ended write, as an operation that is not ordered after them sees them: each unit of 64
bytes old or new (R117, R335). -/
def State.unordered (s : State) : List Host.Cell :=
  s.runs.zipIdx.flatMap fun r => r.1.writes.filter fun w => Config.seesNew (s.free + r.2) (w.1 / 64)

/-- Runs an operation on what it sees of memory; bytes that it does not write itself stay (R117). -/
def runSeen (s : State) (q : QOp) (us : List Upset) : State × Run :=
  match s.unordered with
  | [] => runStruck s q us
  | ws =>
    let v := { s with mem := Mem.setAll s.mem ws }
    let o := runStruck v q us
    let back := ws.filterMap fun w => if Mem.get o.1.mem w.1 = Mem.get v.mem w.1 then some (w.1, Mem.get s.mem w.1) else none
    ({ o.1 with mem := Mem.setAll o.1.mem back, free := o.1.free + s.runs.length }, o.2)

/-- What an operation gives hangs on memory and on its captures alone, so that a run on another memory gives what it would have
given there. -/
def QOp.pure (q : QOp) : Bool :=
  match q.op with
  | .accOpen _ _ | .accDrain _ _ | .reelPsend _ _ | .syncPrecv _ _ | .shutEmit _ _ | .shutTake _ _ | .shutFree _ _ => false
  | _ => q.shape.isNone

/-- An accumulator element that nothing determines: a free value (log entry 3). -/
def freeAcc (f : AccFmt) (n : Nat) : Acc :=
  let v := (Config.freeBits n).toNat % 2 ^ 32
  match f, (decodeElem .fp32 false v).1, (decodeElem .al32 false v).1 with
  | .af32, .lin x, _ => .af x
  | .al32, _, .log g => .al g
  | .ai32, _, _ => .ai (BitVec.ofNat 32 v)
  | f, _, _ => accZero f

/-- The state whose tile of a pass holds undetermined elements where the pass adds (log entry 3). -/
def State.freeTile (s : State) (q : QOp) : State :=
  match q.shape.map (mxCheck s q) with
  | some (.ok j) =>
    ((List.range j.m).foldl (fun (s : State) i => (List.range j.nv).foldl (fun (s : State) n =>
      let t := s.tileOf q
      (s.setTileOf q (t.setElem (j.row0 + i) (j.col0 + n) (freeAcc t.fmt s.free) (t.addCount (j.row0 + i) (j.col0 + n)))).skipFree 1) s) s)
  | _ => s

/-- What a started operation shows where the bytes that it moves are undetermined (log entry 3). -/
def ROp.freed (r : ROp) (n : Nat) : ROp :=
  { r with
    writes := r.writes.zipIdx.map fun w => (w.1.1, (Config.freeBits (n + w.2)).truncate 8)
    sends := r.sends.zipIdx.map fun x =>
      { x.1 with data := x.1.data.zipIdx.map fun b => (Config.freeBits (n + r.writes.length + 4096 * x.2 + b.2)).truncate 8 } }

/-- A running operation beside which another one starts that writes `ws`: of the bytes that it reads it may see each unit of 64 bytes new
(R117, R335). DESIGN CHOICE (log entry 3): the sums of an array pass, and the bytes of an operation that has changed more than memory
by its start, are left undetermined. -/
def State.overtakeOne (s : State) (ws : List Host.Cell) (r : ROp) : State × ROp :=
  let us := (ws.map fun w => (poisonUnit w.1).1).eraseDups
  if !{ s with mem := r.view }.readsUnits r.q us then (s, r)
  else if r.q.pure then
    let m := Mem.setAll r.view (ws.filter fun w => Config.seesNew s.free (w.1 / 64))
    let o := (runOp { s with mem := m } r.q).2
    (s.skipFree 1, { rop s r.q o with residue := r.residue, closes := r.closes, view := m })
  else if r.q.shape.isSome then (s.freeTile r.q, r)
  else (s.skipFree (r.writes.length + 4096 * r.sends.length), r.freed s.free)

/-- The running operations of a list beside which one starts that writes `ws`. -/
def State.overtakeIn (s : State) (ws : List Host.Cell) (l : Nat) : State :=
  let o := (s.spn l).running.foldl (fun (a : State × List (Engine × ROp)) er =>
    let x := a.1.overtakeOne ws er.2
    (x.1, a.2 ++ [(er.1, x.2)])) (s, [])
  o.1.setSpn l { o.1.spn l with running := o.2 }

/-- The state in which an operation that writes `ws` starts beside those that run. -/
def State.overtake (s : State) (ws : List Host.Cell) : State :=
  if s.runs = [] then s else s.spindles.foldl (fun t p => t.overtakeIn ws p.1) s

/-- Starts an operation: it leaves its queue, runs, and waits for its knot (R379, R380, R525, R526). `us` are the upsets that meet its
groups, each checked on its own (R516). -/
def State.startOp (s : State) (e : Engine) (q : QOp) (us : List Upset) : State :=
  let x := s.spn q.lspn
  let s := s.setSpn q.lspn (x.setQueue e ((x.queue e).erase q))
  let o := runSeen s q us
  let fin : Checked := if o.2.code = 0 then checks s o.1 q o.2 us else (o.1, o.2, none)
  let r := fin.2.1
  let s1 := if r.code = 0x40 then fin.1 else journalOp s fin.1 q
  let s1 := if q.isDrain ∧ r.code = 0 then sample s s1 q r else s1
  let x := { rop s1 q r with residue := fin.2.2, closes := closing s s1 q, view := Mem.setAll s.mem s.unordered }
  let s2 := s1.overtake x.writes
  let y := s2.spn q.lspn
  s2.setSpn q.lspn { y with running := y.running ++ [(e, x)] }

/-! ### What an operation shows at its knot (R380) -/

/-- Bobbin epochs after a list of writes: one advance for each unit written (R524). -/
def Spindle.advance (x : Spindle) (ws : List Host.Cell) : Spindle :=
  let us := (ws.filterMap fun w => unitOf w.1).eraseDups
  { x with epochs := us.foldl (fun t u => t.set u (t.get u 0 + 1) 0) x.epochs }

/-- Adds flags to the flag registers of the context (R50, R254, R332). -/
def State.addFlags (s : State) (q : QOp) (f : Flags) : State :=
  let x := s.ctx q.lspn q.ctx
  s.setCtx q.lspn q.ctx { x with
    arithFlags := x.arithFlags ||| f.arith.zeroExtend 32
    qzFlags := x.qzFlags ||| f.qz.zeroExtend 32
    updFlags := x.updFlags ||| f.upd.zeroExtend 32 }

/-- The record of a fault (R546): RESIDUE, with the attribution of the failure (R540), or POISON, for a fault of code
RESIDUE; JOB_FAULT for the others that do not only continue and for STEP_SKEW (R348); `n` is the outcome. -/
def State.faultRec (s : State) (b : Job) (r : ROp) (n : Nat) : State :=
  let loc := if r.addr = 0 then noLoc else locW .address r.addr
  if r.code = 0x40 then
    match r.residue with
    | some (p, unit, again) =>
      let s := (s.baroWrite 0x01 2 true [locW .site p, jobW b, codeW 0x40 n unit]).attribute p
      if again then s.retireAgain p else s
    | none => s.baroWrite 0x08 2 true [loc, jobW b]
  else if r.code = 0x31 then
    match r.info with
    | some i => s.baroWrite 0x0A 2 true
        [BitVec.ofNat 64 (b.jslot % 256 * 2 ^ 56 + b.client % 256 * 2 ^ 48 + i.1 % 2 ^ 48), codeW 0x31 0 i.2, loc]
    | none => s
  else if dispOf r.code = .go then s
  else s.baroWrite 0x0A 2 true [jobW b, codeW r.code.toNat 0 0, loc]

/-- What makes two faults of one code the same fault (R239, R391): the places of all that the operation found; for a failed check its
site and unit. -/
def ROp.faultIds (r : ROp) : List Nat :=
  match r.residue with
  | some (p, unit, _) => [2 ^ 100 + p * 8 + unit]
  | none => if r.ids = [] then [0] else r.ids

/-- A fault that asks for a replay, or ends the job: where it does not commit in steps, or the fault repeats one of the replayed step
(R391). `rec_` writes its record, by the outcome. -/
def State.replayOrEnd (s : State) (j : Nat) (b : Job) (code : Byte) (ids : List Nat) (rec_ : Nat → State → State) : State :=
  if !b.steps ∨ ids.any (fun i => (code, i) ∈ b.seen) then (rec_ 2 s).endJob j code
  else ids.foldl (fun t i => t.needReplay j code i) (rec_ 1 s)

/-- The mill's part in an engine fault (R391, R512, R528). The code of an operation that completes while a replay of the step is pending is
discarded (R527). -/
def State.engineFault (s : State) (r : ROp) : State :=
  match s.job? r.q.job with
  | none => s
  | some b =>
    if r.code = 0 ∨ b.fault.isSome then s
    else
      let s := s.setJob r.q.job (b.countAny r.code)
      match dispOf r.code with
      | .go => s.faultRec b r 0
      | .finish => (s.faultRec b r 2).endJob r.q.job r.code
      | .replayEnd => s.replayOrEnd r.q.job b r.code r.faultIds fun n s => s.faultRec b r n

/-- Every POST entry of the last commit has started (R475, R521). -/
def Job.postsStarted (b : Job) : Bool :=
  !b.postDue || b.cols.zipIdx.all fun c => !c.1.post || b.flights.any fun f => f.entry = c.2 && f.step + 1 = b.step

/-- A job that ends without a fault still finishes the POST entries of its last commit (R521; log entry 35). -/
def Job.postOpen (b : Job) : Bool :=
  (b.endWith = some 0 || b.endWith = some 0x6A) && (!b.postsStarted || b.tail.isSome || b.flights.any fun f => !f.done)

/-- A job that has been decided to end and has nothing left to complete. -/
def State.idleJob (s : State) (j : Nat) : Bool :=
  !s.started j && !((s.job? j).any Job.postOpen) && !(s.spindles.any fun p => p.2.queued.any fun q => q.job = j && s.willRun q)

/-- Removes the jobs that end and have completed their operations (R388, R511). -/
def State.reap (s : State) : State :=
  s.mill.jobs.foldl (fun s p =>
    match p.2.endWith with
    | some c => if s.idleJob p.1 then s.removeJob p.1 c else s
    | none => s) s

/-- Finishes the oldest operation that runs on an engine (R380). -/
def State.finishOp (s : State) (l : Nat) (e : Engine) : State :=
  match (s.spn l).running.find? fun r => r.1 = e with
  | none => s
  | some er =>
    let r := er.2
    let q := r.q
    let x := (s.spn l).advance (r.writes ++ r.atoms.map fun a => (a.addr, 0))
    let s := s.setSpn l { x with running := x.running.erase er }
    let s := { s with mem := Mem.setAll s.mem r.writes, poison := s.healed r.writes }
    let s := r.atoms.foldl State.atomicAt s
    let s := s.modJob q.job fun b => { b with
      staging := b.staging ++ r.stages
      records := match r.rcd with
        | some k => if b.records.any (fun r => r.1 = k.1) then b.records else b.records ++ [k]
        | none => b.records }
    let s := s.addFlags q r.flags
    let s := s.sendAll r.sends
    let s := match r.prod with
      | some p => s.setFrame p.1 { s.frame p.1 with prod := (s.frame p.1).prod + BitVec.ofNat 16 p.2 }
      | none => s
    let s := match r.closes with
      | some t => s.setCtx l q.ctx ((s.ctx l q.ctx).setTile t {})
      | none => s
    let s := if q.kout = 0 then s else s.signalKnot l q.ctx q.kout q.karm r.code
    (s.engineFault r).reap

end Sys2Proof.Machine
end

