-- ==== Sys2Proof/Machine/Issue.lean ====
section
/-! DEFINITION. The controller's side of every instruction: whether its context may issue, the fetch check
(R389, R436), reserved fields (R377), and the issue of E-format instructions (R376 to R380, R384, R399). -/

namespace Sys2Proof.Machine

/-- How a context stands to its next instruction. -/
inductive CtlStart where
  | stall
  | fetchFault
  | go (b : Job)
  deriving DecidableEq, Repr, Inhabited

/-- Whether a context issues: the module is ready, the context runs, its job is resident, does not end, waits for no replay of its
step and is not being switched out, and no spot test holds the spindle; and whether its page may be fetched from (R388, R389, R434,
R436, R506, R527, R534). -/
def State.ctlStart (s : State) (w : Who) : CtlStart :=
  let x := s.who w
  match s.job? x.job with
  | none => .stall
  | some b =>
    if !s.on || x.status ≠ .running || b.endWith.isSome || b.fault.isSome || b.stopping || b.st ≠ .resident || s.testing w.lspn.toNat then .stall
    else match s.locate w.lspn.toNat w.ctx.toNat x.pc.toNat with
      | some p => if p.ex then .go b else .fetchFault
      | none => .fetchFault

/-- The address after an instruction. -/
def Ctx.next (x : Ctx) : Ctx := { x with pc := x.pc + 8 }

/-- The common frame of a controller instruction: the stall, the fetch fault, ILLEGAL for a reserved field, else the
instruction's own effect (R377, R388, R389). -/
def State.controller (s : State) (w : Who) (word : Word) (bad : Bool) (eff : Job → Ctx → State) : State :=
  match s.ctlStart w with
  | .stall => s
  | .fetchFault => (s.ctlFault w 3 0).reap
  | .go b => if bad then (s.ctlFault w 1 word).reap else eff b (s.who w)

/-- What the issue of an E-format instruction needs to know of it: its word's MAJOR and form, whether a field of it
holds a reserved encoding, its engine, the descriptors its word names, the bytes of DESC's descriptor that name
more, as that descriptor uses them (R398), the scalar registers it names, and whether it counts as a vector engine operation (R353). -/
structure Iss where
  major  : Nat
  form   : EForm
  bad    : Bool
  engine : Engine
  descs  : List Nat
  nested : Line → List Nat := fun _ => []
  params : List Nat := []
  ve     : Bool := false

/-- A scalar register; s0 reads as zero (R371). -/
def Ctx.sreg (x : Ctx) (n : Nat) : Word := if n = 0 then 0 else x.s.get n 0

/-- A predicate; p0 reads as 1 (R371). -/
def Ctx.pred (x : Ctx) (n : Nat) : Bool := n = 0 || x.p.toNat.testBit n

/-- Whether an E-format instruction executes (R376). -/
def Ctx.executes (x : Ctx) (f : EForm) : Bool := x.pred (f.modf 29 3) != (f.modf 28 1 = 1)

/-- A descriptor of a context's file (R384). -/
def State.descOf (s : State) (l c n : Nat) : Line :=
  BitVec.ofNat 512 (s.natAt (s.bobbinKey l (0x9F0000 + 0x4000 * c + 64 * n)) 64)

/-- Memory as a capture of the descriptor file sees it: of the units that operations write which have not ended, each old or new
(R117, R385). -/
def State.fileView (s : State) (l c : Nat) : State :=
  { s with mem := Mem.setAll s.mem (s.runs.zipIdx.flatMap fun r =>
    r.1.writes.filter fun w => Config.capturesNew (4 * l + c) (s.ctx l c).seq r.2 (w.1 / 64)) }

/-- The descriptors that an instruction captures (R384, R385). -/
def State.captures (s : State) (l c : Nat) (i : Iss) : Table Line :=
  let s := s.fileView l c
  let first := i.descs.map fun n => (n, s.descOf l c n)
  let sub := match first with
    | d :: _ => (i.nested d.2).map fun b => (lineBytes d.2 b b)
    | [] => []
  (first ++ sub.map fun n => (n, s.descOf l c n)).foldl (fun t p => t.put p.1 p.2) []

/-- Issues an E-format instruction (R376, R379, R380, R384, R399). -/
def State.issueOp (s : State) (w : Who) (op : Instr) (i : Iss) (b : Job) (x : Ctx) : State :=
  let l := w.lspn.toNat
  let c := w.ctx.toNat
  let k := i.form.kout.toNat
  if (x.knot k).pending then s
  else if !x.executes i.form then
    let y := x.armKnot k
    s.setWho w (y.setKnot k { y.knot k with pending := false, code := 0, bad := false }).next
  else if !(s.spn l).room i.engine c then s
  else
    let y := x.armKnot k
    let o : QOp :=
      { lspn := l, ctx := c, job := x.job, op := op, form := i.form, seq := x.seq
        descs := s.captures l c i, params := i.params.map x.sreg
        kout := k, karm := (y.knot k).arm, wait := x.capture i.form.kwait.toNat
        arith := x.arithCtl, qz := x.qzCtl, upd := x.updCtl, step := x.step, ord := x.veOrd }
    let buf := o.isDrain && lineBytes o.desc0 0 0 = 0x0D && (drainCfg o).src = 1
    let o := { o with ord := if buf then x.bufDrains else o.ord, aside := o.isUpd && b.steps }
    let y := { y with
      seq := x.seq + 1
      veOrd := if i.ve then x.veOrd + 1 else x.veOrd
      bufDrains := if buf then x.bufDrains + 1 else x.bufDrains }
    let s := s.setWho w y.next
    s.setSpn l ((s.spn l).setQueue i.engine ((s.spn l).queue i.engine ++ [o]))

/-- An E-format instruction: the controller's frame around its issue. -/
def State.issue (s : State) (w : Who) (op : Instr) (i : Iss) : State :=
  s.controller w (eWord i.major i.form) i.bad fun b x => s.issueOp w op i b x

end Sys2Proof.Machine
end

