-- ==== Sys2Proof/Machine/Array.lean ====
section
/-! DEFINITION. The array instructions (R405 to R409): issue; Machine/Tiles.lean and Machine/Drain.lean say what they do. -/

namespace Sys2Proof.Machine

/-- What the issue of an array pass needs (R405). -/
def mxIss (g : EForm) : Iss :=
  { major := 0x10, form := g, bad := g.modf 24 2 ≠ 0 || g.modf 4 2 = 3 || g.modf 2 2 = 3 || g.modf 0 2 ≠ 0
    engine := .array, descs := [g.desc.toNat, g.modf 16 8], params := [g.modf 11 5] }

/-- MX.F: issues an array pass (R405, R407). -/
def execMxF (w : Who) (f : EForm) (s : State) : Host.Outcome State Fault Refusal :=
  let g := f.op 8 3 0
  .next (s.issue w (.mxF w g) (mxIss g))

/-- MX.H: issues an array pass (R405, R407). -/
def execMxH (w : Who) (f : EForm) (s : State) : Host.Outcome State Fault Refusal :=
  let g := f.op 8 3 1
  .next (s.issue w (.mxH w g) (mxIss g))

/-- MX.Q: issues an array pass (R405, R407). -/
def execMxQ (w : Who) (f : EForm) (s : State) : Host.Outcome State Fault Refusal :=
  let g := f.op 8 3 2
  .next (s.issue w (.mxQ w g) (mxIss g))

/-- MX.RIB32: issues an array pass (R405, R407). -/
def execMxRib32 (w : Who) (f : EForm) (s : State) : Host.Outcome State Fault Refusal :=
  let g := f.op 8 3 3
  .next (s.issue w (.mxRib32 w g) (mxIss g))

/-- MX.RIB16: issues an array pass (R405, R407). -/
def execMxRib16 (w : Who) (f : EForm) (s : State) : Host.Outcome State Fault Refusal :=
  let g := f.op 8 3 4
  .next (s.issue w (.mxRib16 w g) (mxIss g))

/-- ACC.OPEN: issues the opening of a tile; with INIT = ZERO and S = 0 its DESC is not used (R193, R398, R408). -/
def execAccOpen (w : Who) (f : EForm) (s : State) : Host.Outcome State Fault Refusal :=
  let g := f
  .next (s.issue w (.accOpen w g) 
    { major := 0x11, form := g, bad := g.modf 24 2 = 3 || 5 ≤ g.modf 7 3 || g.modf 5 2 = 3 || g.modf 0 5 ≠ 0
      engine := .array, params := [g.modf 19 5]
      descs := if g.modf 5 2 = 0 && (s.who w).sreg (g.modf 19 5) = 0 then [] else [g.desc.toNat] })

/-- The bytes of a drain descriptor whose descriptors a drain uses (R213, R214, R398): the output, and those that its fields ask
for; raw mode uses no scale, no bias and no observers. -/
def drainNested (d : Line) : List Nat :=
  let c := lineBytes d 11 8
  if lineBytes d 0 0 ≠ 0x0D then []
  else
    let raw := bitsOf c 21 2 = 1
    [1] ++ (if raw ∨ bitsOf c 28 2 = 0 then [] else [2]) ++ (if raw ∨ bitsOf c 26 2 = 0 then [] else [3])
      ++ (if raw ∨ bitsOf c 15 4 = 0 then [] else [4]) ++ (if bitsOf c 30 2 = 1 then [5] else [])
      ++ (if bitsOf c 21 2 = 2 then [6] else [])

/-- ACC.DRAIN: issues a drain (R212, R409). -/
def execAccDrain (w : Who) (f : EForm) (s : State) : Host.Outcome State Fault Refusal :=
  let g := f
  .next (s.issue w (.accDrain w g) 
    { major := 0x12, form := g, bad := g.modf 0 26 ≠ 0, engine := .array
      descs := [g.desc.toNat], nested := drainNested })

end Sys2Proof.Machine
end

