-- ==== Sys2Proof/Machine/Flags.lean ====
section
/-! DEFINITION. Register writes by field (R12 to R17), the control and flag registers of a context (R46, R49, R241, R254,
R331, R332), and the context registers that a program reads (R197, R354, R355, R373). -/

namespace Sys2Proof.Machine

/-- A writable field of a register: its low bit, its width and its reserved encodings. -/
structure Fld where
  lo  : Nat
  w   : Nat
  bad : Nat → Bool

/-- Writes one field; a reserved encoding leaves it (R17). -/
def Fld.put (f : Fld) (v old : Nat) : Nat :=
  let x := bitsOf v f.lo f.w
  if f.bad x then old else old - bitsOf old f.lo f.w * 2 ^ f.lo + x * 2 ^ f.lo

/-- Writes a register's fields; every other bit stays (R12, R16). -/
def putFields (fs : List Fld) (v old : Nat) : Nat := fs.foldl (fun o f => f.put v o) old

/-- A field without reserved encodings. -/
def fld (lo w : Nat) : Fld := ⟨lo, w, fun _ => false⟩

/-- The fields of ARITH_CTL (R46). -/
def arithFields : List Fld := [⟨6, 2, (· = 3)⟩, fld 4 1, fld 3 1, ⟨0, 2, (· = 3)⟩]

/-- The fields of QZ_CTL (R241). -/
def qzFields : List Fld :=
  [⟨22, 5, (20 < ·)⟩, fld 18 4, fld 12 6, ⟨10, 2, (· = 3)⟩, ⟨8, 2, (· = 3)⟩, fld 6 2]

/-- The field of UPD_CTL (R331). -/
def updFields : List Fld := [⟨0, 8, (127 < ·)⟩]

/-- Clears the bits that a write to a W1C register names (R12), within a mask. -/
def w1c (old v mask : BitVec 32) : BitVec 32 := old &&& ~~~(v &&& mask)

end Sys2Proof.Machine
end

