-- ==== Sys2Proof/Machine/JobParse.lean ====
section
/-! DEFINITION. Reading a job descriptor and its blocks, and the checks of R501 that need no placement (R284 to R286,
R313, R364, R365, R396, R473, R474, R499, R500, R596). -/

namespace Sys2Proof.Machine

/-- A refusal of a job, as its completion's STATUS. -/
abbrev Chk (α : Type) := Except Byte α

/-- Continues unless a check fails. -/
def ask (ok : Bool) (code : Byte) : Chk Unit := if ok then .ok () else .error code

/-- JOB_CFG (R513). -/
def jobCfg : Byte := 0x60

/-- A field of a block at a key. -/
def State.fieldAt (s : State) (key off n : Nat) : Nat := s.natAt (key + off) n

/-! ### Regions (R500) -/

/-- Region entry i of the table at a key. -/
def State.readRegion (s : State) (key : Nat) : Region :=
  let f := s.fieldAt key
  { vbase := f 0 8, npages := f 8 4, tier := f 12 1, wr := (f 13 1).testBit 0, ex := (f 13 1).testBit 1
    tch := (f 13 1).testBit 2, fix := (f 13 1).testBit 3, pref := f 14 1, slot := f 15 1, host := f 16 8 }

/-- The device address after a region's last page. -/
def Region.stop (r : Region) : Nat := r.vbase + r.npages * 2 ^ 21

/-- The first page of the creel window that a creel region takes (R500). -/
def Region.window (r : Region) : Nat := (r.vbase - (2 ^ 56 + 0x10000000)) / 2 ^ 21

/-- Whether a region entry keeps R500, for a client; `flags` is its RFLAGS byte. -/
def Region.ok (r : Region) (flags client : Nat) : Bool :=
  decide (flags < 16) && decide (r.tier ≤ 3) && decide (1 ≤ r.npages) && decide (r.vbase % 2 ^ 21 = 0)
  && (if r.tier = 0 then
        decide (r.pref < 32) && (decide (r.slot < 16) || r.slot = 0xFF) && decide (r.host = 0)
        && decide (2 ^ 56 + 0x10000000 ≤ r.vbase) && decide (r.stop ≤ 2 ^ 56 + 0x12000000)
        && (r.slot = 0xFF || decide (r.slot + r.npages ≤ 16))
      else
        decide (r.stop ≤ 2 ^ 56) && r.slot = 0xFF
        && (if r.tier = 3 then r.pref = 0xFF && decide (r.host % 2 ^ 21 = 0) && decide (client < 32)
            else (decide (r.pref < 4) || r.pref = 0xFF) && r.host = 0))

/-- Whether two regions overlap. -/
def Region.meets (a b : Region) : Bool :=
  (decide (a.tier ≠ 0) || decide (b.tier ≠ 0) || a.pref = b.pref) && decide (a.vbase < b.stop) && decide (b.vbase < a.stop)

/-- Whether no two regions of a list overlap. -/
def apart : List Region → Bool
  | [] => true
  | r :: rs => !(rs.any r.meets) && apart rs

/-- Whether the bytes from `a` to before `e` lie in regions that a test picks; `fuel` bounds how many follow one another. -/
def covered (rs : List Region) (p : Region → Bool) : Nat → Nat → Nat → Bool
  | 0, _, _ => false
  | fuel + 1, a, e =>
    match rs.find? fun r => p r && decide (r.vbase ≤ a) && decide (a < r.stop) with
    | some r => decide (e ≤ r.stop) || covered rs p fuel r.stop e
    | none => false

/-- Whether bytes lie wholly in fixed HBM pages of the regions, which may adjoin (R438). -/
def fixedHbm (rs : List Region) (a n : Nat) : Bool := covered rs (fun r => r.tier = 1 && r.fix) rs.length a (a + n)

/-- The key of a device address in a host region, before anything is placed (R437, R500). -/
def hostKey (rs : List Region) (a : Nat) : Option Nat :=
  (rs.find? fun r => r.tier = 3 && decide (r.vbase ≤ a) && decide (a < r.stop)).map fun r => keyOf 0 (r.host + (a - r.vbase))

/-! ### Program images (R396) -/

/-- Whether an image header keeps its ranges (R396). -/
def State.imageOk (s : State) (key : Nat) : Bool :=
  let f := s.fieldAt key
  f 0 1 = 0x71 && f 1 1 = 0 && decide (f 2 2 ≤ 256) && f 4 4 = 0 && f 8 4 % 8 = 0 && f 16 4 % 64 = 0
  && decide (f 20 1 ≤ 64) && f 21 43 = 0

/-! ### The pair block (R284 to R286) -/

/-- Reads a pair block. -/
def State.readPair (s : State) (key : Nat) : PairBlk :=
  let f := s.fieldAt key
  { tmask := BitVec.ofNat 32 (f 0 4), smask := BitVec.ofNat 32 (f 4 4), k := f 10 1, temp := BitVec.ofNat 16 (f 12 2)
    ents := (List.range (f 9 1)).map fun i =>
      let v := f (16 + 4 * i) 4
      { peer := BitVec.ofNat 14 (bitsOf v 18 14), sframe := bitsOf v 13 5, pspn := bitsOf v 5 8, dir := v.testBit 4 } }

/-- Whether a shuttle entry is local: both ends on this module (R285). -/
def State.localEnt (s : State) (e : ShEnt) : Bool := e.peer = s.coord

/-- Whether an entry names a shuttle that frame f of this module consumes (R285, R286). -/
def State.consumes (s : State) (e : ShEnt) (f : Nat) : Bool := e.sframe = f && (!e.dir || s.localEnt e)

/-- A shuttle by its two ends: the producer's module and logical spindle, the consumer's module and frame (R285). -/
structure Shuttle where
  prodMod : Coord
  pspn    : Nat
  consMod : Coord
  sframe  : Nat
  deriving DecidableEq, Repr, Inhabited

/-- The shuttles that entries name, without the repeats that name one shuttle twice (R285). -/
def State.shuttles (s : State) (es : List ShEnt) : List Shuttle :=
  (es.map fun e => (⟨if e.dir then s.coord else e.peer, e.pspn, if e.dir then e.peer else s.coord, e.sframe⟩ : Shuttle)).eraseDups

/-- Whether a pair block keeps R284 and R286. -/
def State.pairOk (s : State) (key : Nat) : Bool :=
  let f := s.fieldAt key
  let p := s.readPair key
  let t (l : Nat) : Bool := p.tmask.toNat.testBit (s.hframe l)
  let sh := s.shuttles p.ents
  f 8 1 = 0x2A && decide (f 9 1 ≤ 32) && decide (1 ≤ p.k) && decide (p.k ≤ 64) && f 11 1 = 0
  && (tempLog p.temp.toNat).isSome && f 14 2 = 0 && f 144 48 = 0
  && ((List.range (f 9 1)).all fun i => f (16 + 4 * i) 4 % 16 = 0)
  && (p.tmask &&& p.smask) = 0 && (p.tmask ||| p.smask) ≠ 0
  && (p.ents.all fun e =>
      if s.localEnt e then p.smask.toNat.testBit e.sframe && t e.pspn
      else if e.dir then t e.pspn else p.smask.toNat.testBit e.sframe)
  && ((List.range 32).all fun fr =>
      (sh.filter fun x => x.consMod = s.coord && x.sframe = fr).length = (if p.smask.toNat.testBit fr then 1 else 0))
  && (sh.all fun x => (sh.filter fun y => y.consMod = x.consMod && y.sframe = x.sframe).length = 1)
  && (sh.all fun x => decide ((sh.filter fun y => y.prodMod = x.prodMod && y.pspn = x.pspn).length ≤ 4))

/-! ### The pipeline block (R364, R365) -/

/-- Reads a pipeline block. -/
def State.readPipe (s : State) (key : Nat) : List Chan :=
  let f := s.fieldAt key
  (List.range (f 1 1)).map fun i =>
    let g (o n : Nat) : Nat := f (8 + 24 * i + o) n
    let v := g 16 4
    { ring := g 0 8 % 2 ^ 57, slotsz := g 8 4, nslot := g 12 2, nmb := g 14 2, peer := BitVec.ofNat 14 v
      peerCh := bitsOf v 14 6, down := v.testBit 20 }

/-- Whether a pipeline block keeps R364 and R365; of an end on another module only that module's mill knows: a free value (log entry
69). -/
def State.pipeOk (s : State) (rs : List Region) (fjob key : Nat) : Bool :=
  let f := s.fieldAt key
  let cs := s.readPipe key
  f 0 1 = 0x2F && decide (1 ≤ f 1 1) && decide (f 1 1 ≤ 32) && f 2 6 = 0
  && (cs.zipIdx.all fun c =>
      let g (o n : Nat) : Nat := f (8 + 24 * c.2 + o) n
      g 0 8 < 2 ^ 57 && decide (1 ≤ c.1.slotsz) && c.1.slotsz % 4096 = 0 && decide (c.1.slotsz ≤ 2 ^ 30)
      && decide (c.1.nmb ≤ c.1.nslot) && decide (c.1.nslot ≤ 2048) && decide (1 ≤ c.1.nmb) && decide (c.1.nmb ≤ 1024)
      && decide (g 16 4 < 2 ^ 21) && g 20 4 = 0 && fixedHbm rs c.1.ring (c.1.slotsz * c.1.nslot)
      && (if c.1.peer ≠ s.coord then decide (Config.farEnd c.1.peer.toNat fjob c.1.peerCh = (c.1.nmb, c.1.slotsz, !c.1.down))
        else match cs[c.1.peerCh]? with
          | some o => o.nmb = c.1.nmb && o.slotsz = c.1.slotsz && o.down ≠ c.1.down
          | none => false))

/-! ### The collective block (R473, R474) -/

/-- Reads a collective block. -/
def State.readColl (s : State) (key : Nat) : List ColEnt :=
  let f := s.fieldAt key
  (List.range (f 1 1)).map fun i =>
    let g (o n : Nat) : Nat := f (8 + 64 * i + o) n
    { op := g 0 1, efmt := g 1 1, post := g 2 1 = 1, dims := g 3 1, dord := (List.range 4).map fun j => bitsOf (g 4 1) (2 * j) 2
      nelem := g 8 8, src := g 16 8, dst := g 24 8, hdr := g 32 8, k := g 40 1 + 1, valkind := g 41 1 = 1 }

/-- Bytes of the largest contribution of one ring step (R474, R477, R478, R481): a chunk of a half in the first stage of
a reduction, half of what the last stage of an all-gather passes on. -/
def State.colStep (s : State) (c : ColEnt) : Nat :=
  let ns := (s.colDims c).map (sizeIn s.fabric.cinuse.toNat)
  match ns with
  | [] => 0
  | n :: _ =>
    let half := (c.nelem + 1) / 2
    if c.op = 2 then half * c.size * (ns.drop 1).foldl (· * ·) 1
    else if c.op = 3 then half * c.size
    else (half + n - 1) / n * c.size

/-- Whether a collective block keeps R473 and R474. -/
def State.collOk (s : State) (rs : List Region) (steps : Bool) (key : Nat) : Bool :=
  let f := s.fieldAt key
  steps && f 0 1 = 0x3E && decide (1 ≤ f 1 1) && decide (f 1 1 ≤ 64) && f 2 6 = 0
  && ((s.readColl key).zipIdx.all fun c =>
      let g (o n : Nat) : Nat := f (8 + 64 * c.2 + o) n
      let n := ((List.range 4).filter c.1.dims.testBit).length
      let by_ := s.colBytes c.1
      decide (c.1.op ≤ 4)
      && (match c.1.op with
          | 2 => c.1.efmt = 0x19
          | 3 => c.1.efmt = 0x17
          | 4 => c.1.efmt = 0x04
          | _ => c.1.efmt = 0x13 || c.1.efmt = 0x14 || c.1.efmt = 0x15)
      && decide (g 2 1 ≤ 1) && decide (c.1.dims < 16) && decide ((c.1.dord.take n).Nodup)
      && (c.1.dord.take n).all c.1.dims.testBit && g 5 3 = 0 && decide (c.1.k ≤ 64) && decide (g 41 1 ≤ 1) && g 42 22 = 0
      && (c.1.op = 3 || (c.1.k = 1 && !c.1.valkind))
      && fixedHbm rs c.1.src by_.1 && fixedHbm rs c.1.dst by_.2 && (c.1.hdr = 0 || fixedHbm rs c.1.hdr 16)
      && decide (s.colStep c.1 ≤ 2 ^ 30))

/-! ### The campaign descriptor (R313) -/

/-- Whether a number of ring entries is a power of two from 16 to 32,768 (R313). -/
def ringSize (n : Nat) : Bool := (List.range 12).any fun i => n = 2 ^ (i + 4)

/-- Reads a campaign descriptor. -/
def State.readCamp (s : State) (key : Nat) : Camp :=
  let f := s.fieldAt key
  { evalTeacher := (f 1 1).testBit 0, endTrouble := (f 1 1).testBit 1, steps := f 4 4, tprog := f 8 8, sprog := f 16 8
    inring := f 32 8, insize := f 40 2, inpoll := f 42 2, evring := f 44 8, evsize := f 52 2, every := f 54 2
    evbatch := f 56 2, ckstep := f 58 2, ckpt := f 64 8, cksize := f 72 8, report := f 80 8, rpsize := f 88 2, vec := f 90 1 }

/-- Whether a campaign descriptor keeps R313. -/
def State.campOk (s : State) (key : Nat) : Bool :=
  let f := s.fieldAt key
  let c := s.readCamp key
  f 0 1 = 0x3C && decide (f 1 1 < 4) && f 2 2 = 0 && ringSize c.insize && decide (200 ≤ c.inpoll)
  && (c.evring = 0 || (ringSize c.evsize && decide (1 ≤ c.every))) && f 60 4 = 0 && ringSize c.rpsize
  && (decide (c.vec < 64) || c.vec = 0xFF) && f 91 165 = 0
  && ([c.tprog, c.sprog, f 24 8, c.inring, c.evring, c.ckpt, c.report].all fun a => decide (a < 2 ^ 57))

/-! ### The job descriptor (R499, R501) -/

/-- Whether a starting control register holds no reserved field or encoding. -/
def ctlOk (fs : List Fld) (v : Nat) : Bool := putFields fs v 0 = v

/-- Reads a job descriptor and its blocks and applies the checks 1 to 5 of R501; the job, or its STATUS. -/
def State.readJob (s : State) (client : Nat) (ref tag : Word) (irq : Bool) (vec : Nat) (addr : Nat) : Chk Job := do
  let base := s.clientKey client addr
  let f := s.fieldAt base
  let key (o : Nat) : Nat := s.clientKey client (f o 8)
  let steps := (f 2 1).testBit 0
  let rs := (List.range (f 33 1)).map fun i => s.readRegion (key 96 + 24 * i)
  let lspns := BitVec.ofNat 256 (f 40 32)
  let camp := f 128 8 ≠ 0
  ask (f 0 1 = 0x4A && decide (f 1 1 ≤ 1) && decide (f 2 1 ≤ 1) && decide (f 3 1 ≤ 64) && f 6 2 = 0 && f 14 2 = 0
    && ctlOk arithFields (f 24 4) && ctlOk qzFields (f 28 4) && decide (f 32 1 ≤ 127) && decide (1 ≤ f 33 1)
    && decide (f 33 1 ≤ 64) && decide (f 34 1 ≤ 159) && f 35 5 = 0 && decide (f 72 8 < 2 ^ 57) && f 144 112 = 0
    && lspns ≠ 0) jobCfg
  ask ((rs.zipIdx.all fun r => r.1.ok (s.natAt (key 96 + 24 * r.2 + 13) 1) client) && apart rs) jobCfg
  ask (!camp || s.campOk (key 128)) jobCfg
  let cd := s.readCamp (key 128)
  -- where the images and the pair block lie
  let find (dev own : Nat) : Option Nat := if camp then hostKey rs dev else some own
  let img0 := if camp then cd.tprog else f 80 8
  let img1 := if camp then cd.sprog else f 88 8
  let pairAddr := if camp then s.fieldAt (key 128) 24 8 else f 104 8
  let pairKey := find pairAddr (s.clientKey client pairAddr)
  let pair := if pairAddr = 0 then none else pairKey.map s.readPair
  let spns := (List.range 256).filter fun n => lspns.toNat.testBit n
  let student (n : Nat) : Bool := match pair with
    | some p => p.smask.toNat.testBit (s.hframe n)
    | none => false
  let imgs := (if spns.any fun n => !student n then [find img0 (s.clientKey client img0)] else [])
    ++ (if spns.any student then [find img1 (s.clientKey client img1)] else [])
  ask (decide (img0 < 2 ^ 57) && decide (img1 < 2 ^ 57)
    && imgs.all fun k => match k with
      | some k => decide (s.fieldAt k 20 1 ≤ f 3 1)
      | none => true) jobCfg
  let count := ((List.range 32).map (frameCount (s.bank gradeBase 8))).sum
  ask (decide (lspns.toNat < 2 ^ count)) 0x67
  ask (imgs.all fun k => match k with
    | some k => s.imageOk k
    | none => false) 0x61
  ask (pairAddr = 0 || (match pairKey with
    | some k => s.pairOk k
    | none => false)) 0x63
  ask (f 112 8 = 0 || s.pipeOk rs (f 4 2) (key 112)) 0x64
  ask (f 120 8 = 0 || s.collOk rs steps (key 120)) 0x65
  let remote := match pair with
    | some p => p.ents.any fun e => e.peer ≠ s.coord
    | none => false
  ask (coordValid s.fabric.cinuse || !(remote || f 112 8 ≠ 0 || f 120 8 ≠ 0)) 0x66
  return { jid := 0, client := client, ref := ref, tag := tag, irq := irq, vec := vec, crit := f 1 1 = 1, steps := steps
           qunits := f 3 1, fjob := f 4 2, seed := BitVec.ofNat 48 (f 8 6), firstStep := BitVec.ofNat 64 (f 16 8)
           arith := BitVec.ofNat 32 (f 24 4), qz := BitVec.ofNat 32 (f 28 4), eps := f 32 1, bpart := f 34 1, lspns := lspns
           args := f 72 8, img0 := img0, img1 := img1, space := if camp then 1 else 0, regions := rs, pair := pair
           chans := if f 112 8 = 0 then [] else s.readPipe (key 112)
           cols := if f 120 8 = 0 then [] else s.readColl (key 120)
           camp := if camp then some cd else none, flog := f 136 8, since := s.ns }

end Sys2Proof.Machine
end

