-- ==== Sys2Proof/Machine/Place.lean ====
section
/-! DEFINITION. Placement: pages (R428, R434, R437, R438), contexts, bobbin partitions and registers (R371, R373, R396,
R502 to R504), snapshots (R393), and switching (R506 to R508). -/

namespace Sys2Proof.Machine

/-! ### Pages -/

/-- The pages in use, by tier: HBM 1, CXL 2. -/
structure Used where
  hbm   : List Nat
  cxl   : List Nat
  slots : List Nat
  deriving DecidableEq, Repr, Inhabited

/-- The page entries of every job. -/
def State.allEntries (s : State) : List Word :=
  s.mill.jobs.flatMap fun p => (p.2.pages ++ p.2.creelMap).map (·.2)

/-- TIER of a page entry (R434). -/
def entTier (e : Word) : Nat := bitsOf e.toNat 61 2

/-- PPN of a page entry (R434). -/
def entPpn (e : Word) : Nat := bitsOf e.toNat 0 43

/-- The HBM pages that are retired: since start-up, or by the repair list (R454, R552). -/
def State.retiredPages (s : State) : List Nat :=
  s.retired ++ (List.range 1883).filterMap fun i =>
    let v := s.bank (repairBase + 8 * i) 8
    if bitsOf v 60 4 = 5 then some (bitsOf v 0 57) else none

/-- What is taken before a placement: pages that jobs hold, retired pages, and creel slots that are held, owned or
retired (R428, R432, R438, R454). -/
def State.used (s : State) : Used :=
  let es := s.allEntries.filter fun e => e.msb
  { hbm := (es.filter fun e => entTier e = 1).map entPpn ++ (s.mill.jobs.flatMap fun p => p.2.savePages) ++ s.retiredPages
    cxl := (es.filter fun e => entTier e = 2).map entPpn
    slots := (List.range 32).flatMap fun f =>
      let x := s.frame f
      (List.range 16).filterMap fun n =>
        if n = 14 ∨ (n = 15 ∧ x.shctl.toNat.testBit 31) ∨ x.owner.get n 0 ≠ 0 ∨ x.retired.toNat.testBit n then some (f * 16 + n)
        else none }

/-- The lowest number from `n` on, below `stop`, that is not taken; `fuel` bounds the search. -/
def firstFree (taken : List Nat) (stop : Nat) : Nat → Nat → Option Nat
  | 0, n => if n < stop then some n else none
  | fuel + 1, n => if stop ≤ n then none else if n ∈ taken then firstFree taken stop fuel (n + 1) else some n

/-- A free page of an HBM stack (R428). -/
def Used.hbmPage (u : Used) (stack : Nat) : Option Nat :=
  firstFree u.hbm (stack * 32768 + 22888) u.hbm.length (stack * 32768 + 128)

/-- A free page on an HBM stack of die d for page i: stack 4d + i mod 4, then the next of d in rotation (R437). -/
def Used.dieHbm (u : Used) (d i : Nat) : Option Nat :=
  (List.range 4).findSome? fun k => u.hbmPage (4 * d + (i + k) % 4)

/-- A free HBM page: the preferred die, then the others ascending (R437). -/
def Used.anyHbm (u : Used) (d i : Nat) : Option Nat :=
  (u.dieHbm d i).or ((List.range 4).findSome? fun e => if e = d then none else u.dieHbm e i)

/-- The pages that a CXL port offers (R426): none while it is lost or given up (R427). -/
def State.portPages (s : State) (p : Nat) : Nat :=
  let x := s.ports.get p {}
  if x.lost ∨ x.givenUp then 0 else min (2 ^ 21) ((x.ids.map fun i => i.2.toNat / 2 ^ 21).sum)

/-- A free page of a CXL port. -/
def State.cxlPage (s : State) (u : Used) (p : Nat) : Option Nat :=
  firstFree u.cxl (p * 2 ^ 21 + s.portPages p) u.cxl.length (p * 2 ^ 21)

/-- The CXL port of the hub that a die's link reaches (R102). -/
def diePort (d : Nat) : Nat := if d = 0 ∨ d = 2 then 0 else 1

/-- A free CXL page: the port of the die's hub, then the other (R437). -/
def State.anyCxl (s : State) (u : Used) (d : Nat) : Option Nat :=
  (s.cxlPage u (diePort d)).or (s.cxlPage u (1 - diePort d))

/-- A free creel slot of a frame, as frame × 16 + slot. -/
def Used.slot (u : Used) (f : Nat) : Option Nat := ((List.range 16).map (f * 16 + ·)).find? fun n => !(n ∈ u.slots)

/-- Where page i of a region goes: its tier and PPN (R437, R438); `d` is the die of the job's lowest frame. -/
def State.placePage (s : State) (u : Used) (r : Region) (d i : Nat) : Option (Nat × Nat) :=
  let pd := if r.tier = 0 then r.pref / 8 else if r.pref = 0xFF then d else r.pref
  let hbm := (u.anyHbm pd i).map fun n => (1, n)
  let cxl := (s.anyCxl u pd).map fun n => (2, n)
  match r.tier with
  | 0 =>
    let named := r.pref * 16 + r.slot + i
    let creel := if r.slot = 0xFF then (u.slot r.pref).map fun n => (0, n)
      else if named ∈ u.slots then (if r.fix then none else (u.slot r.pref).map fun n => (0, n))
      else some (0, named)
    if r.fix then creel else creel.or (hbm.or cxl)
  | 1 => if r.fix then hbm else hbm.or cxl
  | 2 => cxl
  | _ => some (3, (r.host + i * 2 ^ 21) / 2 ^ 21)

/-- A page entry (R434). -/
def entryOf (r : Region) (tier ppn : Nat) : Word :=
  let b (v : Bool) (n : Nat) : Nat := if v then 2 ^ n else 0
  BitVec.ofNat 64 (2 ^ 63 + tier * 2 ^ 61 + r.tier * 2 ^ 59 + b r.wr 58 + b r.ex 57 + b r.tch 56 + b r.fix 55 + ppn)

/-- The progress of a placement. -/
structure Placing where
  used  : Used
  pages : Table Word
  creel : Table Word
  slots : List Nat
  deriving DecidableEq, Repr, Inhabited

/-- Places one page. -/
def State.placeOne (s : State) (r : Region) (d : Nat) (p : Placing) (i : Nat) : Option Placing :=
  (s.placePage p.used r d i).map fun t =>
    let e := entryOf r t.1 t.2
    let u := p.used
    { used := match t.1 with
        | 0 => { u with slots := t.2 :: u.slots }
        | 1 => { u with hbm := t.2 :: u.hbm }
        | 2 => { u with cxl := t.2 :: u.cxl }
        | _ => u
      pages := if r.tier = 0 then p.pages else p.pages.set (r.vbase / 2 ^ 21 + i) e 0
      creel := if r.tier = 0 then p.creel.set (r.pref * 16 + r.window + i) e 0 else p.creel
      slots := if t.1 = 0 then t.2 :: p.slots else p.slots }

/-- Places every page of every region; none is MEM_FULL (R437). -/
def State.placeAll (s : State) (rs : List Region) (d : Nat) : Option Placing :=
  rs.foldl (fun p r => p.bind fun p => (List.range r.npages).foldl (fun p i => p.bind fun p => s.placeOne r d p i) (some p))
    (some ⟨s.used, [], [], []⟩)

/-- Whether a creel region names a held slot of its frame (R432, R438). -/
def State.namesHeld (s : State) (b : Job) (r : Region) : Bool :=
  let student := match b.pair with
    | some p => p.smask.toNat.testBit r.pref
    | none => false
  r.tier = 0 && r.slot ≠ 0xFF && (List.range r.npages).any fun i =>
    r.slot + i = 14 || (r.slot + i = 15 && ((s.frame r.pref).shctl.toNat.testBit 31 || student))

/-- The owner of creel slots, as frame × 16 + slot. -/
def State.ownSlots (s : State) (j : Nat) (ns : List Nat) : State :=
  ns.foldl (fun s n =>
    let f := s.frame (n / 16)
    s.setFrame (n / 16) { f with owner := f.owner.set (n % 16) (j + 1) 0 }) s

/-! ### The turn of a job (R503) -/

/-- Whether the queues let a job be placed now (R503): a critical job at the head of its queue; a fill job when the head
of the critical queue does not fit, no earlier fill job fits, and no earlier one that has waited its limit shares a
spindle with it. -/
def State.turn (s : State) (j : Nat) (b : Job) : Bool :=
  let fitsNo (k : Nat) : Bool := match s.job? k with
    | some o => !s.fits k o
    | none => true
  if b.crit then s.mill.critQ.head? = some j
  else
    (match s.mill.critQ.head? with
     | some k => fitsNo k
     | none => true)
    && j ∈ s.mill.fillQ
    && (s.mill.fillQ.takeWhile (· ≠ j)).all fun k => fitsNo k && (match s.job? k with
      | some o => !(o.aged && (o.lspns &&& b.lspns) ≠ 0)
      | none => true)

/-! ### Placing a job -/

/-- A job slot number that no resident job has (R373). -/
def State.freeJslot (s : State) : Nat :=
  (firstFree ((s.mill.jobs.filter fun p => p.2.st = .resident).map fun p => p.2.jslot) 256 256 0).getD 0

/-- The role of a logical spindle's context (R287, R373). -/
def State.roleOf (s : State) (b : Job) (l : Nat) : Role :=
  match b.pair with
  | some p => if p.tmask.toNat.testBit (s.hframe l) then .teacher
      else if p.smask.toNat.testBit (s.hframe l) then .student else .none
  | none => .none

/-- The descriptor file of a context as bytes (R384). -/
def State.fileBytes (s : State) (l c : Nat) : List Byte := s.bytesAt (s.bobbinKey l (0x9F0000 + 0x4000 * c)) 0x4000

/-- Writes the descriptor file of a context. -/
def State.putFile (s : State) (l c : Nat) (bs : List Byte) : State := s.putAt (s.bobbinKey l (0x9F0000 + 0x4000 * c)) bs

/-- The snapshot of a context, with the program counter at which it resumes (R393). -/
def State.snapOf (s : State) (l c : Nat) (x : Ctx) : Snap :=
  { s := x.s, a := x.a, p := x.p, lc := x.lc, pc := x.pc, file := s.fileBytes l c, arith := x.arithCtl, qz := x.qzCtl
    upd := x.updCtl, aflags := x.arithFlags, qflags := x.qzFlags, uflags := x.updFlags }

/-- Takes the snapshots of a job's contexts (R393). -/
def State.snapshot (s : State) (j : Nat) : State :=
  s.mapCtxs fun l c x => if x.of j then { x with snap := some (s.snapOf l c x) } else x

/-- The image of a role: its device address, and the key its bytes are read at (R396, R499; log entry 11). -/
def State.imageOf (s : State) (b : Job) (r : Role) : Nat × Nat :=
  let a := if r = .student then b.img1 else b.img0
  (a, if b.space = 1 then (hostKey b.regions a).getD 0 else s.clientKey b.client a)

/-- Copies the code region of an image to the job's pages at its device address, where they are mapped (R502; log
entry 11). -/
def State.loadImage (s : State) (b : Job) (a key : Nat) : State :=
  if b.space = 1 then s
  else
    let bs := s.bytesAt key (s.fieldAt key 12 4)
    let ws := bs.zipIdx.filterMap fun p =>
      (s.pageLoc (b.pages.get ((a + p.2) / 2 ^ 21) 0) ((a + p.2) % 2 ^ 21)).map fun k => (k.key, p.1)
    { s with mem := Mem.setAll s.mem ws, poison := s.healed ws }

/-- Bytes of a logical spindle's bobbin as a save area takes them (R431, R453). -/
def State.keep (s : State) (l at_ off n : Nat) : KeptUnits :=
  let k := s.bobbinKey l at_
  { off := off, bytes := s.bytesAt k n, bad := (s.poison.filter fun u => decide (k ≤ u ∧ u < k + n)).map (· - k) }

/-- Puts bytes of a save area back into a bobbin, with their poison (R431, R453). -/
def State.putBack (s : State) (l at_ : Nat) (v : KeptUnits) : State :=
  let k := s.bobbinKey l at_
  let t := s.putAt k v.bytes
  { t with poison := (t.poison ++ v.bad.map (k + ·)).eraseDups }

/-- A partition takes `n` units of a spindle from `base` on: the bytes that switched-out jobs still have there go to their save areas
(R431). -/
def State.evict (s : State) (l base n : Nat) : State :=
  s.mill.jobs.foldl (fun t p =>
    if p.2.st ≠ .out then t
    else t.modJob p.1 fun b => { b with saved := b.saved.map fun v =>
      if v.lspn ≠ l then v
      else
        let us := (List.range v.ctx.bpSize.toNat).filter fun i =>
          decide (base ≤ v.ctx.bpBase.toNat + i ∧ v.ctx.bpBase.toNat + i < base + n) && !(v.units.any fun k => k.off = i * 65536)
        { v with units := v.units ++ us.map fun i => s.keep l ((v.ctx.bpBase.toNat + i) * 65536) (i * 65536) 65536 } }) s

/-- Where a key lies once the `n` bytes at `old` have moved to `new`. -/
def movedKey (old new n key : Nat) : Nat := if old ≤ key ∧ key < old + n then key - old + new else key

/-- A staged add whose target has moved. -/
def Stage.moved (x : Stage) (old new n : Nat) : Stage := { x with target := movedKey old new n x.target }

/-- A started operation that finishes where the `n` bytes at `old` now are, for no access uses a stale translation (R435). -/
def ROp.moved (r : ROp) (old new n : Nat) : ROp :=
  let at_ (a : Nat) : Nat := movedKey old new n a
  { r with
    writes := r.writes.map fun w => (at_ w.1, w.2), view := r.view.map fun w => (at_ w.1, w.2)
    atoms := r.atoms.map fun a => { a with addr := at_ a.addr }, stages := r.stages.map fun x => x.moved old new n
    rcd := r.rcd.map fun p => (at_ p.1, p.2) }

/-- Moves the partition of a context to other units of its spindle: its bytes, its base, and what started operations still write there.
Its tiles are not replayable until their next check point, and twin samples of the spindle see new epochs (R524, R536). -/
def State.movePart (s : State) (l c base : Nat) : State :=
  let y := (s.spn l).ctxs.get c {}
  let old := y.bpBase.toNat
  let n := y.bpSize.toNat * 65536
  let s' := s.putBack l (base * 65536) (s.keep l (old * 65536) 0 n)
  let t := s'.setCtx l c { y with
    bpBase := BitVec.ofNat 8 base, tiles := y.tiles.mapVals (fun _ t => { t with journalled := t.journalled + 1 }) {} }
  let x := t.spn l
  let us := (t.mill.twins.filter fun w => w.lspn = l).flatMap fun w => w.epochs.map (·.1)
  let t := t.setSpn l { x with epochs := us.foldl (fun e u => e.set u (e.get u 0 + 1) 0) x.epochs }
  { t with spindles := t.spindles.map fun p => (p.1, { p.2 with
      running := p.2.running.map fun r => (r.1, r.2.moved (s.bobbinKey l (old * 65536)) (s.bobbinKey l (base * 65536)) n) }) }

/-- Puts a partition among partitions in ascending order of their places: context, place, size. -/
def insertPart (a : Nat × Nat × Nat) : List (Nat × Nat × Nat) → List (Nat × Nat × Nat)
  | [] => [a]
  | b :: r => if a.2.1 ≤ b.2.1 then a :: b :: r else b :: insertPart a r

/-- Makes room for a partition of `n` units where a spindle has as many units free and no run of them: the resident partitions move
together to its lowest units, and switched-out jobs' bytes go to their save areas (R431, R502; log entry 20). -/
def State.compact (s : State) (l n : Nat) : State :=
  let x := s.spn l
  if (x.baseFor n).isSome then s
  else
    let ps := (x.ctxs.filter fun c => c.2.status ≠ .free && c.2.bpSize ≠ 0).foldl
      (fun ps c => insertPart (c.1, c.2.bpBase.toNat, c.2.bpSize.toNat) ps) []
    (ps.foldl (fun (a : State × Nat) p => (a.1.movePart l p.1 a.2, a.2 + p.2.2)) (s.evict l 0 159, 0)).1

/-- Sets up one context of a job (R371, R396, R502). -/
def State.openCtx (s : State) (j : Nat) (b : Job) (l : Nat) : State :=
  let s := s.compact l b.bpart
  let x := s.spn l
  match x.freeCtx, s.baseIn l b.bpart none with
  | some c, some base =>
    let role := s.roleOf b l
    let img := s.imageOf b role
    let nd := s.fieldAt img.2 2 2
    let pre := s.bytesAt (img.2 + s.fieldAt img.2 16 4) (64 * nd)
    let pc := BitVec.ofNat 57 (img.1 + s.fieldAt img.2 8 4)
    let y : Ctx :=
      { status := if b.camp.isSome then .atStep else .running, job := j, a := Table.set (Table.set ([] : Table DevAddr) 0 (BitVec.ofNat 57 b.args) 0) 1 (BitVec.ofNat 57 img.1) 0
        pc := pc, arithCtl := b.arith, qzCtl := b.qz, updCtl := BitVec.ofNat 32 b.eps, quota := BitVec.ofNat 7 b.qunits
        seed := b.seed, step := b.firstStep, jslot := BitVec.ofNat 8 b.jslot, role := role
        bpBase := BitVec.ofNat 8 base, bpSize := BitVec.ofNat 8 b.bpart, imgBase := BitVec.ofNat 57 img.1
        codeSize := BitVec.ofNat 32 (s.fieldAt img.2 12 4) }
    ((s.evict l base b.bpart).setCtx l c y).putFile l c (pre ++ List.replicate (0x4000 - pre.length) 0)
  | _, _ => s

/-- Opens the shuttles that a job's student frames consume (R296). -/
def State.openShuttles (s : State) (b : Job) : State :=
  match b.pair with
  | none => s
  | some p => (State.shuttleFrames b).foldl (fun s f =>
      match p.ents.find? fun e => s.consumes e f with
      | some e =>
        let r := if s.localEnt e then 0 else 2 ^ 30
        s.setFrame f { s.frame f with
          shctl := BitVec.ofNat 32 (2 ^ 31 + r + e.peer.toNat * 2 ^ 16 + e.pspn * 2 ^ 8)
          prod := 0, freed := 0, taken := 0, stall := 0, reported := 0, stepProd := 0, stepFreed := 0, stepTaken := 0 }
      | none => s) s

/-! ### Device addresses that the mill uses -/

/-- The little-endian number at a paged device address of a job; 0 where nothing is mapped. -/
def State.jobNat (s : State) (b : Job) (a n : Nat) : Nat :=
  leNat ((List.range n).map fun i => match s.jobKey b (a + i) with
    | some k => Mem.get s.mem k
    | none => 0)

/-- Writes bytes at paged device addresses of a job, where they are mapped. -/
def State.jobPuts (s : State) (b : Job) (ps : List (Nat × List Byte)) : State :=
  let ws := ps.flatMap fun w => w.2.zipIdx.filterMap fun p => (s.jobKey b (w.1 + p.2)).map fun k => (k, p.1)
  { s with mem := Mem.setAll s.mem ws, poison := s.healed ws }

/-- Writes bytes at one paged device address of a job. -/
def State.jobPut (s : State) (b : Job) (a : Nat) (bs : List Byte) : State := s.jobPuts b [(a, bs)]

/-- The address of entry n of an intake or evaluation ring of `size` entries (R314). -/
def ringEntry (base size n : Nat) : Nat := base + 64 + n % size * 32

/-- A campaign at its placement: it waits at the boundary before its first step, and takes its rings as it finds them in
memory (R315; log entry 27). -/
def State.campStart (s : State) (b : Job) : Job :=
  { b with camp := b.camp.map fun c => { c with
      boundary := true, consumed := s.jobNat b (c.inring + 8) 8, evDone := s.jobNat b (c.evring + 8) 8
      produced := s.jobNat b c.report 8 } }

/-- The number of placements so far, as the order in which jobs were placed (R504). -/
def State.placeOrder (s : State) : Nat := (s.mill.jobs.map fun p => p.2.placedAt).foldl max 0 + 1

/-- Places a waiting job whose turn it is and that fits, or refuses it for want of memory (R501 check 6, R502). -/
def State.place (s : State) (j : Nat) : State :=
  match s.job? j with
  | none => s
  | some b =>
    if b.st ≠ .waiting ∨ !s.turn j b ∨ !s.fits j b then s
    else
      let d := (b.lspnList.map s.hframe).min?.getD 0 / 8
      if b.regions.any (s.namesHeld b) then s.removeJob j 0x20
      else
        let s0 := s.openShuttles b
        match s0.placeAll b.regions d with
        | none => s.removeJob j 0x62
        | some p =>
          let b := { b with st := .resident, jslot := s.freeJslot, placedAt := s.placeOrder, pages := p.pages, creelMap := p.creel }
          let m := s0.mill
          let s := { s0 with mill := { m with critQ := m.critQ.filter (· ≠ j), fillQ := m.fillQ.filter (· ≠ j) } }
          let s := (s.setJob j (s.campStart b)).ownSlots j p.slots
          let imgs := (b.lspnList.map fun l => s.imageOf b (s.roleOf b l)).eraseDups
          let s := imgs.foldl (fun s i => s.loadImage b i.1 i.2) s
          let s := b.lspnList.foldl (fun s l => s.openCtx j b l) s
          s.snapshot j

/-! ### Switching (R504, R506, R508) -/

/-- Whether the shuttles of a job on the module are empty (R312). -/
def State.shuttlesEmpty (s : State) (b : Job) : Bool :=
  ((State.shuttleFrames b).all fun f => (s.frame f).prod = (s.frame f).freed)
  && b.prods.all fun p => p.2.credits = 4096

/-- Whether an UPD operation that the last commit released has not signalled (R336, R508). -/
def State.updPending (s : State) (j : Nat) : Bool :=
  ((s.job? j).any (·.steps)) && s.spindles.any fun p => (p.2.queued.any fun q => q.job = j && q.isUpd && !q.aside)
    || p.2.running.any fun r => r.2.q.job = j && r.2.q.isUpd

/-- The queued operations of a context with their engines. -/
def Spindle.opsOf (x : Spindle) (c : Nat) : List (Engine × QOp) :=
  [Engine.array, .vector, .inReel, .outReel, .twist].flatMap fun e =>
    ((x.queue e).filter fun q => q.ctx = c).map fun q => (e, q)

/-- What is kept of a context that leaves a spindle: itself, its operations and its descriptor file (R201, R506). The units of its
partition are copied once an incoming job needs them (R431). -/
def State.saveCtx (s : State) (l c : Nat) (x : Ctx) : Saved :=
  { lspn := l, ctx := x, ops := (s.spn l).opsOf c, file := s.keep l (0x9F0000 + 0x4000 * c) 0 0x4000 }

/-- Takes a context off its spindle. -/
def State.clearCtx (s : State) (l c : Nat) : State :=
  let x := s.spn l
  s.setSpn l { (x.mapQueues fun q => q.filter fun o => o.ctx ≠ c) with
    ctxs := x.ctxs.drop c, journal := x.journal.filter fun e => e.ctx ≠ c }

/-- Puts a saved context on a spindle, with its operations behind those queued there (R506). Units that nobody needed stand where they
were, or are copied to where the partition now lies (R431). -/
def State.loadCtx (s : State) (v : Saved) : State :=
  let l := v.lspn
  let n := v.ctx.bpSize.toNat
  let t := s.compact l n
  match (t.spn l).freeCtx, t.baseIn l n (some v.ctx.bpBase.toNat) with
  | some c, some base =>
    let old := v.ctx.bpBase.toNat
    let there := (List.range n).filter fun i => !(v.units.any fun k => k.off = i * 65536)
    let moved := if base = old ∧ ((s.spn l).baseFor n).isSome then []
      else there.map fun i => s.keep l ((old + i) * 65536) (i * 65536) 65536
    let s := t.evict l base n
    let x := v.ops.foldl (fun (x : Spindle) o => x.setQueue o.1 (x.queue o.1 ++ [{ o.2 with ctx := c }])) (s.spn l)
    let y := { v.ctx with bpBase := BitVec.ofNat 8 base, tiles := v.ctx.tiles.mapVals (fun _ t => { t with journalled := t.journalled + 1 }) {} }
    let s := (s.setSpn l x).setCtx l c y
    (v.units ++ moved).foldl (fun t k => t.putBack l (base * 65536 + k.off) k) (s.putBack l (0x9F0000 + 0x4000 * c) v.file)
  | _, _ => s

/-- The HBM pages of a job's save area (R201, R437, R438): for each context 2 MiB for its tiles and its queued operations, and its
partition; none where HBM lacks room (log entry 110). -/
def State.savePagesOf (s : State) (b : Job) : Option (List Nat) :=
  let d := (b.lspnList.map s.hframe).min?.getD 0 / 8
  let n := b.lspnList.length * (2 ^ 21 + b.bpart * 65536 + 0x4000)
  ((List.range ((n + 2 ^ 21 - 1) / 2 ^ 21)).foldl (fun (p : Option (Used × List Nat)) i => p.bind fun p =>
    (p.1.anyHbm d i).map fun k => ({ p.1 with hbm := k :: p.1.hbm }, p.2 ++ [k])) (some (s.used, []))).map (·.2)

/-- Switches a fill job out (R437, R506, R508): nothing of R508 must be true as it begins; it stops issuing and starting, and once its
started operations have completed its contexts leave. Where its save area finds no page it ends with MEM_FULL (log entry 110). -/
def State.switchOut (s : State) (j : Nat) : State :=
  match s.job? j with
  | none => s
  | some b =>
    if !b.stopping && (s.victim ≠ some j || s.updPending j || !s.shuttlesEmpty b || b.flights.any fun f => !f.done) then s
    else if s.started j then s.setJob j { b with stopping := true }
    else match s.savePagesOf b with
    | none => (s.endJob j 0x62).reap
    | some area =>
      let cs := s.ctxsOf j
      let saved := cs.map fun c => s.saveCtx c.1 c.2.1 c.2.2
      let s := cs.foldl (fun s c => s.clearCtx c.1 c.2.1) s
      let s := s.setJob j { b with
        st := .out, stopping := false, saved := saved, savePages := area, deques := [], since := s.ns, aged := false }
      { s with mill := { s.mill with fillQ := j :: s.mill.fillQ } }

/-- Switches a job in again (R503, R506). -/
def State.switchIn (s : State) (j : Nat) : State :=
  match s.job? j with
  | none => s
  | some b =>
    if b.st ≠ .out ∨ !s.turn j b ∨ !s.fits j b then s
    else
      let b' := { b with st := .resident, saved := [], savePages := [], jslot := s.freeJslot, placedAt := s.placeOrder }
      let s := { s with mill := { s.mill with fillQ := s.mill.fillQ.filter (· ≠ j) } }
      let s := s.setJob j b'
      let s := b.saved.foldl State.loadCtx s
      s.mapCtxs fun _ _ x => if x.of j then { x with jslot := BitVec.ofNat 8 b'.jslot } else x

end Sys2Proof.Machine
end

