-- ==== Sys2Proof/Machine/Steps.lean ====
section
/-! DEFINITION. Steps: the commit and its conditions, the scatter staging, the quantisation records and scale trouble,
boundaries, and step replay (R225, R243, R255 to R258, R310, R311, R333, R368, R369, R392, R393, R404, R521, R522,
R527 to R529). -/

namespace Sys2Proof.Machine

/-! ### The scatter staging (R225) -/

/-- A RESIDUE record of work that no site formed (R546). -/
def State.modResidue (s : State) (b : Job) (n unit : Nat) : State :=
  s.baroWrite 0x01 2 true [noLoc, jobW b, codeW 0x40 n unit]

/-- A row of a scatter target and the base of its tensor, placed among rows in ascending row order (R225; rows of one number in
several tensors in the order of their bases, log entry 57). -/
def insertRow (r : Nat × Nat) : List (Nat × Nat) → List (Nat × Nat)
  | [] => [r]
  | q :: l => if r = q then q :: l else if r.1 < q.1 ∨ (r.1 = q.1 ∧ r.2 < q.2) then r :: q :: l else q :: insertRow r l

/-- The rows that a job's staging holds, in ascending row order (R225). -/
def Job.stagedRows (b : Job) : List (Nat × Nat) := b.staging.foldl (fun l g => insertRow (g.row, g.base) l) []

/-- The bytes that a target row takes: each staged element added into its target (R225, R450). -/
def State.rowCells (s : State) (b : Job) (r : Nat × Nat) : List Host.Cell :=
  let gs := b.staging.filter fun g => g.row = r.1 && g.base = r.2
  ((gs.map (·.target)).eraseDups).flatMap fun t =>
    let v := (gs.filter fun g => g.target = t).foldl (fun a g => f32Add a g.val) 0
    (leBytes 4 (f32Add (BitVec.ofNat 32 (s.natAt t 4)) v).toNat).zipIdx.map fun p => (t + p.2, p.1)

/-- A byte of a row's targets that lies in a poisoned unit (R453). -/
def State.rowPoison (s : State) (b : Job) (r : Nat × Nat) : Option Nat :=
  if s.poison = [] then none
  else ((s.rowCells b r).map (·.1)).find? fun k => (poisonUnit k).1 ∈ s.poison

/-- Applies rows of a staging one after another, each formed from memory as the rows before it have left it, checked and then written
(R225, R521); `at_` counts the bytes written before. The outcome is 0, 1 where a row has been formed again, 2 where it failed again and
3 where it reads a poisoned unit (R453): there the apply stops. -/
def State.applyRows (b : Job) (u : Upset) : List (Nat × Nat) → Nat → State → State × Nat
  | [], _, s => (s, 0)
  | r :: rs, at_, s =>
    let cs := s.rowCells b r
    let a := upsetBytes u
    let here := decide (at_ ≤ a.1 ∧ a.1 < at_ + cs.length)
    let v := valueAt (a.1 - at_) a.2 cs
    let n := if (s.rowPoison b r).isSome then 3 else if here then groupFails u v else 0
    if 2 ≤ n then (s, n)
    else
      let stray := here && (escapedBytes u v).isSome
      let ws := if stray then strayed s.free (a.1 - at_) a.2 cs else cs
      let t := { s with mem := Mem.setAll s.mem ws, poison := s.healed ws }
      let o := State.applyRows b u rs (at_ + cs.length) (if stray then t.skipFree cs.length else t)
      (o.1, max n o.2)

/-- What becomes of the checks as a job's staging is applied, as `applyRows` says (R521, R522). -/
def State.stagingFaults (s : State) (j : Nat) (u : Upset) : Nat :=
  match s.job? j with
  | some b => (s.applyRows b u b.stagedRows 0).2
  | none => 0

/-- Applies the staging in ascending row order, each row formed and checked before it is written, and empties it. A row that fails
its check is formed again; where it fails again, or reads a poisoned unit, the job is to end, and the rows before it have been written
(R225, R453, R521, R522; log entry 57). -/
def State.applyStaging (s : State) (j : Nat) (u : Upset) : State :=
  match s.job? j with
  | none => s
  | some b =>
    let o := s.applyRows b u b.stagedRows 0
    let unit := (Config.freeBits o.1.free).toNat % 7
    let t := if o.2 = 0 then o.1
      else if o.2 = 3 then o.1.baroWrite 0x08 2 true [noLoc, jobW b]
      else (o.1.modResidue b 3 unit).skipFree 1
    let t := if o.2 = 2 then t.modResidue b 2 unit else t
    t.modJob j fun b => { b with staging := [] }

/-- Whether the staging of a job fails for good (R453, R521, R522). -/
def State.stagingFails (s : State) (j : Nat) (u : Upset) : Bool := decide (2 ≤ s.stagingFaults j u)

/-! ### Quantisation records (R252 to R258) -/

/-- FLAGS of a quantisation record. -/
def State.recFlags (s : State) (k : Nat) : Nat := s.natAt (k + 66) 1

/-- The QZ_CTL whose SAT_LIMIT, TROUBLE and RETRY govern a job: that of its context on its lowest logical spindle (log
entry 23). -/
def State.scaleCtl (s : State) (j : Nat) : Nat :=
  match s.ctxsOf j with
  | c :: _ => c.2.2.qzCtl.toNat
  | [] => 0

/-- A record is in trouble (R255). -/
def State.inTrouble (s : State) (qz k : Nat) : Bool :=
  let lim := bitsOf qz 22 5
  (s.recFlags k).testBit 0 || (lim ≠ 0 && decide (s.natAt (k + 80) 8 < s.natAt (k + 88) 8 * 2 ^ lim))

/-- Clears OBS, NELEM, NSAT, NESC and OOV of a record (R255, R256). -/
def State.recDiscard (s : State) (k : Nat) : State :=
  { s with mem :=
      let m := Mem.setNat s.mem (k + 66) 1 (s.recFlags k / 2 * 2)
      let m := Mem.setNat m (k + 68) 4 0
      Mem.setBytes m (k + 80) (List.replicate 24 0) }

/-- Step 1 of scale trouble for one record: OVR, PROV and RTRY (R256). -/
def State.recRaise (s : State) (k : Nat) : State :=
  let ovr := max (s.natAt (k + 72) 4) (s.natAt (k + 68) 4)
  { s with mem :=
      let m := Mem.setNat s.mem (k + 72) 4 ovr
      let m := Mem.setNat m (k + 66) 1 (s.recFlags k % 4 + 4 + s.recFlags k / 8 * 8)
      Mem.setNat m (k + 67) 1 (s.natAt (k + 67) 1 + 1) }

/-- The history of a record at a commit or a boundary (R258): OBS becomes the newest entry and the step's fields are
cleared. -/
def State.recHistory (s : State) (k : Nat) : State :=
  if s.natAt (k + 80) 8 = 0 then s
  else
    let head := (s.natAt (k + 64) 1 % 16 + 1) % 16
    let nv := min 16 (s.natAt (k + 65) 1 + 1)
    { s with mem :=
        let m := Mem.setNat s.mem (k + 4 * head) 4 (s.natAt (k + 68) 4)
        let m := Mem.setBytes m (k + 64) (leBytes 1 head ++ leBytes 1 nv)
        let m := Mem.setBytes m (k + 66) (leBytes 1 (s.recFlags k % 4 / 2 * 2 + s.recFlags k / 8 * 8) ++ [0])
        let m := Mem.setBytes m (k + 68) (List.replicate 8 0)
        Mem.setBytes m (k + 80) (List.replicate 24 0) }

/-- The histories of every record that the step updated (R258). -/
def State.histories (s : State) (j : Nat) : State :=
  match s.job? j with
  | none => s
  | some b => (b.records.foldl (fun s r => s.recHistory r.1) s).modJob j fun b => { b with records := [] }

/-- A SCALE_TROUBLE record (R257, R546). -/
def State.troubleRec (s : State) (b : Job) (r : Nat × Nat) : State :=
  s.baroWrite 0x0B 0 false [jobW b, locW .address r.2, BitVec.ofNat 64 (s.natAt (r.1 + 80) 8),
    BitVec.ofNat 64 (s.natAt (r.1 + 88) 8), BitVec.ofNat 64 (s.natAt (r.1 + 96) 8)]

/-! ### Promotion to double hanks (R249, R256) -/

/-- A descriptor of a snapshot's file that names a record as that of an NG4 hank tensor: the tensor, where it does. -/
def State.namesRec (s : State) (l c : Nat) (file : List Byte) (k n : Nat) : Option Tensor :=
  let d : Line := BitVec.ofNat 512 (leNat ((file.drop (64 * n)).take 64))
  let t := tensorRaw d
  if descOk d && t.layout = 1 && t.fmt = .ng4 && t.aux ≠ 0 && (s.locate l c t.aux).map (·.key) = some k then some t else none

/-- The tensors that name a record, over every snapshot of a job, with the spindle and the context whose file names them. -/
def State.namers (s : State) (j k : Nat) : List (Nat × Nat × Tensor) :=
  (s.ctxsOf j).flatMap fun x => match x.2.2.snap with
    | some v => (List.range 256).filterMap fun n => (s.namesRec x.1 x.2.1 v.file k n).map fun t => (x.1, x.2.1, t)
    | none => []

/-- The address after a hank tensor's last stored hank. -/
def Tensor.hankStop (t : Tensor) : Nat :=
  (((List.range t.rows).map fun r => t.rowAddr r 0).foldl max t.base) + t.hankSize * ((t.stored + 191) / 192)

/-- A descriptor's bytes after promotion: double hanks, and the base and strides of the storage to which its tensor moved from `b0`, at
`nb`, twice as wide (log entry 24). -/
def promoted (file : List Byte) (n b0 nb : Nat) (t : Tensor) : List Byte :=
  let at0 := 64 * n
  let file := setAt file (at0 + 2) [BitVec.ofNat 8 (leNat ((file.drop (at0 + 2)).take 1) + 1)]
  let stride (f : List Byte) (o : Nat) : List Byte := setAt f (at0 + o) (leBytes 8 (2 * leNat ((f.drop (at0 + o)).take 8)))
  let file := setAt file (at0 + 8) (leBytes 8 (nb + 2 * (t.base - b0)))
  stride (stride (stride file 28) 36) 44

/-- The double hank that a stored hank becomes (R249). -/
def doubled (src : List Byte) : List Byte :=
  (rehank ⟨Modes.of 0x40 0, true, 254, none, 0, 0, .no⟩ src false true fun _ _ => .rne).1

/-- Storage that a promotion converts (R256): the bytes from `b0` to `stop`, in the job's paged space or, with `owner`, in the bobbin
window of a context or the creel window of its frame, and the new paged address. -/
structure Moving where
  owner : Option (Nat × Nat)
  b0    : Nat
  stop  : Nat
  nb    : Nat
  deriving DecidableEq, Repr, Inhabited

/-- The storage that tensors of one owner take; none where there is none. -/
def movingOf (owner : Option (Nat × Nat)) (ts : List Tensor) : Option Moving :=
  (ts.map (·.base)).min?.map fun b0 => { owner := owner, b0 := b0, stop := (ts.map Tensor.hankStop).foldl max b0, nb := 0 }

/-- The owner of the storage of a tensor that a context of a job names: none in the paged space, the context itself in its bobbin window,
and in a frame's creel window the first context of the frame that names one there (R256, R429, R432). -/
def State.ownerOf (s : State) (ns : List (Nat × Nat × Tensor)) (l c : Nat) (t : Tensor) : Option (Nat × Nat) :=
  if t.base < 2 ^ 56 then none
  else if rangeOf t.base = some 1 then some (l, c)
  else ((ns.find? fun n => rangeOf n.2.2.base = some 2 && s.hframe n.1 = s.hframe l).map fun n => (n.1, n.2.1)).or (some (l, c))

/-- The storage of the tensors that name a record, by owner. -/
def State.movings (s : State) (j k : Nat) : List Moving :=
  let ns := s.namers j k
  let own (n : Nat × Nat × Tensor) : Option (Nat × Nat) := s.ownerOf ns n.1 n.2.1 n.2.2
  ((ns.map own).eraseDups).filterMap fun o => movingOf o ((ns.filter fun n => own n = o).map (·.2.2))

/-- A descriptor file after the promotion of a record's tensor. -/
def State.promoteFile (s : State) (ns : List (Nat × Nat × Tensor)) (l c k : Nat) (ms : List Moving) (file : List Byte) : List Byte :=
  (List.range 256).foldl (fun f n =>
    match s.namesRec l c file k n with
    | some t =>
      (match ms.find? fun m => m.owner = s.ownerOf ns l c t with
       | some m => promoted f n m.b0 m.nb t
       | none => f)
    | none => f) file

/-- The region of a promoted tensor's storage: it asks for the tier of the page that the tensor begins on, HBM for one in a window (R256,
R437). -/
def Moving.region (m : Moving) (b : Job) : Region :=
  let e := match m.owner with
    | none => (b.pages.get (m.b0 / 2 ^ 21) 0).toNat
    | some _ => 2 ^ 59 + 2 ^ 58
  { vbase := m.nb, npages := (2 * (m.stop - m.b0) + 2 ^ 21 - 1) / 2 ^ 21, tier := if bitsOf e 59 2 = 2 then 2 else 1
    wr := e.testBit 58, ex := e.testBit 57, tch := e.testBit 56, fix := e.testBit 55, pref := 0xFF, slot := 0xFF, host := 0 }

/-- Places the storage of a promotion behind the job's pages; none where no page is free (R437). -/
def State.placeMoving (s : State) (j : Nat) (m : Moving) : Option (State × Moving) :=
  (s.job? j).bind fun b =>
    let m := { m with nb := (((b.pages.map (·.1)).foldl max 0) + 1) * 2 ^ 21 }
    let d := (b.lspnList.map s.hframe).min?.getD 0 / 8
    ((List.range (m.region b).npages).foldl (fun p i => p.bind fun p => s.placeOne (m.region b) d p i)
      (some (⟨s.used, b.pages, b.creelMap, []⟩ : Placing))).map fun p => (s.setJob j { b with pages := p.pages }, m)

/-- Converts stored hanks to double hanks in their new place (R249, R256). -/
def State.convert (s : State) (j : Nat) (m : Moving) : State :=
  match s.job? j with
  | none => s
  | some b =>
    let rd (a : Nat) : Byte := match m.owner with
      | none => (match s.jobKey b a with
        | some k => Mem.get s.mem k
        | none => 0)
      | some o => s.devGet o.1 o.2 a
    (List.range ((m.stop - m.b0) / 128)).foldl (fun t i =>
      t.jobPut b (m.nb + 256 * i) (doubled ((List.range 128).map fun o => rd (m.b0 + 128 * i + o)))) s

/-- Promotes the tensor of a record (R256 step 2): double-hank storage, its hanks converted, DBL set, and the descriptors
of the job that name the record rewritten. None where no page can be placed (R437). -/
def State.promote (s : State) (j k : Nat) : Option State :=
  let placed := (s.movings j k).foldl (fun (o : Option (State × List Moving)) m => o.bind fun p =>
    (p.1.placeMoving j m).map fun q => (q.1, p.2 ++ [q.2])) (some (s, []))
  let ns := s.namers j k
  placed.map fun p =>
    let s := p.2.foldl (fun s m => s.convert j m) p.1
    let s := { s with mem := Mem.setNat s.mem (k + 66) 1 (s.recFlags k / 4 * 4 + 2 + s.recFlags k % 2) }
    s.mapCtxs fun l c x =>
      if x.of j then { x with snap := x.snap.map fun v => { v with file := s.promoteFile ns l c k p.2 v.file } } else x

/-- Whether a troubled record's tensor is to be promoted (R256 step 2). -/
def State.wantsDouble (s : State) (j qz k : Nat) : Bool :=
  bitsOf qz 8 2 = 2 && (s.recFlags k).testBit 0 && !(s.recFlags k).testBit 1 && (s.namers j k) ≠ []

/-- Scale trouble that is replayed: steps 1 to 3 of R256, after which the step waits for its replay; MEM_FULL ends the job
where a promotion finds no page (R437). -/
def State.troubleReplay (s : State) (j qz : Nat) (b : Job) (bad : List (Nat × Nat)) : State :=
  let promote := (bad.map (·.1)).filter (s.wantsDouble j qz)
  let s := bad.foldl (fun s r => s.recRaise r.1) s
  match promote.foldl (fun (o : Option State) k => o.bind fun s => s.promote j k) (some s) with
  | none => (s.endJob j 0x62).reap
  | some s =>
    let s := b.records.foldl (fun s r => s.recDiscard r.1) s
    s.modJob j fun b => { b with fault := some (0, 0) }

/-! ### The commit (R521) -/

/-- Every context of a job on the module waits at SYNC.STEP or has ended. -/
def State.allReported (s : State) (j : Nat) : Bool :=
  (s.ctxsOf j).all fun c => c.2.2.status = .atStep || c.2.2.status = .ended

/-- Some context of a job waits at SYNC.STEP. -/
def State.someReported (s : State) (j : Nat) : Bool := (s.ctxsOf j).any fun c => c.2.2.status = .atStep

/-- A channel has sent and received every message of the step (R368). -/
def Chan.exchanged (c : Chan) : Bool := decide (c.sent = c.nmb) && c.visible (c.nmb - 1)

/-- Every END entry of the collective block has finished in this step (R475). -/
def Job.endsDone (b : Job) : Bool :=
  b.cols.zipIdx.all fun c => c.1.post || b.flights.any fun f => f.entry = c.2 && f.done && f.step = b.step

/-- The campaign is between a commit and the start of the next step (R315). -/
def Job.atBoundary (b : Job) : Bool :=
  match b.camp with
  | some c => c.boundary
  | none => false

/-- The unfreed slots of a frame's shuttle hold no record of a step, by the STEP of each (R295). -/
def State.noRecordOf (s : State) (f step : Nat) : Bool :=
  let x := s.frame f
  (List.range (x.prod - x.freed).toNat).all fun i => s.natAt (slotKey f (x.freed.toNat + i) + 4) 4 ≠ step % 2 ^ 32

/-- Every shuttle that the module produces into or consumes from has freed all of the step's records; a remote producer that has
committed may have sent records of the next step (R310). -/
def State.stepFreed (s : State) (b : Job) : Bool :=
  ((State.shuttleFrames b).all fun f => s.noRecordOf f b.step) && b.prods.all fun p => p.2.credits = 4096

/-- The conditions of R521 apart from scale trouble. -/
def State.mayCommit (s : State) (j : Nat) (b : Job) : Bool :=
  b.steps && decide (b.st = .resident) && b.endWith.isNone && b.fault.isNone && !b.atBoundary
  && s.allReported j && s.someReported j && b.endsDone && s.stepFreed b && b.chans.all Chan.exchanged
  && b.tail.isNone && b.postsStarted && b.sent.all (·.acked) && !(s.mill.twins.any fun t => t.job = j)

/-- The packets of the commit notices (R368, R469). -/
def noticePackets (b : Job) (step : Nat) : List Send :=
  b.chans.map fun c => { dst := c.peer, tc := 3, type := 2, fjob := b.fjob, xt := c.peerCh, tag := step % 2 ^ 32 }

/-- Every knot of a context signalled with code 0; the numbers of its armings go on (R381, R392, R393). -/
def Ctx.allSignalled (x : Ctx) : Table Knot := x.knots.mapVals (fun _ k => { arm := k.arm }) {}

/-- A context after a commit: TWS_STEP advances, ordinals restart, every knot is signalled with code 0 (R355, R392). -/
def Ctx.commit (x : Ctx) : Ctx :=
  { x with step := x.step + 1, veOrd := 0, bufDrains := 0, knots := x.allSignalled, joins := [] }

/-- A captured wait once every knot is signalled with code 0 (R392). -/
def Wait.settled (w : Wait) : Wait := if w.done.isNone then { w with done := some 0, bad := false } else w

/-- The queued operations of a job after a commit: UPD operations are released, and their waits settled (R333, R392). -/
def State.releaseUpd (s : State) (j : Nat) : State :=
  s.mapSpns fun _ x => x.mapQueues fun q => q.map fun o =>
    if o.job = j then { o with aside := false, wait := o.wait.settled } else o

/-- What a shuttle holds at the start of a step, for a rewind: every record of the steps before is freed, and what stands behind is
of the step (R310, R311). -/
def State.markShuttles (s : State) (b : Job) : State :=
  (State.shuttleFrames b).foldl (fun s f =>
    let x := s.frame f
    s.setFrame f { x with stepProd := x.freed, stepFreed := x.freed, stepTaken := x.freed }) s

/-- Takes the snapshots of a commit; a context that has ended needs none (R393, R394). -/
def State.stepSnapshot (s : State) (j : Nat) : State :=
  s.mapCtxs fun l c x =>
    if x.of j then { x with snap := if x.status = .ended then none else some (s.snapOf l c x) } else x

/-- The intake entries that one step uses (log entry 25). -/
def Job.perStep (b : Job) : Nat := (Config.intakeEntries b.jid).toNat + 1

/-- The intake after a commit: CONSUMER advances past the step's entries, and what the boundary must still do is noted
(R314 to R318); `trouble` says that scale trouble was reported (R313). -/
def State.intake (s : State) (j : Nat) (b : Job) (step : Nat) (trouble : Bool) : State :=
  match b.camp with
  | none => s
  | some c =>
    let n := c.consumed + b.perStep
    let ents := (List.range b.perStep).map fun i => ringEntry c.inring c.insize (c.consumed + i)
    let last := ents.any fun a => (s.jobNat b (a + 20) 1).testBit 0
    let tag := match ents.getLast? with
      | some a => BitVec.ofNat 32 (s.jobNat b (a + 16) 4)
      | none => 0
    let done := b.committed
    let cause := if last then some 0
      else if b.stopAt then some 0x6A
      else if c.endTrouble && trouble then some 0x6A
      else if c.steps ≠ 0 ∧ c.steps ≤ done then some 0
      else none
    let c := { c with
      consumed := n, lastTag := tag, boundary := true, waitFrom := none
      ckDue := (c.ckstep ≠ 0 && step % c.ckstep = 0)
      evDue := c.evring ≠ 0 && step % c.every = 0
      ending := cause
      finalCk := last }
    (s.jobPut b (c.inring + 8) (leBytes 8 n)).modJob j fun b => { b with camp := some c }

/-- The step of a name in force as a number near the job's step: names carry its low 32 bits (R469). -/
def nearStep (near low : Nat) : Int := near + (BitVec.ofNat 32 low - BitVec.ofNat 32 near).toInt

/-- The oldest step of an entry whose contributions a module still takes (R485). -/
def Job.oldest (b : Job) (e : Nat) : Nat :=
  match b.flights.find? fun f => f.entry = e && !f.done with
  | some f => f.step
  | none => if (b.cols.getD e default).post then b.step - 1 else b.step

/-- Whether a contribution's name is one that the module still takes (R485). -/
def Job.wants (b : Job) (tag : Nat) : Bool :=
  decide ((b.oldest (bitsOf tag 32 6) : Int) ≤ nearStep b.step (tag % 2 ^ 32))

/-- The end of a commit, once every UPD operation that it released has signalled: the commit notices, and the intake (R336, R521
stage 5). -/
def State.closeCommit (s : State) (j : Nat) : State :=
  match s.job? j with
  | none => s
  | some b =>
    match b.tail with
    | none => s
    | some t =>
      if s.updPending j then s
      else
        let s := (s.setJob j { b with tail := none }).sendAll (noticePackets b t.1)
        (s.intake j b t.1 t.2).reap

/-- The ends of every job's commit that can be made. -/
def State.closeCommits (s : State) : State := s.mill.jobs.foldl (fun s p => s.closeCommit p.1) s

/-- Commits a step in the order of R521. -/
def State.commit (s : State) (j : Nat) (b : Job) (trouble : Bool) (u : Upset) : State :=
  let step := b.step
  let lost := s.stagingFails j u
  let s := (s.applyStaging j u).histories j
  let s := s.modJob j fun b => { b with
    trouble := b.trouble || trouble, tail := some (step, trouble)
    committed := b.committed + 1, replays := 0, seen := [], causes := [], deques := [], flights := b.flights.filter (!·.done)
    prods := b.prods.mapVals (fun _ p => { p with stepSqn := p.sqn }) {}
    chans := b.chans.map fun c => { c with sent := 0, rcvd := 0, arrived := [], parts := [], ends := [] }
    stepTaken := b.taken, postDue := b.cols.any (·.post), sent := [] }
  let s := s.modJob j fun b => { b with recv := b.recv.filter fun c => b.wants c.tag }
  let s := s.markShuttles b
  let s := s.mapCtxs fun _ _ x => if x.of j then x.commit else x
  let s := (s.stepSnapshot j).releaseUpd j
  let s := if b.camp.isSome then s.modJob j fun b => { b with camp := b.camp.map fun c => { c with boundary := true } }
    else s.mapCtxs fun _ _ x => if x.of j && x.status = .atStep then { x with status := .running } else x
  let s := if lost then s.endJob j 0x40 else if b.stopAt ∧ b.camp.isNone then s.endJob j 0x6A else s
  (s.closeCommit j).reap

/-- STEP_COMMIT: the scale-trouble examination, then the commit (R255 to R258, R521). `u` is what the checks of the staging
rows see. -/
def execStepCommit (j : Nat) (u : Upset) (s : State) : Host.Outcome State Fault Refusal :=
  .next (match s.on, s.job? j with
    | true, some b =>
      if !s.mayCommit j b then s
      else
        let qz := s.scaleCtl j
        let bad := b.records.filter fun r => s.inTrouble qz r.1
        if bad ≠ [] ∧ bitsOf qz 8 2 ≠ 0 ∧ (bad.all fun r => decide (s.natAt (r.1 + 67) 1 < bitsOf qz 6 2))
            ∧ b.replays + 1 ≤ s.maxrep then
          s.troubleReplay j qz b bad
        else (bad.foldl (fun s r => s.troubleRec b r) s).commit j b (decide (bad ≠ [])) u
    | _, _ => s)

/-! ### Boundaries (R522) -/

/-- JOB_BOUNDARY: the boundary of a job that does not commit in steps, or its final boundary, which ends it (R257, R392,
R522); a campaign that has been told to stop stops there (R511). `u` is what the checks of the staging rows see. -/
def execJobBoundary (j : Nat) (u : Upset) (s : State) : Host.Outcome State Fault Refusal :=
  .next (match s.on, s.job? j with
    | true, some b =>
      if b.steps || b.st ≠ .resident || b.endWith.isSome || !s.allReported j then s
      else
        let qz := s.scaleCtl j
        let go := s.someReported j
        let lost := s.stagingFails j u
        let s := s.applyStaging j u
        let bad := b.records.filter fun r => s.inTrouble qz r.1
        let s := (bad.foldl (fun s r => s.troubleRec b r) s).modJob j fun b => { b with trouble := b.trouble || decide (bad ≠ []) }
        let s := s.histories j
        if lost then (s.endJob j 0x40).reap
        else if b.stopAt then (s.endJob j 0x6A).reap
        else if go then s.mapCtxs fun _ _ x => if x.of j && x.status = .atStep then { x with status := .running } else x
        else (s.endJob j 0).reap
    | _, _ => s)

/-! ### Step replay (R527, R528) -/

/-- A context as a replay leaves it (R393): its snapshot, every knot signalled, every tile closed. A context that ended in
a committed step stays ended. -/
def Ctx.restore (x : Ctx) (boundary : Bool) : Ctx :=
  match x.snap with
  | none => x
  | some v =>
    { x with
      s := v.s, a := v.a, p := v.p, lc := v.lc, pc := v.pc, arithCtl := v.arith, qzCtl := v.qz, updCtl := v.upd
      arithFlags := v.aflags, qzFlags := v.qflags, updFlags := v.uflags
      knots := x.allSignalled, joins := [], tiles := [], veOrd := 0, bufDrains := 0
      status := if boundary then .atStep else .running }

/-- The peer whose rewind asked for a replay: its coordinate plus 1, or 0 (R311; log entry 29). -/
def rewinder (cause : Byte × Nat) : Nat := if cause.1 = 0 then cause.2 else 0

/-- Rewinds the shuttles of a job on this module to the start of the step, and tells remote peers (R311). A shuttle whose
producer asked for the replay has been rewound when its request came, and that peer is not told (log entry 29). -/
def State.rewind (s : State) (b : Job) (from_ : Nat) : State :=
  let s := (State.shuttleFrames b).foldl (fun s f =>
    let x := s.frame f
    let told := decide (from_ ≠ 0) && x.shctl.toNat.testBit 30 && bitsOf x.shctl.toNat 16 14 + 1 = from_
    s.setFrame f { x with
      prod := if told then x.prod else x.stepProd
      freed := x.stepFreed, taken := x.stepTaken, reported := x.stepFreed }) s
  match b.pair with
  | none => s
  | some p =>
    let far := p.ents.zipIdx.filter fun e => e.1.peer ≠ s.coord && e.1.peer.toNat + 1 ≠ from_
    s.sendAll (far.map fun e =>
      let sqn := if e.1.dir then (b.prods.get e.2 {}).stepSqn.toNat else (s.frame e.1.sframe).prod.toNat
      { dst := e.1.peer, tc := 2, type := 2, fjob := b.fjob, xt := e.1.sframe, tag := sqn + b.step % 2 ^ 32 * 2 ^ 32 })

/-- A job's record as a replay leaves it (R311, R369, R404, R527): the deques, the staging and the pipeline sends go back,
accepted contributions stay (R485). -/
def Job.restore (b : Job) : Job :=
  { b with
    fault := none, replays := b.replays + 1, seen := b.seen ++ b.causes, causes := [], deques := [], staging := []
    prods := b.prods.mapVals (fun _ p => { p with sqn := p.stepSqn, freed := BitVec.ofNat 16 p.stepSqn.toNat }) {}
    taken := b.stepTaken
    chans := b.chans.map fun c => { c with sent := 0, rcvd := 0 }
    flights := b.flights.filter fun f => (b.cols.getD f.entry default).post }

/-- The queued operations of a job that a replay keeps: released UPD operations, which belong to a committed step (log
entry 26). -/
def State.dropStep (s : State) (j : Nat) : State :=
  s.mapSpns fun _ x => x.mapQueues (·.filter fun q => q.job ≠ j || (q.isUpd && !q.aside))

/-- STEP_REPLAY (R527, R528): once the started operations have completed, the step goes back to its start, or the job ends
where MAXREP replays have been made. Without command core 0 there is no replay (R123). -/
def execStepReplay (j : Nat) (s : State) : Host.Outcome State Fault Refusal :=
  .next (match s.on && s.core0, s.job? j with
    | true, some b =>
      match b.fault with
      | none => s
      | some f =>
        if b.st ≠ .resident || b.endWith.isSome || s.started j || s.mill.spots.any (fun t => t.job = some j)
            || s.mill.twinTests.any (fun t => t.2.2 = j) then s
        else if s.maxrep < b.replays + 1 then (s.endJob j (if f.1 = 0 then 0x40 else f.1)).reap
        else
          let s := s.baroWrite 0x02 2 true [jobW b, codeW f.1.toNat (b.replays + 1) 0]
          let s := s.dropStep j
          let s := s.mapSpns fun _ x => { x with journal := x.journal.filter fun e => !((x.ctxs.get e.ctx {}).of j) }
          let s := (s.ctxsOf j).foldl (fun s c => match c.2.2.snap with
            | some v => s.putFile c.1 c.2.1 v.file
            | none => s) s
          let s := s.mapCtxs fun _ _ x => if x.of j then x.restore b.atBoundary else x
          let s := b.records.foldl (fun s r => s.recDiscard r.1) s
          let s := s.rewind b (rewinder f)
          let s := s.modJob j fun b => { b.restore with records := [] }
          { s with mill := { s.mill with
              rstat0 := s.mill.rstat0 + (if s.mill.rstat0.toNat % 2 ^ 32 = 2 ^ 32 - 1 then 0 else 1)
              twins := s.mill.twins.filter fun t => t.job ≠ j } }
    | _, _ => s)

end Sys2Proof.Machine
end

