-- ==== Sys2Proof/Machine/Arrivals.lean ====
section
/-! DEFINITION. Packets of the shuttle and pipeline classes as they arrive, and the credits a consumer returns (R303, R304,
R311, R366 to R369, R468, R469, R471). -/

namespace Sys2Proof.Machine

/-- The placed job that a packet's FJOB names (R468, R469). -/
def State.fjob? (s : State) (h : PHdr) : Option (Nat × Job) :=
  if h.fjob = 0 then none
  else List.find? (fun p => p.2.fjob = h.fjob.toNat && decide (p.2.st ≠ .waiting)) s.mill.jobs

/-- A packet for an FJOB that this module does not know: it is discarded with a record (R468, R546). -/
def State.unknownJob (s : State) (h : PHdr) : State := s.baroWrite 0x10 0 false [locW .coord h.src.toNat, codeW 0 2 0]

/-- A packet for a job, or its discard. -/
def State.forJob (s : State) (h : PHdr) (f : Nat → Job → State) : State :=
  match s.fjob? h with
  | some (j, b) => f j b
  | none => s.unknownJob h

/-- Whether frame f consumes a remote shuttle of a job (R296). -/
def State.remoteShuttle (s : State) (b : Job) (f : Nat) : Bool :=
  s.ownsShuttle b f && (s.frame f).shctl.toNat.testBit 30

/-- A shuttle record: written to its slot, visible in SQN order, or discarded below PROD (R294, R300, R303, R311). -/
def State.recvRecord (s : State) (h : PHdr) (slot : List Byte) : State :=
  s.forJob h fun _ b =>
    let f := h.xt.toNat
    let x := s.frame f
    let sqn := h.tagf 0 32
    let ahead := BitVec.ofNat 16 sqn - x.prod
    if 32 ≤ f ∨ !s.remoteShuttle b f ∨ slot.length ≠ 384 ∨ ahead.msb then s
    else
      let s := s.putAt (slotKey f sqn) slot
      if ahead = 0 then s.setFrame f { x with prod := x.prod + 1 } else s

/-- The producing entry of a job that a shuttle packet from a consumer names. -/
def producing (b : Job) (h : PHdr) : Option Nat :=
  b.pair.bind fun p => (p.ents.zipIdx.find? fun e =>
    e.1.dir && e.1.peer.toNat = h.src.toNat % 2 ^ 14 && e.1.sframe = h.xt.toNat).map (·.2)

/-- A credit: FREED as the consumer counts it (R299, R304). -/
def State.recvCredit (s : State) (h : PHdr) : State :=
  s.forJob h fun j b =>
    match producing b h with
    | some i => s.setJob j { b with prods := b.prods.set i { b.prods.get i {} with freed := BitVec.ofNat 16 (h.tagf 0 32) } {} }
    | none => s

/-- A rewind for the step the job is in: a consumer's shuttle goes back to the step's start at once, and the job's share of
the step is replayed (R311; log entry 29). -/
def State.recvRewind (s : State) (h : PHdr) : State :=
  s.forJob h fun j b =>
    let f := h.xt.toNat
    let peer := h.src.toNat % 2 ^ 14
    let mine := decide (f < 32) && s.remoteShuttle b f && bitsOf (s.frame f).shctl.toNat 16 14 = peer
    if h.tagf 32 32 ≠ b.step % 2 ^ 32 ∨ !b.steps ∨ (!mine ∧ (producing b h).isNone) then s
    else
      let x := s.frame f
      let s := if mine then s.setFrame f { x with prod := x.stepProd } else s
      s.needReplay j 0 (peer + 1)

/-- The bytes of a message that have arrived: parts are kept by message and 4 KiB unit. -/
def Chan.got (c : Chan) (mb : Nat) : Nat := ((c.parts.filter fun p => p.1 / 2 ^ 18 = mb).map (·.2)).sum

/-- A pipeline message or part of one: written to its slot by offset; a message of another step, or one that has arrived
already, is discarded (R366, R369, R471). -/
def State.recvPipe (s : State) (h : PHdr) (data : List Byte) : State :=
  s.forJob h fun j b =>
    let n := h.xt.toNat
    match b.chans[n]? with
    | none => s
    | some c =>
      let mb := h.tagf 32 10
      let unit := h.tagf 42 18
      let off := unit * 4096
      if h.tagf 0 32 ≠ b.step % 2 ^ 32 ∨ c.down ≠ (h.type = 0) ∨ c.nmb ≤ mb ∨ mb ∈ c.arrived ∨ c.slotsz < off + data.length then s
      else
        let s := s.jobPut b (c.ring + mb * c.slotsz + off) data
        let c := { c with
          parts := c.parts.set (mb * 2 ^ 18 + unit) data.length 0
          ends := if h.last then c.ends.set mb (off + data.length) 0 else c.ends }
        let c := if c.ends.get mb 0 ≠ 0 ∧ c.got mb = c.ends.get mb 0 then { c with arrived := c.arrived ++ [mb] } else c
        s.modJob j fun b => { b with chans := b.chans.set n c }

/-- A commit notice of a channel's peer (R367, R368). -/
def State.recvNotice (s : State) (h : PHdr) : State :=
  s.forJob h fun j b =>
    let n := h.xt.toNat
    match b.chans[n]? with
    | none => s
    | some c =>
      let k := (BitVec.ofNat 32 (h.tagf 0 32) - b.firstStep.truncate 32).toNat + 1
      s.modJob j fun b => { b with chans := b.chans.set n { c with noticed := max c.noticed k } }

/-- SHUTTLE_RECORD (R303). -/
def execShuttleRecord (h : PHdr) (slot : List Byte) (s : State) : Host.Outcome State Fault Refusal :=
  .next (if s.on then s.recvRecord h slot else s)

/-- SHUTTLE_CREDIT (R304). -/
def execShuttleCredit (h : PHdr) (s : State) : Host.Outcome State Fault Refusal :=
  .next (if s.on then s.recvCredit h else s)

/-- SHUTTLE_REWIND (R311). -/
def execShuttleRewind (h : PHdr) (s : State) : Host.Outcome State Fault Refusal :=
  .next (if s.on then s.recvRewind h else s)

/-- PIPE_MESSAGE (R366). -/
def execPipeMessage (h : PHdr) (data : List Byte) (s : State) : Host.Outcome State Fault Refusal :=
  .next (if s.on then s.recvPipe h data else s)

/-- PIPE_COMMIT_NOTICE (R368). -/
def execPipeCommitNotice (h : PHdr) (s : State) : Host.Outcome State Fault Refusal :=
  .next (if s.on then s.recvNotice h else s)

/-- CREDIT_RETURN: the consumer of a remote shuttle sends its FREED count, where records have been freed since it last did
(R304). -/
def execCreditReturn (frame : BitVec 5) (s : State) : Host.Outcome State Fault Refusal :=
  let f := frame.toNat
  let x := s.frame f
  .next (match s.on, List.find? (fun p => s.remoteShuttle p.2 f && decide (p.2.st ≠ .waiting)) s.mill.jobs with
    | true, some p =>
      if x.freed = x.reported then s
      else
        (s.setFrame f { x with reported := x.freed }).send
          { dst := BitVec.ofNat 14 (bitsOf x.shctl.toNat 16 14), tc := 2, type := 1, fjob := p.2.fjob, xt := f
            tag := x.freed.toNat + p.2.step % 2 ^ 32 * 2 ^ 32 }
    | _, _ => s)

end Sys2Proof.Machine
end

