-- ==== Sys2Proof/Machine/Campaigns.lean ====
section
/-! DEFINITION. Campaigns (R313 to R318): the intake, checkpoints, evaluations, reports, and the end. -/

namespace Sys2Proof.Machine

/-- Changes a job's campaign. -/
def State.modCamp (s : State) (j : Nat) (f : Camp → Camp) : State :=
  s.modJob j fun b => { b with camp := b.camp.map f }

/-- The placed campaign of a job that waits at a boundary with its released UPD operations signalled (R315, R336). -/
def State.camp? (s : State) (j : Nat) : Option (Job × Camp) :=
  match s.job? j with
  | some b =>
    match b.camp with
    | some c => if s.on && b.st = .resident && b.endWith.isNone && b.fault.isNone && c.boundary && b.tail.isNone && !s.updPending j then some (b, c) else none
    | none => none
  | none => none

/-- The step that a campaign committed last. -/
def Job.lastStep (b : Job) : Nat := b.step - 1

/-- A report of 32 bytes (R317). -/
def reportBytes (b : Job) (c : Camp) (type : Nat) (body : List Byte) : List Byte :=
  leBytes 1 type ++ [0, 0, 0] ++ leBytes 4 c.lastTag.toNat ++ leBytes 8 b.lastStep
    ++ (body ++ List.replicate (12 - body.length) 0) ++ leBytes 4 (min c.waited (2 ^ 32 - 1))

/-- The campaign with the time that it has waited for the intake counted up to now (R315, R317). -/
def State.campNow (s : State) (c : Camp) : Camp :=
  match c.waitFrom with
  | some t => { c with waitFrom := none, waited := c.waited + (s.ns - t) / 1000 }
  | none => c

/-- Queues a report; the waiting time starts again (R317). -/
def Camp.queue (c : Camp) (b : Job) (type : Nat) (body : List Byte) : Camp :=
  { c with reports := c.reports ++ [reportBytes b c type body], waited := 0 }

/-- INTAKE_POLL: PRODUCER of the rings is read, and the next step starts once the boundary has nothing left to do and the
intake holds the step's entries (R314, R315, R317). A ring that cannot be reached holds no new entry (R427). -/
def execIntakePoll (j : Nat) (s : State) : Host.Outcome State Fault Refusal :=
  let s := if s.on then
      match s.job? j with
      | some b => s.modCamp j fun c =>
          let see (ring old : Nat) : Nat := if (s.jobKey b ring).isSome then s.jobNat b ring 8 else old
          { c with avail := see c.inring c.avail, evAvail := see c.evring c.evAvail }
      | none => s
    else s
  .next (match s.camp? j with
    | some (b, c) =>
      if c.ckDue || c.evDue || c.ending.isSome || b.stopAt || c.paused || c.reports ≠ [] then s
      else if (s.jobKey b c.inring).isSome && decide (b.perStep ≤ (c.avail + 2 ^ 64 - c.consumed) % 2 ^ 64) then
        let t := s
        let s := s.modCamp j fun c => { t.campNow c with boundary := false }
        s.mapCtxs fun _ _ x => if x.of j && x.status = .atStep then { x with status := .running } else x
      else s.modCamp j fun c => { c with waitFrom := some (c.waitFrom.getD s.ns) }
    | none => s)

/-- The address of a checkpoint slot. -/
def Camp.slotAddr (c : Camp) (slot : Nat) : Nat := c.ckpt + slot * c.cksize

/-- Every byte of a checkpoint slot can be reached. -/
def State.slotReach (s : State) (b : Job) (c : Camp) (slot : Nat) : Bool :=
  (Seg.points ⟨c.slotAddr slot, c.cksize, .write⟩).all fun a => (s.jobKey b a).isSome

/-- Writes a checkpoint slot: bytes that the memory's contents give (R315). How the master planes and state records lie in the
slot the spec does not say (log entry 28). -/
def State.writeSlot (s : State) (b : Job) (c : Camp) (slot : Nat) : State :=
  s.jobPut b (c.slotAddr slot) ((List.range c.cksize).map (Config.checkpointByte s.mem b.jid))

/-- What a checkpoint slot holds after its write has failed: free values, for R318 says nothing of it (log entry 28). -/
def State.spoilSlot (s : State) (b : Job) (c : Camp) (slot : Nat) : State :=
  let bs := (List.range c.cksize).map fun i => BitVec.ofNat 8 ((Config.freeBits (s.free + i / 8)).toNat >>> (8 * (i % 8)))
  (s.jobPut b (c.slotAddr slot) bs).skipFree (c.cksize / 8 + 1)

/-- The slot of the checkpoint that is due (R315). -/
def Camp.dueSlot (b : Job) (c : Camp) : Nat := b.lastStep / c.ckstep % 2

/-- CHECKPOINT_REPORT: the checkpoint is written and acknowledged, and reported (R315). -/
def execCheckpointReport (j : Nat) (s : State) : Host.Outcome State Fault Refusal :=
  .next (match s.camp? j with
    | some (b, c) =>
      let slot := Camp.dueSlot b c
      if !c.ckDue || c.paused || !s.slotReach b c slot then s
      else (s.writeSlot b c slot).modCamp j fun c =>
        { c.queue b 1 (leBytes 8 (c.slotAddr slot) ++ leBytes 1 slot) with
          ckDue := false, lastSlot := some slot, lastCk := b.lastStep }
    | none => s)

/-- The slot of a final checkpoint: the one not written last, or A (R318). -/
def Camp.finalSlot (c : Camp) : Nat :=
  match c.lastSlot with
  | some n => 1 - n
  | none => 0

/-- CHECKPOINT_FAIL: CXL fails the write of a checkpoint; the campaign pauses after a FAULT report, and its client hears
CKPT_FAIL (R318, R513). What the failed slot then holds is not stated: its bytes are free values. -/
def execCheckpointFail (j : Nat) (s : State) : Host.Outcome State Fault Refusal :=
  .next (match s.camp? j with
    | some (b, c) =>
      let slot := if c.ckDue then Camp.dueSlot b c else c.finalSlot
      if !(c.ckDue || c.finalCk) || c.paused then s
      else
        let t := ({ s with ports := [] } : State).spoilSlot b c slot
        let s := { t with ports := s.ports }
        let s := s.modCamp j fun c => { c.queue b 4 [0x68] with paused := true }
        s.complete { client := b.client, kind := 2, status := 0x68, tag := b.tag, ref := b.ref, irq := b.irq, vec := b.vec }
    | none => s)

/-- The decoding of a binary64 code. -/
def f64Of (v : BitVec 64) : Lin := (fpDecode ⟨11, 52, 1023, .ieee, true⟩ false v.toNat).1

/-- The KL mean of an evaluation as FP32 (R316). Of no tokens the spec states no mean: a free value. DESIGN CHOICE: a mean beyond the
largest finite value becomes an infinity, as with INF = 1, for no ARITH_CTL governs the report (R60; log entry 119). -/
def klMean (toks : List EvalToken) : Nat :=
  if toks = [] then Config.emptyMean.toNat
  else (fpEncode ⟨8, 23, 127, .ieee, true⟩ ⟨.rne, true, false, .rne⟩ false
    (divCount (toks.foldl (fun a t => add64 a (f64Of t.kl)) .zero) toks.length) .rne).1

/-- The tokens in the entries that an evaluation uses: TOKENS of each (R314, R316). -/
def State.evalTokens (s : State) (b : Job) (c : Camp) : Nat :=
  (List.range c.evbatch).foldl (fun n i => n + s.jobNat b (ringEntry c.evring c.evsize (c.evDone + i) + 12) 4) 0

/-- EVALUATION: the forward runs over EVBATCH entries gave `toks`, one for each of their tokens; the EVAL report and the evaluation ring
(R316). A ring on a lost port holds no entry (R427). -/
def execEvaluation (j : Nat) (toks : List EvalToken) (s : State) : Host.Outcome State Fault Refusal :=
  .next (match s.camp? j with
    | some (b, c) =>
      if !c.evDue || c.ckDue || c.paused || (s.jobKey b c.evring).isNone
          || decide ((c.evAvail + 2 ^ 64 - c.evDone) % 2 ^ 64 < c.evbatch) || toks.length ≠ s.evalTokens b c then s
      else
        let same := (toks.filter fun t => t.student = t.teacher).length
        let body := (if c.evalTeacher then leBytes 4 (klMean toks) else [0, 0, 0, 0])
          ++ leBytes 4 toks.length ++ leBytes 4 (if c.evalTeacher then same else 0)
        let n := c.evDone + c.evbatch
        (s.jobPut b (c.evring + 8) (leBytes 8 n)).modCamp j fun c =>
          { c.queue b 2 body with evDue := false, evDone := n }
    | none => s)

/-- Whether the report ring has room (R317). -/
def State.reportRoom (s : State) (b : Job) (c : Camp) : Bool :=
  (s.jobKey b c.report).isSome && decide ((c.produced + 2 ^ 64 - s.jobNat b (c.report + 8) 8) % 2 ^ 64 < c.rpsize)

/-- Writes a report into the ring: the entry, PRODUCER, the message (R317). -/
def State.putReport (s : State) (j : Nat) (b : Job) (c : Camp) (bs : List Byte) : State :=
  let s := s.jobPut b (ringEntry c.report c.rpsize c.produced) bs
  let s := s.jobPut b c.report (leBytes 8 (c.produced + 1))
  let s := s.modCamp j fun c => { c with produced := c.produced + 1 }
  if c.vec = 0xFF ∨ 32 ≤ b.client then s else s.interrupt b.client c.vec

/-- REPORT_WRITE: the oldest report goes to the ring, once there is room (R317). -/
def execReportWrite (j : Nat) (s : State) : Host.Outcome State Fault Refusal :=
  .next (match s.camp? j with
    | some (b, c) =>
      match c.reports with
      | r :: rest =>
        if s.reportRoom b c then (s.putReport j b c r).modCamp j fun c => { c with reports := rest } else s
      | [] => s
    | none => s)

/-- CAMPAIGN_END: after the boundary's other stages, the final checkpoint where the intake ended, the STOPPED report, and
the end of the job (R318, R511). -/
def execCampaignEnd (j : Nat) (s : State) : Host.Outcome State Fault Refusal :=
  .next (match s.camp? j with
    | some (b, c) =>
      match c.ending.or (if b.stopAt then some 0x6A else none) with
      | none => s
      | some cause =>
        if c.ckDue || c.evDue || c.paused || c.reports ≠ [] || !s.reportRoom b c
            || (c.finalCk && !s.slotReach b c c.finalSlot) then s
        else
          let s := if c.finalCk then s.writeSlot b c c.finalSlot else s
          let s := s.putReport j b c (reportBytes b (s.campNow c) 3 (leBytes 1 cause))
          (s.endJob j (BitVec.ofNat 8 cause)).reap
    | none => s)

end Sys2Proof.Machine
end

