-- ==== Sys2Proof/Machine/Jobs.lean ====
section
/-! DEFINITION. Commands and completions (R492 to R515): rings, submission, commands on running jobs, placement and
switching, page migration, remote commands, and resets of a host function. -/

namespace Sys2Proof.Machine

/-! ### Command entries (R498, R501, R511) -/

/-- Whether an entry holds a reserved value (R498). -/
def entryBad (e : Line) : Bool :=
  let op := lineBytes e 0 0
  op = 0 || decide (4 < op) || decide (1 < lineBytes e 1 1) || decide (63 < lineBytes e 2 2) || lineBytes e 7 3 ≠ 0
    || lineBytes e 63 32 ≠ 0

/-- Completes a command entry (R511, R512). -/
def State.cmdDone (s : State) (client : Nat) (ref : Word) (e : Line) (status : Byte) : State :=
  s.complete { client := client, kind := 2, status := status, tag := BitVec.ofNat 64 (lineBytes e 15 8), ref := ref
               irq := (lineBytes e 1 1).testBit 0, vec := lineBytes e 2 2 }

/-- Consumes a SUBMIT entry: the job waits in its class's queue, or is refused (R494, R498, R501, R503); the refusal too has the
fault-count area of the descriptor (R512). -/
def State.submit (s : State) (client : Nat) (ref : Word) (e : Line) : State :=
  let tag := BitVec.ofNat 64 (lineBytes e 15 8)
  let irq := (lineBytes e 1 1).testBit 0
  let vec := lineBytes e 2 2
  let s := s.countSubmit client
  match (if entryBad e then .error jobCfg else s.readJob client ref tag irq vec (lineBytes e 23 16)) with
  | .error st =>
    let flog := if entryBad e then 0 else s.fieldAt (s.clientKey client (lineBytes e 23 16)) 136 8
    (s.countEnd client).complete
      { client := client, kind := 1, status := st, tag := tag, ref := ref, irq := irq, vec := vec, flog := flog }
  | .ok b =>
    let j := s.mill.nextJid
    let m := s.mill
    { s with mill := { m with
        nextJid := j + 1, jobs := m.jobs.put j { b with jid := j }
        critQ := if b.crit then m.critQ ++ [j] else m.critQ, fillQ := if b.crit then m.fillQ else m.fillQ ++ [j] } }

/-- The job of a client with a reference (R511). -/
def State.jobRef (s : State) (client : Nat) (ref : Nat) : Option (Nat × Job) :=
  List.find? (fun p => p.2.client = client && p.2.ref.toNat = ref) s.mill.jobs

/-- Takes a job away: at once where it waits, else once its started operations complete (R511). -/
def State.dropJob (s : State) (j : Nat) (b : Job) (status : Byte) : State :=
  if b.st = .waiting then s.removeJob j status else (s.endJob j status).reap

/-- STOP, RESUME or ABORT on a job (R318, R511): the STATUS of the command, and the state. -/
def State.act (s : State) (client : Nat) (e : Line) : Byte × (State → State) :=
  match s.jobRef client (lineBytes e 31 24) with
  | none => (0x6B, id)
  | some (j, b) =>
    match lineBytes e 0 0 with
    | 2 => (0, fun s => if b.steps || b.camp.isSome then s.modJob j fun b => { b with stopAt := true } else s.dropJob j b 0x6A)
    | 3 =>
      (match b.camp with
       | some c => if c.paused then (0, fun s => s.modCamp j fun c => { c with paused := false }) else (jobCfg, id)
       | none => (jobCfg, id))
    | _ => (0, fun s => s.dropJob j b 0x69)

/-- The mill takes an entry: without command core 0 it accepts no job (R123). -/
def State.accepts (s : State) (e : Line) : Bool := s.mill.accepting || lineBytes e 0 0 ≠ 1

/-- Acts on one command entry of a client, at a ring position (R498). -/
def State.command (s : State) (client : Nat) (ref : Word) (e : Line) : State :=
  if !s.accepts e then s
  else if lineBytes e 0 0 = 1 then s.submit client ref e
  else if entryBad e then s.cmdDone client (BitVec.ofNat 64 (lineBytes e 31 24)) e jobCfg
  else
    let r := s.act client e
    r.2 (s.cmdDone client (BitVec.ofNat 64 (lineBytes e 31 24)) e r.1)

/-- The entry with its OP byte. -/
def withOp (e : Line) (op : Nat) : Line := (e &&& ~~~(255#512)) ||| BitVec.ofNat 512 op

/-- SUBMIT (R498, R499 to R501). -/
def execSubmit (client : BitVec 8) (ref : Word) (entry : Line) (s : State) : Host.Outcome State Fault Refusal :=
  .next (if s.on then s.command client.toNat ref (withOp entry 1) else s)

/-- STOP (R318, R511). -/
def execStop (client : BitVec 8) (ref : Word) (entry : Line) (s : State) : Host.Outcome State Fault Refusal :=
  .next (if s.on then s.command client.toNat ref (withOp entry 2) else s)

/-- RESUME (R318, R511). -/
def execResume (client : BitVec 8) (ref : Word) (entry : Line) (s : State) : Host.Outcome State Fault Refusal :=
  .next (if s.on then s.command client.toNat ref (withOp entry 3) else s)

/-- ABORT (R511). -/
def execAbort (client : BitVec 8) (ref : Word) (entry : Line) (s : State) : Host.Outcome State Fault Refusal :=
  .next (if s.on then s.command client.toNat ref (withOp entry 4) else s)

/-- An entry from a remote mill, for the client that its coordinate is bound to (R493). -/
def State.recvCommand (s : State) (src : Nat) (ref : Word) (entry : Line) : State :=
  match (List.range 256).find? fun c => s.binding c = some (BitVec.ofNat 14 src) with
  | some c => s.command c ref entry
  | none => s.baroWrite 0x10 0 false [locW .coord src, codeW 0 0 0]

/-- REMOTE_COMMAND (R493). -/
def execRemoteCommand (src : Coord) (ref : Word) (entry : Line) (s : State) : Host.Outcome State Fault Refusal :=
  .next (if s.on then s.recvCommand src.toNat ref entry else s)

/-! ### Host rings (R495 to R497, R514, R515) -/

/-- EN of a function's JOB_RCFG. -/
def Fn.en (x : Fn) : Bool := x.rcfg.msb

/-- The key of a byte of a ring in host memory or in the ring window (R495, R496). -/
def ringKey (space : Bool) (f : Nat) (base off : Nat) : Nat :=
  if space then keyOf 5 (f * 2 ^ 21 + (base + off) % 2 ^ 21) else keyOf 0 (base + off)

/-- The key of a byte of a function's command ring. -/
def State.cmdKey (s : State) (f off : Nat) : Nat := ringKey (s.fn f).live.rspace f (s.fn f).live.rbase.toNat off

/-- The key of a byte of a function's completion ring. -/
def State.cplKey (s : State) (f off : Nat) : Nat := ringKey (s.fn f).live.cspace f (s.fn f).live.cbase.toNat off

/-- Acts on the entries of a command ring from CONSUMER on, `n` of them, while the client is enabled (R497). -/
def State.consume (s : State) (f : Nat) : Nat → Nat → State
  | 0, _ => s
  | n + 1, q =>
    let key := s.cmdKey f (64 + q % 2 ^ (s.fn f).live.rlog * 64)
    let e := BitVec.ofNat 512 (s.natAt key 64)
    if !s.accepts e then s
    else
      let s := s.command f (BitVec.ofNat 64 q) e
      let s := s.putAt (s.cmdKey f 8) (leBytes 8 (q + 1))
      s.consume f n (q + 1)

/-- COMMAND_RING_POLL: the mill reads a client's PRODUCER and acts on its new entries; an overrun disables the client
(R495, R497). -/
def execCommandRingPoll (client : BitVec 8) (s : State) : Host.Outcome State Fault Refusal :=
  let f := client.toNat
  let x := s.fn f
  .next (if !s.on || 32 ≤ f || !s.fnThere f || !x.en then s
    else
      let prod := s.natAt (s.cmdKey f 0) 8
      let cons := s.natAt (s.cmdKey f 8) 8
      let n := (prod + 2 ^ 64 - cons) % 2 ^ 64
      if 2 ^ x.live.rlog < n then
        let s := s.complete { client := f, kind := 2, status := jobCfg, tag := 0, ref := 0, last := true }
        let s := s.setFn f { x with rcfg := x.rcfg &&& 0x7FFFFFFFFFFFFFFF }
        s.baroWrite 0x10 0 false [locW .client f, codeW 0 1 0]
      else s.consume f n cons)

/-- COMPLETION_WRITE: the client's oldest held completion goes to its ring, once there is room: fault counts, entry,
PRODUCER, message (R494, R512, R514, R515); that of an overrun also after the mill has disabled the client (R497). -/
def execCompletionWrite (client : BitVec 8) (s : State) : Host.Outcome State Fault Refusal :=
  let f := client.toNat
  let x := s.fn f
  .next (match s.mill.held.find? fun c => c.client = f with
    | none => s
    | some c =>
      let prod := s.natAt (s.cplKey f 0) 8
      let cons := s.natAt (s.cplKey f 8) 8
      if !s.on || !s.fnThere f || !(x.en || c.last) || decide (2 ^ x.live.clog ≤ (prod + 2 ^ 64 - cons) % 2 ^ 64) then s
      else
        let s := { s with mill := { s.mill with held := s.mill.held.erase c } }
        let s := s.writeCounts c
        let s := s.putAt (s.cplKey f (64 + prod % 2 ^ x.live.clog * 64)) c.bytes
        let s := s.putAt (s.cplKey f 0) (leBytes 8 (prod + 1))
        if c.irq then s.interrupt f c.vec else s)

/-- The fields of JOB_RCFG (R495). -/
def rcfgFields : List Fld :=
  [fld 63 1, fld 62 1, fld 61 1, ⟨48, 8, (· < 4)⟩, ⟨20, 4, (· < 4)⟩, ⟨16, 4, (· < 4)⟩]

/-- JOB_RCFG_WRITE: fields are stored at once; when EN rises the stored ring settings come into force (R17, R495). -/
def execJobRcfgWrite (fn : BitVec 5) (v : Word) (s : State) : Host.Outcome State Fault Refusal :=
  let x := s.fn fn.toNat
  let n := putFields rcfgFields v.toNat x.rcfg.toNat
  let y := { x with rcfg := BitVec.ofNat 64 n }
  let live : Rings :=
    { rspace := n.testBit 62, cspace := n.testBit 61, rlog := bitsOf n 20 4, clog := bitsOf n 16 4, rbase := x.rbase
      cbase := x.cbase }
  .next (if !s.on || !s.fnThere fn.toNat then s else s.setFn fn.toNat (if y.en && !x.en then { y with live := live } else y))

/-! ### Resets of a function (R492) -/

/-- Ends every job of a client with ABORTED and without a completion entry (R492). -/
def State.abortClient (s : State) (client : Nat) : State :=
  s.mill.jobs.foldl (fun s p =>
    if p.2.client = client then (s.modJob p.1 fun b => { b with quiet := true }).dropJob p.1 p.2 0x69 else s) s

/-- A function's JOB_RCFG at its reset value, and its client's jobs ended (R492). -/
def State.resetFn (s : State) (f : Nat) : State :=
  (s.setFn f { s.fn f with rcfg := 0x0004000000440000 }).abortClient f

/-- The number of virtual functions becomes `n`: those above it are disabled, and their clients' jobs end (R491, R492). -/
def State.setVfs (s : State) (n : Nat) : State :=
  let t := ((List.range 32).filter fun f => n < f && s.fnThere f).foldl State.resetFn s
  { t with host := { t.host with vfs := n } }

/-- A reset of the PF: it also disables every VF (R492). -/
def State.resetPf (s : State) : State := (s.resetFn 0).setVfs 0

/-- FUNCTION_LEVEL_RESET; that of the PF also disables every VF (R492). -/
def execFunctionLevelReset (fn : BitVec 5) (s : State) : Host.Outcome State Fault Refusal :=
  .next (if !s.on || !s.fnThere fn.toNat then s else if fn = 0 then s.resetPf else s.resetFn fn.toNat)

/-- BUS_MASTER_ENABLE_CLEAR (R492). -/
def execBusMasterEnableClear (fn : BitVec 5) (s : State) : Host.Outcome State Fault Refusal :=
  .next (if s.on && s.fnThere fn.toNat then s.resetFn fn.toNat else s)

/-! ### Placement and switching (R502 to R508) -/

/-- JOB_PLACE (R502, R503). -/
def execJobPlace (job : Nat) (s : State) : Host.Outcome State Fault Refusal :=
  .next (if s.on then s.place job else s)

/-- FILL_WAIT_LIMIT: a fill job has waited 100 ms (R503). -/
def execFillWaitLimit (job : Nat) (s : State) : Host.Outcome State Fault Refusal :=
  .next (match s.on, s.job? job with
    | true, some b =>
      if !b.crit && b.st ≠ .resident && decide (b.since + 100000000 ≤ s.ns) then s.modJob job fun b => { b with aged := true } else s
    | _, _ => s)

/-- JOB_SWITCH_OUT (R504, R506, R508). -/
def execJobSwitchOut (job : Nat) (s : State) : Host.Outcome State Fault Refusal :=
  .next (if s.on then s.switchOut job else s)

/-- JOB_SWITCH_IN (R503, R506). -/
def execJobSwitchIn (job : Nat) (s : State) : Host.Outcome State Fault Refusal :=
  .next (if s.on then s.switchIn job else s)

/-! ### Page migration (R439) -/

/-- The region of a job that holds a page: a paged page number, or 2^35 plus an index of the creel maps; with the page's
index in its region. -/
def Job.regionOf (b : Job) (page : Nat) : Option (Region × Nat) :=
  b.regions.findSome? fun r =>
    let first := if r.tier = 0 then 2 ^ 35 + r.pref * 16 + r.window else r.vbase / 2 ^ 21
    if first ≤ page ∧ page < first + r.npages then some (r, page - first) else none

/-- The state in which what is under way follows a page of a job that moves (R435). -/
def State.retarget (s : State) (j old new : Nat) : State :=
  let s := s.modJob j fun b => { b with
    staging := b.staging.map fun x => x.moved old new (2 ^ 21), records := b.records.map fun k => (movedKey old new (2 ^ 21) k.1, k.2) }
  s.mapSpns fun _ x => { x with
    running := x.running.map fun r => if r.2.q.job = j then (r.1, r.2.moved old new (2 ^ 21)) else r }

/-- A page that is copied from one place to another, its poison with it, and a job's entry that now names the other: entry `n` of
its creel map or of its page table (R435, R439, R453). -/
def State.copyPage (s : State) (j : Nat) (creel : Bool) (n : Nat) (e : Word) (old new : Loc) : State :=
  let s : State := { s with
    mem := Mem.setBytes s.mem new.key (s.bytesAt old.key (2 ^ 21)), poison := s.poisonMoved old.key new.key (2 ^ 21) }
  (s.modJob j fun b =>
    if creel then { b with creelMap := b.creelMap.set n e 0 } else { b with pages := b.pages.set n e 0 }).retarget j old.key new.key

/-- A page copied as copyPage says, where both places exist; a page of the creel takes its slot (R432). -/
def State.copyTo (s : State) (j : Nat) (creel : Bool) (n : Nat) (e : Word) (slot : Option Nat) (old new : Option Loc) : State :=
  match old, new with
  | some old, some new =>
    let s := s.copyPage j creel n e old new
    match slot with
    | some p => s.ownSlots j [p]
    | none => s
  | _, _ => s

/-- A page of a region that moves from where it is to a place that is free, if that is upward and not above the region's
tier: a tier's rank in the order of R437 is its number, the creel first, then HBM, then CXL. -/
def State.migrateTo (s : State) (j : Nat) (creel : Bool) (n : Nat) (e : Word) (r : Region) (place : Option (Nat × Nat)) : State :=
  match place with
  | some (tier, ppn) =>
    if r.fix || decide (entTier e ≤ tier) || decide (tier < r.tier) then s
    else
      let e' := entryOf r tier ppn
      s.copyTo j creel n e' (if tier = 0 then some ppn else none) (s.pageLoc e 0) (s.pageLoc e' 0)
  | none => s

/-- Migrates a page of a job (R439). -/
def State.migrate (s : State) (j page : Nat) (b : Job) : State :=
  let creel := decide (2 ^ 35 ≤ page)
  let n := if creel then page - 2 ^ 35 else page
  let e := if creel then b.creelMap.get n 0 else b.pages.get n 0
  let d := (b.lspnList.map s.hframe).min?.getD 0 / 8
  match b.regionOf page with
  | none => s
  | some (r, i) => s.migrateTo j creel n e r (s.placePage s.used r d i)

/-- PAGE_MIGRATE: a spilled page of a switched-out job moves upward, as far as its requested tier (R435, R439). -/
def execPageMigrate (job page : Nat) (s : State) : Host.Outcome State Fault Refusal :=
  .next (match s.on, s.job? job with
    | true, some b => if b.st = .out then s.migrate job page b else s
    | _, _ => s)

end Sys2Proof.Machine
end

