-- ==== Sys2Proof/Machine/Engines.lean ====
section
/-! DEFINITION. The commands of the engines and of the array limiter: OPERATION_START, KNOT_SIGNAL,
LEVEL_INTERVAL, DRIZZLE_GAP_EXPIRY (R154 to R161, R378 to R380, R505). -/

namespace Sys2Proof.Machine

/-- Whether a job is of the critical class. -/
def State.critical (s : State) (j : Nat) : Bool :=
  match s.job? j with
  | some b => b.crit
  | none => false

/-- The number of an engine in the table of turns (R505). -/
def turnNo : Engine → Nat
  | .array => 0
  | .vector => 1
  | .inReel => 2
  | .outReel => 3
  | .twist => 4

/-- Whether a context has an operation that the engine could start now. -/
def State.startable (s : State) (l : Nat) (e : Engine) (c : Nat) : Bool :=
  (s.pick l c e false).isSome || (s.pick l c e true).isSome

/-- The context whose operation the engine starts next: critical contexts first, and within a class in round robin from the
context after the one it served last (R142, R505). -/
def State.turnOf (s : State) (l : Nat) (e : Engine) : Option Nat :=
  let first := (s.spn l).turns.get (turnNo e) 0
  let cs := ((List.range 4).map fun i => (first + i) % 4).filter (s.startable l e)
  (cs.find? fun c => s.critical (s.ctx l c).job).or cs.head?

/-- The engine has served a context: the next turn starts after it (R505). -/
def State.served (s : State) (l : Nat) (e : Engine) (c : Nat) : State :=
  let x := s.spn l
  s.setSpn l { x with turns := x.turns.set (turnNo e) ((c + 1) % 4) 0 }

/-- OPERATION_START: the engine starts the context's oldest operation that is not held aside, or its oldest held one,
once its captured wait is signalled, its condition holds and the engine is free, where it is the context's turn; the operations
that it passes over are held aside (R378, R379, R505). `us` are the upsets that meet its groups (R516). -/
def execOperationStart (w : Who) (e : Engine) (held : Bool) (us : List Upset) (s : State) : Host.Outcome State Fault Refusal :=
  let l := w.lspn.toNat
  let c := w.ctx.toNat
  .next (match s.on, s.pick l c e held with
    | true, some q => if s.turnOf l e ≠ some c then s else ((s.passOver e q).served l e c).startOp e q us
    | _, _ => s)

/-- KNOT_SIGNAL: the oldest operation that runs on the engine finishes, and a commit that waited for it goes on (R336, R380). -/
def execKnotSignal (w : Who) (e : Engine) (s : State) : Host.Outcome State Fault Refusal :=
  .next (if s.on then (s.finishOp w.lspn.toNat e).closeCommits else s)

/-- DRIZZLE of a captured or current ARITH_CTL (R46). -/
def drizzleOf (v : BitVec 32) : Nat := bitsOf v.toNat 6 2

/-- The limiter's mode in force on a spindle: 0 off, 1 auto, 2 always (R157, R158). OFF_EN is that of the frame the array sits in
(R119). DESIGN CHOICE (log entry 108): where no pass is queued or running and no job context is resident, the mode is auto at all
times; the spec says so for reset only. -/
def State.limMode (s : State) (l : Nat) : Nat :=
  let x := s.spn l
  let passes := (x.arrayQ.filter fun q => q.shape.isSome) ++ (x.running.map fun r => r.2.q).filter fun q => q.shape.isSome
  let least := if (s.frame (s.seatFrame l)).pwrctl.toNat.testBit 0 then 0 else 1
  let ds := passes.map (fun q => drizzleOf q.arith)
    ++ ((x.ctxs.filter fun c => c.2.status ≠ .free).map fun c => drizzleOf c.2.arithCtl)
  if ds = [] then 1 else ds.foldl max least

/-- One interval of the limiter with `work` sixteenths of real work waiting, in a mode (R154 to R157). -/
def Spindle.interval (x : Spindle) (mode work : Nat) : Spindle :=
  if mode = 0 then { x with level := work, falling := false, drizzle := false }
  else if x.level ≤ work then { x with level := min work (x.level + 1), falling := false, drizzle := false }
  else if mode = 2 then { x with falling := false, drizzle := true }
  else if x.falling then
    { x with level := x.level - 1, falling := decide (work < x.level - 1), drizzle := decide (work < x.level - 1) }
  else { x with drizzle := true }

/-- The number of the 125 ns interval of the time counter (R154). -/
def State.levelNo (s : State) : Nat := s.ns / 125

/-- LEVEL_INTERVAL: the level of a spindle's array in a new interval of 125 ns (R154 to R158); it is set once an interval. -/
def execLevelInterval (l : BitVec 8) (work : BitVec 5) (s : State) : Host.Outcome State Fault Refusal :=
  let x := s.spn l.toNat
  .next (if s.on ∧ x.levelAt < s.levelNo then
      s.setSpn l.toNat { x.interval (s.limMode l.toNat) (min work.toNat 16) with levelAt := s.levelNo }
    else s)

/-- DRIZZLE_GAP_EXPIRY: a gap that drizzle fills in mode auto has lasted 512 cycles, and the level begins to fall
(R155). -/
def execDrizzleGapExpiry (l : BitVec 8) (s : State) : Host.Outcome State Fault Refusal :=
  let x := s.spn l.toNat
  .next (if s.on ∧ s.limMode l.toNat = 1 ∧ x.drizzle then s.setSpn l.toNat { x with falling := true } else s)

/-- ARR_LIMSTAT of a spindle (R161). DEDUCED (log entry 109): IDLE takes every operation of the array engine that runs as real work,
ACC.OPEN and ACC.DRAIN too. -/
def State.limstat (s : State) (l : Nat) : Nat :=
  let x := s.spn l
  let bit (v : Bool) (n : Nat) : Nat := if v then 2 ^ n else 0
  x.level + s.limMode l * 2 ^ 8 + bit x.drizzle 10 + bit x.falling 11
    + bit (x.level = 0 && !x.drizzle && !(x.running.any fun r => r.1 = .array)) 12

end Sys2Proof.Machine
end

