-- ==== Sys2Proof/Machine/FabricTime.lean ====
section
/-! DEFINITION. Fabric time (R487 to R489) and the state of the time source. -/

namespace Sys2Proof.Machine

/-- MODE of SKN_TSRC (R487). -/
def State.timeMode (s : State) : Nat := bitsOf s.fabric.tsrc.toNat 30 2

/-- STATE of SKN_TSRC. -/
def State.timeState (s : State) : Nat := bitsOf s.fabric.tsrc.toNat 28 2

/-- DIST of SKN_TSRC. -/
def State.dist (s : State) : Nat := bitsOf s.fabric.tsrc.toNat 16 8

/-- PLINK of SKN_TSRC. -/
def State.plink (s : State) : Nat := bitsOf s.fabric.tsrc.toNat 8 6

/-- The module acts as a root: its PTP is locked, in mode auto or root (R487). -/
def State.isRoot (s : State) : Bool := s.time.locked && (s.timeMode = 0 || s.timeMode = 1)

/-- The module takes fabric time (R487). -/
def State.takesFabric (s : State) : Bool := s.timeMode = 2 || (s.timeMode = 0 && !s.time.locked)

/-- Writes STATE, DIST and PLINK; a new STATE is recorded (R487, R546). -/
def State.setSource (s : State) (st dist plink : Nat) : State :=
  let old := s.timeState
  let s := { s with fabric := { s.fabric with
    tsrc := BitVec.ofNat 32 (s.timeMode * 2 ^ 30 + st * 2 ^ 28 + dist % 256 * 2 ^ 16 + plink * 2 ^ 8) } }
  if st = old then s else s.baroWrite 0x0C 1 true [codeW 0 st 0]

/-- The links that advertise a root: number and DIST (R488, R489). -/
def State.advertised (s : State) : List (Nat × Nat) :=
  (List.range 48).filterMap fun n =>
    let l := s.link n
    if l.up then l.sync.bind fun x => if x.1 < 255 then some (n, x.1) else none else none

/-- The parent link: the smallest DIST, a tie to the lower number (R488). -/
def State.parent (s : State) : Option (Nat × Nat) :=
  s.advertised.foldl (fun (o : Option (Nat × Nat)) x => match o with
    | some p => if x.2 < p.2 then some x else some p
    | none => some x) none

/-- The source settled anew after a change of MODE or of the PTP lock (R487 to R489): free run; as root by PTP; or fabric
time. -/
def State.settleSource (s : State) : State :=
  if s.timeMode = 3 then s.setSource 0 255 0
  else if s.isRoot then s.setSource 1 0 0
  else if s.timeMode = 1 then (if s.timeState = 0 then s.setSource 0 255 0 else s.setSource 2 255 0)
  else match s.parent with
    | some p => s.setSource 1 (min 255 (p.2 + 1)) p.1
    | none => if s.timeState = 0 then s.setSource 0 255 0 else s.setSource 2 255 s.plink

/-- The frequency that a servo sets, within ±1,000 ppm: a counter that runs ahead is slowed, one that lags goes faster, each by an amount
that the spec does not state (R570, R488; log entry 31). -/
def servoFreq (free : Nat) (old : BitVec 32) (offset : Int) : BitVec 32 :=
  let d : Int := 1 + ((Config.freeBits free).toNat % (2 * 4294967) : Nat)
  BitVec.ofInt 32 (if 0 < offset then max (-4294967) (old.toInt - d) else min 4294967 (old.toInt + d))

/-- The servo slews the counter unless the offset is zero; `offset` is how far it runs ahead. -/
def State.slew (s : State) (offset : Int) : State :=
  if offset = 0 then s
  else { s with time := { s.time with freq := servoFreq s.free s.time.freq offset }, free := s.free + 1 }

/-- The difference of two times of 56 bits, signed. -/
def diff56 (a b : Nat) : Int := (BitVec.ofNat 56 a - BitVec.ofNat 56 b).toInt

/-- A fabric SYNC on a link (R488). -/
def State.recvSync (s : State) (n : Nat) (tag : Word) : State :=
  let l := s.link n
  if !l.up then s
  else
    let late := diff56 s.ns (tag.toNat % 2 ^ 56)
    let s := s.setLink n { l with sync := some (bitsOf tag.toNat 56 8, late) }
    if !s.takesFabric then s
    else match s.parent with
      | none => s
      | some p =>
        let s := s.setSource 1 (min 255 (p.2 + 1)) p.1
        if p.1 = n then s.slew (late - (l.delay : Int)) else s

/-- FABRIC_SYNC (R488). -/
def execFabricSync (link : BitVec 6) (tag : Word) (s : State) : Host.Outcome State Fault Refusal :=
  .next (if s.on then s.recvSync link.toNat tag else s)

/-- A packet of the time class for the neighbour on a link (R469, R488). -/
def State.timePacket (s : State) (n type tag : Nat) : State :=
  s.sendOn n { dst := BitVec.ofNat 14 (bitsOf (s.link n).lstat.toNat 10 14), tc := 0, type := type, tag := tag }

/-- FABRIC_SYNC_SEND: a SYNC on each UP link with DIST and the counter's value (R488). -/
def execFabricSyncSend (s : State) : Host.Outcome State Fault Refusal :=
  .next (if !s.on then s
    else ((List.range 48).filter fun n => (s.link n).up).foldl
      (fun t n => t.timePacket n 0 (s.dist * 2 ^ 56 + s.ns % 2 ^ 56)) s)

/-- DELAY_MEASURE: a DELAY_REQ on the parent link (R488). -/
def execDelayMeasure (s : State) : Host.Outcome State Fault Refusal :=
  .next (if !s.on || !s.takesFabric then s
    else match s.parent with
      | some p => (s.setLink p.1 { s.link p.1 with reqAt := s.ns }).timePacket p.1 1 s.ns
      | none => s)

/-- A DELAY_REQ on a link is answered with the time of its arrival (R488). -/
def State.recvDelayReq (s : State) (n : Nat) (_tag : Word) : State :=
  if (s.link n).up then s.timePacket n 2 s.ns else s

/-- DELAY_REQ (R488). -/
def execDelayReq (link : BitVec 6) (tag : Word) (s : State) : Host.Outcome State Fault Refusal :=
  .next (if s.on then s.recvDelayReq link.toNat tag else s)

/-- A DELAY_RESP gives the delay of the link, taken to be the same both ways (R488): half of what the SYNC was late and the
request late on the other side. -/
def State.recvDelayResp (s : State) (n : Nat) (tag : Word) : State :=
  let l := s.link n
  match l.sync with
  | some x => if l.up then s.setLink n { l with delay := ((x.2 + diff56 tag.toNat l.reqAt) / 2).toNat } else s
  | none => s

/-- DELAY_RESP (R488). -/
def execDelayResp (link : BitVec 6) (tag : Word) (s : State) : Host.Outcome State Fault Refusal :=
  .next (if s.on then s.recvDelayResp link.toNat tag else s)

/-- FABRIC_HOLDOVER: no link advertises a root; the frequency stays (R489). -/
def execFabricHoldover (s : State) : Host.Outcome State Fault Refusal :=
  .next (if s.on && s.takesFabric && s.timeState = 1 && s.parent.isNone then s.setSource 2 255 s.plink else s)

end Sys2Proof.Machine
end

