-- ==== Sys2Proof/Machine/Scalar.lean ====
section
/-! DEFINITION. The scalar instructions of the controller (R400): arithmetic on s and a, loads and stores of the bobbin,
comparisons and predicates. -/

namespace Sys2Proof.Machine

/-- The context with a scalar register written; s0 ignores writes (R371). -/
def Ctx.setS (x : Ctx) (n : Nat) (v : Word) : Ctx := if n = 0 then x else { x with s := x.s.set n v 0 }

/-- An address register (R371). -/
def Ctx.areg (x : Ctx) (n : Nat) : DevAddr := x.a.get n 0

/-- The context with an address register written. -/
def Ctx.setA (x : Ctx) (n : Nat) (v : DevAddr) : Ctx := { x with a := x.a.set n v 0 }

/-- The context with a predicate written; p0 ignores writes (R371). -/
def Ctx.setP (x : Ctx) (n : Nat) (v : Bool) : Ctx :=
  let m : BitVec 8 := 1#8 <<< n
  if n = 0 then x else { x with p := (x.p &&& ~~~m) ||| (if v then m else 0) }

/-- An instruction whose whole effect is on its own context. -/
def State.scalar (s : State) (w : Who) (word : Word) (bad : Bool) (eff : Ctx → Ctx) :
    Host.Outcome State Fault Refusal :=
  .next (s.controller w word bad fun _ x => s.setWho w (eff x).next)

/-- The low 37 bits of IMM of an operation without an immediate are not zero (R400). -/
def immUsed (f : SForm) : Bool := f.imm.extractLsb' 0 37 != 0

/-- A two-operand ALU operation: s[DST] = op s[SRC1] s[SRC2] (R400). -/
def State.alu2 (s : State) (w : Who) (f : SForm) (n : Nat) (op : Word → Word → Word) :
    Host.Outcome State Fault Refusal :=
  s.scalar w (sWord 1 (f.func n)) (immUsed f) fun x =>
    x.setS f.dst.toNat (op (x.sreg f.src1.toNat) (x.sreg f.src2.toNat))

/-- A one-operand ALU operation (R400). -/
def State.alu1 (s : State) (w : Who) (f : SForm) (n : Nat) (op : Word → Word) : Host.Outcome State Fault Refusal :=
  s.scalar w (sWord 1 (f.func n)) (f.src2 != 0 || immUsed f) fun x => x.setS f.dst.toNat (op (x.sreg f.src1.toNat))

/-- A comparison of two scalars into a predicate (R400). -/
def State.cmpp (s : State) (w : Who) (f : SForm) (n : Nat) (op : Word → Word → Bool) :
    Host.Outcome State Fault Refusal :=
  s.scalar w (sWord 7 (f.func n)) (decide (8 ≤ f.dst.toNat) || immUsed f) fun x =>
    x.setP f.dst.toNat (op (x.sreg f.src1.toNat) (x.sreg f.src2.toNat))

/-- The number of leading zeros (R400). -/
def clz (v : Word) : Nat := if v = 0 then 64 else 63 - Nat.log2 v.toNat

/-- The number of set bits (R400). -/
def popc (v : Word) : Nat := ((List.range 64).filter v.toNat.testBit).length

/-- The bobbin-window offset of LD and ST (R400). -/
def memOff (x : Ctx) (f : SForm) : Nat :=
  ((x.areg f.src1.toNat + f.imm.signExtend 57).toNat % 10485760) / 8 * 8

/-- The key of the 8 bytes that LD and ST reach; none outside the partition (R430). -/
def State.memKey (s : State) (w : Who) (x : Ctx) (f : SForm) : Option Nat :=
  (bobbinOff x w.ctx.toNat (memOff x f)).map (s.bobbinKey w.lspn.toNat)

/-- ADD (R400). -/
def execAluAdd (w : Who) (f : SForm) (s : State) : Host.Outcome State Fault Refusal :=
  s.alu2 w f 0 fun a b => a + b

/-- SUB (R400). -/
def execAluSub (w : Who) (f : SForm) (s : State) : Host.Outcome State Fault Refusal :=
  s.alu2 w f 1 fun a b => a - b

/-- AND (R400). -/
def execAluAnd (w : Who) (f : SForm) (s : State) : Host.Outcome State Fault Refusal :=
  s.alu2 w f 2 fun a b => a &&& b

/-- OR (R400). -/
def execAluOr (w : Who) (f : SForm) (s : State) : Host.Outcome State Fault Refusal :=
  s.alu2 w f 3 fun a b => a ||| b

/-- XOR (R400). -/
def execAluXor (w : Who) (f : SForm) (s : State) : Host.Outcome State Fault Refusal :=
  s.alu2 w f 4 fun a b => a ^^^ b

/-- SLL: by s[SRC2][5:0] (R400). -/
def execAluSll (w : Who) (f : SForm) (s : State) : Host.Outcome State Fault Refusal :=
  s.alu2 w f 5 fun a b => a <<< (b.toNat % 64)

/-- SRL: by s[SRC2][5:0] (R400). -/
def execAluSrl (w : Who) (f : SForm) (s : State) : Host.Outcome State Fault Refusal :=
  s.alu2 w f 6 fun a b => a >>> (b.toNat % 64)

/-- SRA: by s[SRC2][5:0] (R400). -/
def execAluSra (w : Who) (f : SForm) (s : State) : Host.Outcome State Fault Refusal :=
  s.alu2 w f 7 fun a b => a.sshiftRight (b.toNat % 64)

/-- MIN, signed (R400). -/
def execAluMin (w : Who) (f : SForm) (s : State) : Host.Outcome State Fault Refusal :=
  s.alu2 w f 8 fun a b => if a.slt b then a else b

/-- MAX, signed (R400). -/
def execAluMax (w : Who) (f : SForm) (s : State) : Host.Outcome State Fault Refusal :=
  s.alu2 w f 9 fun a b => if a.slt b then b else a

/-- MINU (R400). -/
def execAluMinu (w : Who) (f : SForm) (s : State) : Host.Outcome State Fault Refusal :=
  s.alu2 w f 10 fun a b => if a.ult b then a else b

/-- MAXU (R400). -/
def execAluMaxu (w : Who) (f : SForm) (s : State) : Host.Outcome State Fault Refusal :=
  s.alu2 w f 11 fun a b => if a.ult b then b else a

/-- SLT (R400). -/
def execAluSlt (w : Who) (f : SForm) (s : State) : Host.Outcome State Fault Refusal :=
  s.alu2 w f 12 fun a b => if a.slt b then 1 else 0

/-- SLTU (R400). -/
def execAluSltu (w : Who) (f : SForm) (s : State) : Host.Outcome State Fault Refusal :=
  s.alu2 w f 13 fun a b => if a.ult b then 1 else 0

/-- CLZ (R400). -/
def execAluClz (w : Who) (f : SForm) (s : State) : Host.Outcome State Fault Refusal :=
  s.alu1 w f 14 fun a => BitVec.ofNat 64 (clz a)

/-- POPC (R400). -/
def execAluPopc (w : Who) (f : SForm) (s : State) : Host.Outcome State Fault Refusal :=
  s.alu1 w f 15 fun a => BitVec.ofNat 64 (popc a)

/-- ADDI (R400). -/
def execAddi (w : Who) (f : SForm) (s : State) : Host.Outcome State Fault Refusal :=
  s.scalar w (sWord 2 f) (f.src2 != 0) fun x => x.setS f.dst.toNat (x.sreg f.src1.toNat + f.imm.signExtend 64)

/-- LIH (R400). -/
def execLih (w : Who) (f : SForm) (s : State) : Host.Outcome State Fault Refusal :=
  s.scalar w (sWord 3 f) (f.src2 != 0 || f.imm.extractLsb' 21 22 != 0) fun x =>
    x.setS f.dst.toNat (f.imm.extractLsb' 0 21 ++ (x.sreg f.src1.toNat).extractLsb' 0 43)

/-- LD: 8 bytes of the bobbin, zero outside the partition (R400, R430). -/
def execLd (w : Who) (f : SForm) (s : State) : Host.Outcome State Fault Refusal :=
  s.scalar w (sWord 4 f) (decide (16 ≤ f.src1.toNat) || f.src2 != 0) fun x =>
    x.setS f.dst.toNat (match s.memKey w x f with
      | some k => BitVec.ofNat 64 (s.natAt k 8)
      | none => 0)

/-- ST: 8 bytes of the bobbin, ignored outside the partition (R400, R430). -/
def execSt (w : Who) (f : SForm) (s : State) : Host.Outcome State Fault Refusal :=
  .next (s.controller w (sWord 5 f) (decide (16 ≤ f.src1.toNat) || f.dst != 0) fun _ x =>
    let t := s.setWho w x.next
    match s.memKey w x f with
    | some k => t.putAt k (leBytes 8 (x.sreg f.src2.toNat).toNat)
    | none => t)

/-- AADD (R400). -/
def execAadd (w : Who) (f : SForm) (s : State) : Host.Outcome State Fault Refusal :=
  s.scalar w (sWord 6 (f.func 0)) (decide (16 ≤ f.dst.toNat) || decide (16 ≤ f.src1.toNat)) fun x =>
    x.setA f.dst.toNat (x.areg f.src1.toNat + (x.sreg f.src2.toNat).truncate 57 + (f.imm.extractLsb' 0 37).signExtend 57)

/-- AMOV (R400). -/
def execAmov (w : Who) (f : SForm) (s : State) : Host.Outcome State Fault Refusal :=
  s.scalar w (sWord 6 (f.func 1)) (decide (16 ≤ f.dst.toNat) || f.src2 != 0) fun x =>
    x.setA f.dst.toNat ((x.sreg f.src1.toNat).truncate 57 + (f.imm.extractLsb' 0 37).signExtend 57)

/-- AGET (R400). -/
def execAget (w : Who) (f : SForm) (s : State) : Host.Outcome State Fault Refusal :=
  s.scalar w (sWord 6 (f.func 2)) (decide (16 ≤ f.src1.toNat) || f.src2 != 0 || immUsed f) fun x =>
    x.setS f.dst.toNat ((x.areg f.src1.toNat).zeroExtend 64)

/-- CMPP.EQ (R400). -/
def execCmppEq (w : Who) (f : SForm) (s : State) : Host.Outcome State Fault Refusal :=
  s.cmpp w f 0 fun a b => a == b

/-- CMPP.NE (R400). -/
def execCmppNe (w : Who) (f : SForm) (s : State) : Host.Outcome State Fault Refusal :=
  s.cmpp w f 1 fun a b => a != b

/-- CMPP.LT, signed (R400). -/
def execCmppLt (w : Who) (f : SForm) (s : State) : Host.Outcome State Fault Refusal :=
  s.cmpp w f 2 fun a b => a.slt b

/-- CMPP.LTU (R400). -/
def execCmppLtu (w : Who) (f : SForm) (s : State) : Host.Outcome State Fault Refusal :=
  s.cmpp w f 3 fun a b => a.ult b

/-- CMPP.LE, signed (R400). -/
def execCmppLe (w : Who) (f : SForm) (s : State) : Host.Outcome State Fault Refusal :=
  s.cmpp w f 4 fun a b => a.sle b

/-- CMPP.LEU (R400). -/
def execCmppLeu (w : Who) (f : SForm) (s : State) : Host.Outcome State Fault Refusal :=
  s.cmpp w f 5 fun a b => a.ule b

/-- PAND (R400). -/
def execPand (w : Who) (f : SForm) (s : State) : Host.Outcome State Fault Refusal :=
  s.scalar w (sWord 7 (f.func 6)) (decide (8 ≤ f.dst.toNat) || decide (8 ≤ f.src1.toNat) || decide (8 ≤ f.src2.toNat)
      || immUsed f) fun x => x.setP f.dst.toNat (x.pred f.src1.toNat && x.pred f.src2.toNat)

/-- POR (R400). -/
def execPor (w : Who) (f : SForm) (s : State) : Host.Outcome State Fault Refusal :=
  s.scalar w (sWord 7 (f.func 7)) (decide (8 ≤ f.dst.toNat) || decide (8 ≤ f.src1.toNat) || decide (8 ≤ f.src2.toNat)
      || immUsed f) fun x => x.setP f.dst.toNat (x.pred f.src1.toNat || x.pred f.src2.toNat)

/-- PNOT (R400). -/
def execPnot (w : Who) (f : SForm) (s : State) : Host.Outcome State Fault Refusal :=
  s.scalar w (sWord 7 (f.func 8)) (decide (8 ≤ f.dst.toNat) || decide (8 ≤ f.src1.toNat) || f.src2 != 0 || immUsed f)
    fun x => x.setP f.dst.toNat (!x.pred f.src1.toNat)

end Sys2Proof.Machine
end

