-- ==== Sys2Proof/Machine/Sync.lean ====
section
/-! DEFINITION. Knot instructions and step boundaries (R383, R392, R402), context registers (R372) and SYS.END (R394). -/

namespace Sys2Proof.Machine

/-- The knots that a mask names, ascending (R383). -/
def maskKnots (m : Word) : List Nat := (List.range 64).filter m.toNat.testBit

/-- SYNC.KWAIT (R383). -/
def execSyncKwait (w : Who) (f : SForm) (s : State) : Host.Outcome State Fault Refusal :=
  .next (s.controller w (sWord 0x21 (f.func 0)) (f.dst != 0 || f.src2 != 0 || immUsed f) fun _ x =>
    if (maskKnots (x.sreg f.src1.toNat)).any fun k => (x.knot k).pending then s else s.setWho w x.next)

/-- SYNC.KJOIN (R383). -/
def execSyncKjoin (w : Who) (f : SForm) (s : State) : Host.Outcome State Fault Refusal :=
  .next (s.controller w (sWord 0x21 (f.func 1)) (f.dst != 0 || f.src2 != 0 || f.imm.extractLsb' 6 31 != 0) fun _ x =>
    let k := (f.imm.extractLsb' 0 6).toNat
    if (x.knot k).pending then s
    else
      let y := x.armKnot k
      let j : Join := { kout := k, arm := (y.knot k).arm, waits := (maskKnots (x.sreg f.src1.toNat)).map x.capture }
      let t := s.setWho w { y with joins := y.joins ++ [j] }.next
      t.settleJoins w.lspn.toNat w.ctx.toNat (y.joins.length + 1))

/-- SYNC.KREAD (R383). -/
def execSyncKread (w : Who) (f : SForm) (s : State) : Host.Outcome State Fault Refusal :=
  .next (s.controller w (sWord 0x21 (f.func 2)) (f.src1 != 0 || f.src2 != 0 || f.imm.extractLsb' 6 31 != 0) fun _ x =>
    let k := x.knot (f.imm.extractLsb' 0 6).toNat
    if k.pending then s else s.setWho w (x.setS f.dst.toNat (k.code.zeroExtend 64)).next)

/-- A field of an S-format word is used where the operation has none (R400). -/
def anyUsed (f : SForm) : Bool := f.dst != 0 || f.src1 != 0 || f.src2 != 0 || immUsed f

/-- SYNC.FENCE (R383). -/
def execSyncFence (w : Who) (f : SForm) (s : State) : Host.Outcome State Fault Refusal :=
  .next (s.controller w (sWord 0x21 (f.func 3)) (anyUsed f) fun _ x =>
    if (s.spn w.lspn.toNat).busy w.ctx.toNat then s else s.setWho w x.next)

/-- SYNC.STEP: the fence, STEP_OPEN in a job that commits in steps, then the context waits for the commit or the
boundary (R392). -/
def execSyncStep (w : Who) (f : SForm) (s : State) : Host.Outcome State Fault Refusal :=
  .next (s.controller w (sWord 0x21 (f.func 4)) (anyUsed f) fun b x =>
    if (s.spn w.lspn.toNat).busy w.ctx.toNat then s
    else if b.steps && x.tiles.any fun t => t.2.st ≠ .closed then
      (s.ctlFault w 4 (sWord 0x21 (f.func 4))).reap
    else s.setWho w { x.next with status := .atStep })

/-- What a program reads in a context register (R372). -/
def State.ctxRead (s : State) (w : Who) (x : Ctx) (n : Nat) : Word :=
  match n with
  | 0 => x.arithCtl.zeroExtend 64
  | 1 => x.arithFlags.zeroExtend 64
  | 2 => x.qzCtl.zeroExtend 64
  | 3 => x.qzFlags.zeroExtend 64
  | 4 => x.updCtl.zeroExtend 64
  | 5 => x.updFlags.zeroExtend 64
  | 6 => BitVec.ofNat 64 (x.quotaUsed * 2 ^ 16 + x.quota.toNat)
  | 7 => x.seed.zeroExtend 64
  | 8 => x.step
  | 9 =>
    let role := match x.role with
      | .none => 0
      | .teacher => 1
      | .student => 2
    BitVec.ofNat 64 (x.jslot.toNat * 2 ^ 24 + role * 2 ^ 20 + w.ctx.toNat * 2 ^ 18 + s.hframe w.lspn.toNat * 2 ^ 13 + w.lspn.toNat)
  | _ => 0

/-- A program's write to a context register (R372, R355): read-only ones ignore it; a new TWS_STEP restarts the
operation ordinals (R352, R353). -/
def Ctx.write (x : Ctx) (steps : Bool) (n : Nat) (v : Word) : Ctx :=
  match n with
  | 0 => { x with arithCtl := BitVec.ofNat 32 (putFields arithFields v.toNat x.arithCtl.toNat) }
  | 1 => { x with arithFlags := w1c x.arithFlags (v.truncate 32) 0x3F }
  | 2 => { x with qzCtl := BitVec.ofNat 32 (putFields qzFields v.toNat x.qzCtl.toNat) }
  | 3 => { x with qzFlags := w1c x.qzFlags (v.truncate 32) 3 }
  | 4 => { x with updCtl := BitVec.ofNat 32 (putFields updFields v.toNat x.updCtl.toNat) }
  | 5 => { x with updFlags := w1c x.updFlags (v.truncate 32) 3 }
  | 8 => if steps || v = x.step then x else { x with step := v, veOrd := 0, bufDrains := 0 }
  | _ => x

/-- The context register number of SYS.RD and SYS.WR (R402). -/
def ctxNum (f : SForm) : Nat := (f.imm.extractLsb' 0 8).toNat

/-- SYS.RD (R372, R402). -/
def execSysRd (w : Who) (f : SForm) (s : State) : Host.Outcome State Fault Refusal :=
  s.scalar w (sWord 0x22 (f.func 0))
    (f.src1 != 0 || f.src2 != 0 || f.imm.extractLsb' 8 29 != 0 || decide (9 < ctxNum f)) fun x =>
    x.setS f.dst.toNat (s.ctxRead w x (ctxNum f))

/-- SYS.WR (R372, R402). -/
def execSysWr (w : Who) (f : SForm) (s : State) : Host.Outcome State Fault Refusal :=
  .next (s.controller w (sWord 0x22 (f.func 1))
    (f.dst != 0 || f.src2 != 0 || f.imm.extractLsb' 8 29 != 0 || decide (9 < ctxNum f)) fun b x =>
    s.setWho w (x.write b.steps (ctxNum f) (x.sreg f.src1.toNat)).next)

/-- The context has an operation that has not signalled, released UPD operations included (R394). -/
def Spindle.busyAll (x : Spindle) (c : Nat) : Bool :=
  (x.running.any fun r => r.2.q.ctx = c) || (x.queued.any fun q => q.ctx = c)

/-- SYS.END: after its fence the context ends; the last context of a job that commits in steps ends the job; the
final boundary ends any other (R394, R522). -/
def execSysEnd (w : Who) (f : SForm) (s : State) : Host.Outcome State Fault Refusal :=
  .next (s.controller w (sWord 0x22 (f.func 2)) (anyUsed f) fun b x =>
    if (s.spn w.lspn.toNat).busyAll w.ctx.toNat then s
    else
      let t := s.setWho w { x.next with status := .ended }
      if b.steps && (t.ctxsOf x.job).all fun c => c.2.2.status = .ended then (t.endJob x.job 0).reap else t)

/-- SYS.NOP (R402). -/
def execSysNop (w : Who) (f : SForm) (s : State) : Host.Outcome State Fault Refusal :=
  s.scalar w (sWord 0x22 (f.func 3)) (anyUsed f) id

end Sys2Proof.Machine
end

