-- ==== Sys2Proof/Machine/Registers.lean ====
section
/-! DEFINITION. The registers that messages, the host and the mill name: what a read returns and what a write does, by the
access codes of R12 to R17 (R108, R109, R160, R161, R296, R297, R390, R431, R460 to R464, R487, R494, R495, R535 to R539,
R549, R554, R561, R562, R565, R566, R570 to R572, R579, R580, R588). -/

namespace Sys2Proof.Machine

/-- The oldest SEQ of a ring, or the next one where it holds none (R549). -/
def Baro.oldest (b : Baro) (ring : List Rec) : Word :=
  match ring with
  | r :: _ => r.seq
  | [] => b.next

/-- PB_WEAR of a word of the bank (R554). -/
def State.wearReg (s : State) (w : Nat) : Word :=
  let r := bankRegion (8 * w)
  BitVec.ofNat 64 ((if s.worn w then 2 ^ 63 else 0) + r * 2 ^ 60 + min (s.wearOf w) (endurance r) % 2 ^ 32)

/-- MGT_I3C (R565). -/
def Sec.i3c (x : Sec) : Word := BitVec.ofNat 64 (x.da.toNat * 2 ^ 49 + x.pid.toNat)

/-- The bytes that a register holds, lowest first, in its own width. -/
def State.regBytes (s : State) (r : Reg) : List Byte :=
  let w4 (v : BitVec 32) : List Byte := leBytes 4 v.toNat
  let w8 (v : Word) : List Byte := leBytes 8 v.toNat
  match r with
  | .millSpmap n => w4 (s.spmap n.toNat)
  | .millSite p => w4 (s.site p.toNat)
  | .millSitet p => leBytes 8 (s.lastPass p.toNat)
  | .millRstat n => w8 (if n = 0 then s.mill.rstat0 else if n = 1 then s.mill.rstat1 else s.mill.rstat2)
  | .millSpot => w4 ((s.wp 1).truncate 32)
  | .millTwcfg => w4 ((s.wp 2).truncate 32)
  | .millRcfg => w4 ((s.wp 3).truncate 32)
  | .frmPwrctl f => w4 (s.frame f.toNat).pwrctl
  | .frmShctl f => w4 (s.frame f.toNat).shctl
  | .frmShptr f => w4 ((s.frame f.toNat).prod ++ (s.frame f.toNat).freed)
  | .frmShtake f => w4 ((s.frame f.toNat).taken ++ (s.frame f.toNat).stall)
  | .frmDvfs f => w4 (s.frame f.toNat).dvfs
  | .arrLimstat l => leBytes 4 (s.limstat l.toNat)
  | .spnBpart w => leBytes 8 ((s.who w).bpSize.toNat * 2 ^ 16 + (s.who w).bpBase.toNat)
  | .spnCfault w => w8 (s.who w).cfault
  | .spnCfinst w => w8 (s.who w).cfinst
  | .jobCnt c => w8 (s.mill.cnt.get c.toNat 0)
  | .jobRcfg f => w8 (s.fn f.toNat).rcfg
  | .jobRbase f => w8 (s.fn f.toNat).rbase
  | .jobCbase f => w8 (s.fn f.toNat).cbase
  | .sknLcfg => w4 s.fabric.lcfg
  | .sknCoord => w4 ((s.wp 0).truncate 32)
  | .sknCinuse => w4 s.fabric.cinuse
  | .sknTsrc => w4 s.fabric.tsrc
  | .sknLstat l => w4 (s.link l.toNat).lstat
  | .sknLerr l => w8 (s.link l.toNat).lerr
  | .mgtNetcfg => w8 (s.wp 4)
  | .mgtI3c => w8 s.sec.i3c
  | .secStat => w4 s.sec.stat
  | .secMeas n => leBytes 64 (s.sec.meas.get n.toNat 0).toNat
  | .timeNow => leBytes 8 s.ns
  | .timeAdj => w4 s.time.freq
  | .timeOffs => w8 s.time.offs
  | .timePpsin => w8 s.time.ppsin
  | .timeCtl => w4 ((s.wp 5).truncate 32)
  | .timeCmp u => w8 (s.time.cmp.get u.toNat 0)
  | .timeCmpctl => w4 s.time.cmpctl
  | .baroNext => w8 s.baro.next
  | .baroOldp => w8 (s.baro.oldest s.baro.pring)
  | .baroOldx => w8 (s.baro.oldest s.baro.xring)
  | .baroSize => leBytes 4 s.baro.size.toNat
  | .pbWear n => w8 (s.wearReg n.toNat)
  | .pwrStat => w8 s.power.stat
  | .pwrSave n => leBytes 8 (s.bank (saveBase + 8 * n.toNat) 8)
  | .ctxReg w n => w8 (s.ctxRead w (s.who w) n.toNat)

end Sys2Proof.Machine

namespace Sys2Proof

/-- The registers that the manual makes readable by an authenticated session (R568; log entry 42). -/
def Reg.readable : Reg → Bool
  | .millSpmap _ | .millSite _ | .millSitet _ | .millRstat _ | .millRcfg | .arrLimstat _ | .spnBpart _ | .spnCfault _
  | .spnCfinst _ | .jobCnt _ | .sknLstat _ | .baroNext | .baroOldp | .baroOldx | .baroSize | .pbWear _ | .pwrStat
  | .pwrSave _ | .frmDvfs _ | .secMeas _ | .secStat | .sknLerr _ | .mgtI3c => true
  | _ => false

/-- The fields of a WP register and its word of WPREG (R464, R535, R538, R539, R553, R566, R571). -/
def Reg.wpFields : Reg → Option (Nat × List Machine.Fld)
  | .sknCoord => some (0, [Machine.fld 28 1, Machine.fld 25 3, Machine.fld 22 3, Machine.fld 18 4, Machine.fld 14 4, Machine.fld 0 14])
  | .millSpot => some (1, [⟨16, 16, (· < 60)⟩, ⟨8, 8, (· = 0)⟩])
  | .millTwcfg => some (2, [⟨0, 5, fun v => v ≠ 0 ∧ (v < 5 ∨ 20 < v)⟩])
  | .millRcfg => some (3, [⟨12, 4, (· = 0)⟩, ⟨8, 4, (· = 0)⟩, Machine.fld 0 1])
  | .mgtNetcfg => some (4, [Machine.fld 32 32, ⟨24, 8, fun v => v < 8 ∨ 30 < v⟩, Machine.fld 23 1, Machine.fld 22 1])
  | .timeCtl => some (5, [⟨24, 8, (127 < ·)⟩, Machine.fld 23 1, Machine.fld 22 1, Machine.fld 20 2])
  | _ => none

end Sys2Proof

namespace Sys2Proof.Machine

/-- Closes the sessions of a transport, and forgets its challenges (R565 to R567). -/
def State.closeTransport (s : State) (t : Transport) : State :=
  { s with sec := { s.sec with
      sessions := s.sec.sessions.filter (fun x => x.tr ≠ t), chals := s.sec.chals.filter fun x => x.tr ≠ t } }

/-- The bytes of a response, as far as the spec gives its parts (R564, R567). -/
def Out.size : Out → Nat
  | .reply _ _ _ body mac => 12 + body.length + mac.length
  | .chal _ _ _ salt _ => 40 + salt.length
  | .ack _ _ mac _ => 5 + mac.length
  | .spdm _ _ body => 2 + body.length
  | _ => 1

/-- Hands out a response to where the request came from: over I3C an IBI says that it is ready (R565); over Ethernet it goes from UDP port
6,190 to the source's MAC address, IPv4 address and port, in one datagram for each 1,024 bytes (R566). -/
def State.respond (s : State) (p : Peer) (o : Out) : State :=
  match p.tr with
  | .doe => s.emit o
  | .i3c => (s.emit o).emit (.ibi Config.ibiByte)
  | .ethernet => (s.emit (.datagram p.src 6190 ((o.size + 1023) / 1024))).emit o

/-- A write to a register, following its access codes (R12 to R17). None is RESOURCE_HELD (R572, R592). -/
def State.regWrite (s : State) (r : Reg) (v : Word) : Option State :=
  match r.wpFields with
  | some (n, fs) =>
    some (s.setWp n (BitVec.ofNat 64 (putFields fs v.toNat (s.wp n).toNat)))
  | none =>
    match r with
    | .frmPwrctl f => some (s.setFrame f.toNat { s.frame f.toNat with pwrctl := BitVec.ofNat 32 (v.toNat % 2) })
    | .frmShctl f => some (s.setFrame f.toNat
        { s.frame f.toNat with shctl := BitVec.ofNat 32 (putFields [fld 31 1, fld 30 1, fld 16 14, fld 8 8] v.toNat
            (s.frame f.toNat).shctl.toNat) })
    | .jobRbase f => some (s.setFn f.toNat { s.fn f.toNat with rbase := v })
    | .jobCbase f => some (s.setFn f.toNat { s.fn f.toNat with cbase := v })
    | .sknLcfg => some { s with fabric := { s.fabric with
        lcfg := BitVec.ofNat 32 (putFields [fld 8 8, ⟨0, 8, (· = 0)⟩] v.toNat s.fabric.lcfg.toNat) } }
    | .sknTsrc =>
      let t := { s with fabric := { s.fabric with tsrc := BitVec.ofNat 32 (putFields [fld 30 2] v.toNat s.fabric.tsrc.toNat) } }
      some t.settleSource
    | .timeCmp u => if u = 7 then none else some { s with time := { s.time with cmp := s.time.cmp.set u.toNat v 0 } }
    | .timeCmpctl =>
      if v.toNat.testBit 7 then none
      else some { s with time := { s.time with cmpctl := BitVec.ofNat 32 (putFields [fld 0 7] v.toNat s.time.cmpctl.toNat) } }
    | .ctxReg w n => some (match s.job? (s.who w).job with
        | some b => if (s.who w).status = .free then s else s.setWho w ((s.who w).write b.steps n.toNat v)
        | none => s)
    | _ => some s

/-- A register write, with the retirement of the bank page of a WP register whose write fails to verify (R542). A word that
has reached its endurance is not written (R15). -/
def State.regWriteChecked (s : State) (r : Reg) (v : Word) (fails : Bool) : Option State :=
  (s.regWrite r v).map fun t =>
    match r.wpFields with
    | some (n, _) => if fails && s.core0 && !s.worn (wpBase / 8 + n) then t.pageRetire ((wpBase + 8 * n) / 256) else t
    | none => t

/-- REGISTER_WRITE (R12 to R17): a request that is refused with RESOURCE_HELD changes nothing (R592). `fails` says that the
bank's word does not verify (R542). -/
def execRegisterWrite (r : Reg) (v : Word) (fails : Bool) (s : State) : Host.Outcome State Fault Refusal :=
  match r with
  | .jobRcfg f => execJobRcfgWrite f v s
  | r => .next (if s.on then (s.regWriteChecked r v fails).getD s else s)

end Sys2Proof.Machine
end

