-- ==== Sys2Proof/Machine/Boot.lean ====
section
/-! DEFINITION. What a start-up keeps, the identity region's two copies, the checks of a firmware slot, the measurements, and
what core 0 loads from the persistent bank (R547, R552, R556 to R562, R581, R589). -/

namespace Sys2Proof.Machine

/-! ### What a start-up keeps -/

/-- The memory that is not lost: the host's, the CXL expanders', the bank, its mirror and the flash. -/
def keptCell (c : Host.Cell) : Bool :=
  spaceOf c.1 = 0 || spaceOf c.1 = 2 || spaceOf c.1 = 6 || spaceOf c.1 = 7 || spaceOf c.1 = 8

/-- The module as a start-up finds it: everything outside the bank, the flash and the surroundings is at its reset value
(R14, R547, R567, R585; log entry 46). -/
def State.cleared (s : State) (phase : Phase) (reached : Nat) : State :=
  { State.reset with
    pending := s.pending, mem := s.mem.filter keptCell, wear := s.wear, weak := s.weak, out := s.out, free := s.free, spares := s.spares
    poison := s.poison.filter fun u => spaceOf u = 2
    baro := { s.baro with next := 0, xring := [] }
    host := { perst := s.host.perst }
    sec := { draws := s.sec.draws, sids := s.sec.sids, boot := { badFlash := s.sec.boot.badFlash } }
    power := { phase := phase, reached := reached, pwrGood := decide (phase = .starting) } }

/-! ### Writes that core 0 does not make -/

/-- Writes one word of the bank, as the boot ROM and the save domain do (R15, R554). DESIGN CHOICE (log entry 107): R15 has the mill
record a worn word with PB_WEAR, and these writers are not the mill; a word of theirs at its limit keeps its value, and no record
is written. -/
def State.plainWord (s : State) (w v : Nat) : State :=
  if s.worn w then s else ({ s.wearOne w with mem := Mem.setNat s.mem (keyOf 6 (8 * w)) 8 v } : State).verify w v

/-- Writes whole words of the bank from an offset on. -/
def State.plainBytes (s : State) (off : Nat) (bs : List Byte) : State :=
  (List.range ((bs.length + 7) / 8)).foldl (fun s i => s.plainWord (off / 8 + i) (leNat ((bs.drop (8 * i)).take 8))) s

/-! ### The identity region (R555, R556) -/

/-- Whether a copy of the identity region verifies by its DIGEST. -/
def copyOk (bs : List Byte) : Bool := sha512 (bs.take 1880) = (bs.drop 1880).take 64

/-- The state with the two copies `a` and `b` of the identity region mended, by which of them verify (R556). -/
def State.mend (s : State) (a b : List Byte) (okA okB : Bool) : Option State :=
  match okA, okB with
  | true, true => some (if a = b then s else s.putAt (keyOf 7 0) a)
  | true, false => some (s.putAt (keyOf 7 0) a)
  | false, true => some (s.plainBytes 0 b)
  | false, false => none

/-- Compares the two copies and mends the one that does not verify, or the mirror where both verify and differ. None where
neither verifies (R556). -/
def State.reconcile (s : State) : Option State :=
  let a := s.bytesAt (keyOf 6 0) 4096
  let b := s.bytesAt (keyOf 7 0) 4096
  s.mend a b (copyOk a) (copyOk b)

/-- ARB (R555). -/
def State.arb (s : State) : Nat := s.bank 16 8

/-- Writes IDFLAGS, and shows OWNED and REVOKE0 in SEC_STAT (R555, R562; log entry 47). -/
def State.setIdflags (s : State) (v : Nat) : State :=
  let s := s.identityBytes 8 (leBytes 8 v)
  let o : Nat := (if v.testBit 1 then 2 ^ 28 else 0) + (if v.testBit 2 then 2 ^ 27 else 0)
  { s with sec := { s.sec with stat := (s.sec.stat &&& 0xE7FFFFFF) ||| BitVec.ofNat 32 o } }

/-- The SHA-512 of a key's modulus, held as an unsigned little-endian integer (R555). -/
def keyHash (m : BitVec 4096) : List Byte := sha512 (leBytes 512 m.toNat)

/-- A valid vendor root hash: VK1, or VK0 until it is revoked (R558). -/
def State.vendorKey (s : State) (m : BitVec 4096) : Bool :=
  let h := leNat (keyHash m)
  h = Config.vendorRoot1.toNat || (!s.revoke0 && h = Config.vendorRoot0.toNat)

/-- The owner's key (R555). -/
def State.ownerKey (s : State) (m : BitVec 4096) : Bool :=
  s.owned && leNat (keyHash m) = s.bank 24 64

/-! ### Firmware slots (R557 to R560) -/

/-- The flash bytes of a slot. -/
def State.slotBytes (s : State) (slot off n : Nat) : List Byte := s.bytesAt (keyOf 8 (slot * 2 ^ 25 + off)) n

/-- VERSION of a slot's header. -/
def State.slotVersion (s : State) (slot : Nat) : Nat := leNat (s.slotBytes slot 8 8)

/-- The body of a slot. -/
def State.slotBody (s : State) (slot : Nat) : List Byte := s.slotBytes slot 4096 (leNat (s.slotBytes slot 16 8))

/-- The checks of R558 on a slot, in order: 0, or the cause of its failure as SEC_STAT gives it (R562). -/
def State.slotFault (s : State) (slot : Nat) : Nat :=
  let hd := s.slotBytes slot 0 4096
  let f (o n : Nat) : Nat := leNat ((hd.drop o).take n)
  let vpub := BitVec.ofNat 4096 (f 88 512)
  let opub := BitVec.ofNat 4096 (f 1112 512)
  let body := s.slotBody slot
  if slot ∈ s.sec.boot.badFlash then 7
  else if f 0 4 ≠ 0x4C4E4746 ∨ 2 ^ 25 - 4096 < f 16 8 ∨ 1 < f 4 4 ∨ !(hd.drop 2136).all (· = 0) then 1
  else if !s.vendorKey vpub then 2
  else if !pssVerify (f 88 512) (f 600 512) (hd.take 600) then 3
  else if s.owned ∧ (f 4 4 ≠ 1 ∨ !s.ownerKey opub ∨ !pssVerify (f 1112 512) (f 1624 512) (hd.take 1624)) then 4
  else if f 8 8 < s.arb then 5
  else if sha512 body ≠ (hd.drop 24).take 64 then 6
  else if 2 ^ 22 < (Config.component 0 body).length + (Config.component 1 body).length then 1
  else 0

/-- The slot that BOOTPREF names (R552). -/
def State.preferred (s : State) : Nat := s.bank bootPref 8 % 2

/-! ### Measurements (R561) -/

/-- Extends a measurement register by a digest. -/
def State.extend (s : State) (n : Nat) (d : List Byte) : State :=
  let old := s.sec.meas.get n 0
  let new := BitVec.ofNat 512 (leNat (sha512 (leBytes 64 old.toNat ++ d)))
  { s with sec := { s.sec with meas := s.sec.meas.set n new 0 } }

/-- The measurements of a slot that boots (R561; log entry 45). -/
def State.measure (s : State) (slot : Nat) : State :=
  let body := s.slotBody slot
  let s := s.extend 1 (sha512 (s.slotBytes slot 0 4096))
  let s := (List.range 4).foldl (fun s i => s.extend (2 + i) (sha512 (Config.component i body))) s
  let s := s.extend 6 (sha512 (s.bytesAt (keyOf 6 gradeBase) 16384))
  let s := s.extend 7 (sha512 (s.bytesAt (keyOf 6 wpBase) 2048 ++ s.bytesAt (keyOf 6 bindBase) 12288))
  s.extend 8 (sha512 (s.bytesAt (keyOf 6 8) 80 ++ [BitVec.ofNat 8 slot]))

/-- SEC_STAT as the boot ROM leaves it (R562). -/
def State.bootStat (s : State) (slot : Nat) (fallback : Bool) (failA failB : Nat) : State :=
  let b (v : Bool) (n : Nat) : Nat := if v then 2 ^ n else 0
  { s with sec := { s.sec with
      stat := BitVec.ofNat 32 (slot * 2 ^ 30 + b fallback 29 + b s.owned 28 + b s.revoke0 27 + failA * 2 ^ 20 + failB * 2 ^ 16) } }

/-- Recovery (R559). -/
def State.enterRecovery (s : State) : State := { s with power := { s.power with phase := .recovery } }

/-! ### The phases of start-up (R581) -/

/-- A phase is done. -/
def State.reachPhase (s : State) (n : Nat) : State := { s with power := { s.power with reached := n } }

/-- Phase 1: the rails (R573, R581). -/
def State.phase1 (s : State) : State := s.cleared .starting 1

/-- Phase 2 behind the reconciliation: its outcome is the mended state, or none where the identity is lost (R556, R565). -/
def State.afterReconcile (s : State) (o : Option State) : State :=
  match o with
  | some s =>
    let pid := BitVec.ofNat 48 (Config.mipiId.toNat * 2 ^ 33 + s.bank 0 4)
    ({ s with sec := { s.sec with pid := pid } }).reachPhase 2
  | none => (({ s with sec := { s.sec with identityLost := true } }).bootStat 2 false 0 0).enterRecovery.emit .identityLost

/-- Phase 2: the ROM measures itself, reconciles the identity region, and draws the debug nonce (R556, R558, R565, R569). -/
def State.phase2 (s : State) : State :=
  let s := s.extend 0 (leBytes 64 Config.romDigest.toNat)
  let d := s.draw
  let s := d.2
  let s := { s with sec := { s.sec with nonce := d.1.truncate 64 } }
  s.afterReconcile s.reconcile

/-- The certificate area's leaf carries ID_PUB (R564). -/
def State.certMatches (s : State) : Bool :=
  s.prov && (Config.leafKey (s.bytesAt (keyOf 8 0x04000000) 65536)).toNat = s.bank 88 512

/-- The body is in the boot buffer, and the ROM moves the mill firmware and the hub code into the command cores' memories (R558). -/
def State.loadBody (s : State) (slot : Nat) : State :=
  let body := s.slotBody slot
  { s with sec := { s.sec with boot := { s.sec.boot with
      buffer := body, firmware := Config.component 0 body, hubCode := Config.component 1 body } } }

/-- Core 0 moves the spot-test program and the table images out of the boot buffer (R558). -/
def State.loadTables (s : State) : State :=
  let x := s.sec.boot
  { s with sec := { s.sec with boot := { x with
      spotProg := Config.component 2 x.buffer, tables := Config.component 3 x.buffer } } }

/-- A slot boots (R558 steps 6 and 7, R561, R564). -/
def State.bootSlot (s : State) (slot : Nat) (fallback : Bool) (failA failB : Nat) : State :=
  let s := ((s.loadBody slot).bootStat slot fallback failA failB).measure slot
  let v := BitVec.ofNat 64 (s.slotVersion slot)
  ({ s with sec := { s.sec with version := v, certOk := s.certMatches } }).reachPhase 3

/-- Phase 3: the slot that BOOTPREF names, else the other, else recovery (R558). -/
def State.phase3 (s : State) : State :=
  let p := s.preferred
  let c := s.slotFault p
  let failA (p c d : Nat) : Nat := if p = 0 then c else d
  if c = 0 then s.bootSlot p false 0 0
  else
    let d := s.slotFault (1 - p)
    if d = 0 then s.bootSlot (1 - p) true (failA p c 0) (failA p 0 c)
    else (s.bootStat 2 true (failA p c d) (failA p d c)).enterRecovery

/-- The locator words of the repair list (R552). -/
def State.repairs (s : State) : List Nat :=
  ((List.range 1883).map fun i => s.bank (repairBase + 8 * i) 8).filter (· ≠ 0)

/-- Whether the repair list retires a part. -/
def State.retiredPart (s : State) (k : LocKind) (v : Nat) : Bool := (locW k v).toNat ∈ s.repairs

/-- How many logical spindles the module's grade has (R105, R108, R552). -/
def State.gradeCount (s : State) : Nat := ((List.range 32).map (frameCount (s.bank gradeBase 1))).sum

/-- Loads the retired creel slots of a frame (R454, R552). -/
def State.loadSlots (s : State) (f : Nat) : State :=
  let dead := ((List.range 16).map fun n => if s.retiredPart .slot (f * 16 + n) then 2 ^ n else 0).sum
  s.setFrame f { s.frame f with retired := BitVec.ofNat 16 dead }

/-- MILL_SPMAP of an index as start-up loads it: one at or above the grade's count reads as absent, its PSITE a free value
(R108). -/
def State.bankSpmap (s : State) (n : Nat) : BitVec 32 :=
  let v := s.bank (spmapBase + 4 * n) 4
  if n < s.gradeCount then BitVec.ofNat 32 v
  else BitVec.ofNat 32 (2 ^ 27 + bitsOf v 21 5 * 2 ^ 21 + (Config.absentSite n).toNat * 2 ^ 12 + v % 2 ^ 12)

/-- Loads the spindle map, the site states, the cores and the coordinate in force from the bank (R108, R109, R464, R552). -/
def State.loadBank (s : State) : State :=
  let s := (List.range 256).foldl (fun s n => s.setSpmap n (s.bankSpmap n)) s
  let s := (List.range 288).foldl (fun s p => s.setSite p (BitVec.ofNat 32 (s.bank (siteBase + p) 1))) s
  let s := (List.range 32).foldl State.loadSlots s
  let dead := ((List.range 8).map fun n => if s.retiredPart .core n then 2 ^ n else 0).sum
  let cores := 0xFF &&& ~~~(BitVec.ofNat 8 dead)
  { s with
    mill := { s.mill with
      cores := cores, accepting := cores.toNat.testBit 0
      degraded := (List.range s.gradeCount).any fun n => s.seat n = 2 }
    fabric := { s.fabric with cinuse := (s.wp 0).truncate 32 } }

/-- Reads records from words, oldest first (R544, R588). -/
def recsOf : Nat → List Word → List Rec
  | 0, _ => []
  | n + 1, ws =>
    match ws with
    | h :: q :: r =>
      let len := h.toNat % 256
      if len < 2 then []
      else
        { seq := q, time := BitVec.ofNat 48 (h.toNat / 2 ^ 16), type := bitsOf h.toNat 10 6, sev := bitsOf h.toNat 8 2
          body := r.take (len - 2) } :: recsOf n (r.drop (len - 2))
    | _ => []

/-- The records of a ring, newest first, that continue the sequence (R547). -/
def continuing : List Rec → List Rec
  | a :: b :: r => if a.seq = b.seq + 1 then a :: continuing (b :: r) else [a]
  | l => l

/-- BARO_NEXT as core 0 loads it: behind the records of the persistent ring that continue the sequence, and behind a save (R547, R549,
R588; log entry 48). -/
def State.loadNext (s : State) : State :=
  let s := { s with baro := { s.baro with pring := (continuing s.baro.pring.reverse).reverse } }
  let p := match s.baro.pring.getLast? with
    | some r => r.seq.toNat + 1
    | none => 0
  let q := if s.bank saveBase 1 = 0 then 0 else s.bank (saveBase + 16) 8
  { s with baro := { s.baro with next := BitVec.ofNat 64 (max p q) } }

/-- The records of a save's TAIL (R588). -/
def State.tailRecs (s : State) : List Rec :=
  recsOf 1508 ((List.range 3016).map fun i => BitVec.ofNat 64 (s.bank (saveBase + 4544 + 8 * i) 8))

/-- Phase 4: the bank is loaded, and a save is taken up (R581, R589). -/
def State.phase4 (s : State) : State :=
  let s := s.loadBank.loadNext
  let s := s.baroWrite 0x0F 0 true [codeW 0 0 0]
  let st := s.bank saveBase 1
  let s := if st = 1 then
      ({ s with baro := { s.baro with xring := ringTrim (2 ^ 23) (s.tailRecs ++ s.baro.xring) } }).baroWrite 0x0F 0 true [codeW 0 1 0]
    else if st = 2 then s.baroWrite 0x0F 0 true [codeW 0 2 0] else s
  (s.bankBytes saveBase [0]).reachPhase 4

/-- Phase 5: memory, the table images and the spindle map; the test seed is drawn, and the CXL ports are found (R427, R532, R558,
R581). -/
def State.phase5 (s : State) : State :=
  let d := s.loadTables.draw
  let s := d.2
  let port (p : Bool) : Nat × Port := (if p then 1 else 0, { ids := Config.expanders p })
  let ports := ([false, true].map port).filter fun p => p.2.ids ≠ []
  ({ s with mill := { s.mill with testSeed := d.1.truncate 64 }, ports := ports }).reachPhase 5

/-- Phase 6: the host link, once PERST# is deasserted (R581, R582). -/
def State.phase6 (s : State) : State :=
  if s.host.perst then s else ({ s with host := { s.host with fnReady := true } }).reachPhase 6

/-- SPARED of a link as the repair list has it: the spare lane serves a retired lane (R541, R552). -/
def State.loadLane (s : State) (n : Nat) : State :=
  match (List.range 8).find? fun i => s.retiredPart .lane (n * 16 + i) with
  | some i => s.setLink n ((s.link n).setSpared i)
  | none => s

/-- Phase 7: the skein links train, unless their dimension has size 1, no coordinate is assigned, or they are retired (R459,
R464, R465); their discovery follows by LINK_DISCOVERY, before ready or behind it (R581). -/
def State.phase7 (s : State) : State :=
  let c := s.fabric.cinuse
  let s := (List.range 48).foldl (fun s n =>
    let s := s.loadLane n
    if s.retiredPart .link n then s.setLink n ((s.link n).setState 6)
    else if coordValid c && sizeIn c.toNat (n / 12) ≠ 1 then s.setLink n ((s.link n).setState 1)
    else s) s
  s.reachPhase 7

/-- Phase 8: ready. On a module that is not owned, ARB rises to a higher VERSION (R560, R581). -/
def State.phase8 (s : State) : State :=
  let s := { s with power := { s.power with phase := .ready, reached := 8 } }
  let v := s.sec.version.toNat
  if !s.owned ∧ s.arb < v then s.identityBytes 16 (leBytes 8 v) else s

/-- The next phase of start-up. -/
def State.startPhase (s : State) : State :=
  match s.power.phase, s.power.reached with
  | .off, _ => s.phase1
  | .starting, 1 => s.phase2
  | .starting, 2 => s.phase3
  | .starting, 3 => s.phase4
  | .starting, 4 => s.phase5
  | .starting, 5 => s.phase6
  | .starting, 6 => s.phase7
  | .starting, 7 => s.phase8
  | _, _ => s

end Sys2Proof.Machine
end

