-- ==== Sys2Proof/Machine/Attest.lean ====
section
/-! DEFINITION. SPDM attestation and the management transports: I3C and Ethernet (R564 to R566). The reply codes are those of
DSP0274 (log entry 56). -/

namespace Sys2Proof.Machine

/-! ### SPDM (R564) -/

/-- The transport carries SPDM: the module is ready, and the transport is there. -/
def State.spdmOn (s : State) (t : Transport) : Bool :=
  s.on && (match t with
    | .i3c => s.sec.da ≠ 0
    | .ethernet => s.sec.ethUp
    | .doe => s.host.fnReady && !s.host.perst)

/-- The number of a transport. -/
def transportNo : Transport → Nat
  | .doe => 0
  | .i3c => 1
  | .ethernet => 2

/-- How far the connection of a transport has come (R564). -/
def State.spdmAt (s : State) (t : Transport) : Nat := s.sec.spdm.get (transportNo t) 0

/-- The state with the connection of a transport advanced. -/
def State.setSpdm (s : State) (t : Transport) (n : Nat) : State :=
  { s with sec := { s.sec with spdm := s.sec.spdm.set (transportNo t) n 0 } }

/-- An SPDM response: its code, and what follows it: Param1, Param2 and the fields that DSP0274 gives it (log entry 56). -/
def State.spdm (s : State) (p : Peer) (code : Byte) (body : List Byte) : State := s.respond p (.spdm p.tr code body)

/-- An SPDM ERROR. -/
def State.spdmErr (s : State) (p : Peer) : State := s.spdm p 0x7F []

/-- GET_VERSION: one entry, version 1.2; the connection starts anew (R564). -/
def execGetVersion (p : Peer) (s : State) : Host.Outcome State Fault Refusal :=
  .next (if s.spdmOn p.tr then (s.setSpdm p.tr 1).spdm p 0x04 [0, 0, 0, 1, 0x00, 0x12] else s)

/-- CAPABILITIES: a signed response within 2^16 µs, certificates, challenges, signed measurements, and the sizes that it takes (R564; log
entry 56). -/
def capabilities : List Byte := [0, 0, 0, 16, 0, 0] ++ leBytes 4 0x16 ++ leBytes 8 Config.spdmSizes.toNat

/-- GET_CAPABILITIES (R564). -/
def execGetCapabilities (p : Peer) (s : State) : Host.Outcome State Fault Refusal :=
  .next (if !s.spdmOn p.tr then s else if s.spdmAt p.tr ≠ 1 then s.spdmErr p else (s.setSpdm p.tr 2).spdm p 0x61 capabilities)

/-- ALGORITHMS: the DMTF measurement format, TPM_ALG_SHA_512, TPM_ALG_RSASSA_4096, and no extension (R564; log entry 56). -/
def algorithms : List Byte := [0, 0] ++ leBytes 2 36 ++ [1, 0] ++ leBytes 4 8 ++ leBytes 4 0x20 ++ leBytes 4 4 ++ List.replicate 16 0

/-- NEGOTIATE_ALGORITHMS (R564). -/
def execNegotiateAlgorithms (p : Peer) (s : State) : Host.Outcome State Fault Refusal :=
  .next (if !s.spdmOn p.tr then s else if s.spdmAt p.tr ≠ 2 then s.spdmErr p else (s.setSpdm p.tr 3).spdm p 0x63 algorithms)

/-- A request that needs a negotiated connection. -/
def State.spdmReq (s : State) (p : Peer) (f : State → State) : Host.Outcome State Fault Refusal :=
  .next (if !s.spdmOn p.tr then s else if s.spdmAt p.tr ≠ 3 then s.spdmErr p else f s)

/-- The certificate area (R557). -/
def State.certArea (s : State) : List Byte := s.bytesAt (keyOf 8 0x04000000) 65536

/-- GET_DIGESTS: slot 0, or no slot where the leaf does not carry ID_PUB (R564). -/
def execGetDigests (p : Peer) (s : State) : Host.Outcome State Fault Refusal :=
  s.spdmReq p fun s => s.spdm p 0x01 (if s.sec.certOk then [0, 1] ++ sha512 s.certArea else [0, 0])

/-- GET_CERTIFICATE: a part of slot 0's chain, with how long it is and how much remains (R564). -/
def execGetCertificate (p : Peer) (slot : BitVec 4) (off len : BitVec 16) (s : State) :
    Host.Outcome State Fault Refusal :=
  s.spdmReq p fun s =>
    let part := (s.certArea.drop off.toNat).take len.toNat
    if slot ≠ 0 ∨ !s.sec.certOk then s.spdmErr p
    else s.spdm p 0x02 ([0, 0] ++ leBytes 2 part.length ++ leBytes 2 (65536 - off.toNat - part.length) ++ part)

/-- The identity key's signature over a message (R555, R564). -/
def State.sign (s : State) (msg : List Byte) : List Byte := leBytes 512 (rsaPrivate (s.bytesAt (keyOf 6 600) 1280) (rsassaEncode msg))

/-- The block of measurement index `i`, 1 to 16, as a digest in the DMTF measurement format (R561, R564; log entry 56). -/
def State.measBlock (s : State) (i : Nat) : List Byte :=
  [BitVec.ofNat 8 i, 1] ++ leBytes 2 67 ++ [(Config.measurementType i).zeroExtend 8] ++ leBytes 2 64
    ++ leBytes 64 (s.sec.meas.get (i - 1) 0).toNat

/-- The blocks of a measurement request: none for index 0, all of them for 0xFF (R564). -/
def State.measBlocks (s : State) (i : Nat) : List (List Byte) :=
  if i = 0 then [] else if i = 255 then (List.range 16).map fun n => s.measBlock (n + 1) else [s.measBlock i]

/-- CHALLENGE: the chain's digest, a nonce, the digest of every measurement, and the signature (R564; log entry 56). -/
def execChallenge (p : Peer) (slot : BitVec 4) (nonce : BitVec 256) (s : State) : Host.Outcome State Fault Refusal :=
  s.spdmReq p fun s =>
    if slot ≠ 0 ∨ !s.sec.certOk then s.spdmErr p
    else
      let d := s.draw
      let data := [0, 1] ++ sha512 s.certArea ++ leBytes 32 (d.1.toNat % 2 ^ 256) ++ sha512 (s.measBlocks 255).flatten ++ [0, 0]
      d.2.spdm p 0x03 (data ++ s.sign (Config.transcript (leBytes 32 nonce.toNat) data))

/-- GET_MEASUREMENTS: index 0 asks how many there are, 0xFF for all of them, 1 to 16 for one, all taken at one instant (R564; log
entry 56). -/
def execGetMeasurements (p : Peer) (idx : BitVec 8) (signed : Bool) (nonce : BitVec 256) (s : State) :
    Host.Outcome State Fault Refusal :=
  s.spdmReq p fun s =>
    let i := idx.toNat
    if (17 ≤ i ∧ i ≠ 255) ∨ (signed ∧ !s.prov) then s.spdmErr p
    else
      let d := s.draw
      let bs := s.measBlocks i
      let data := [if i = 0 then 16 else 0, 0] ++ leBytes 1 bs.length ++ leBytes 3 bs.flatten.length ++ bs.flatten
        ++ leBytes 32 (d.1.toNat % 2 ^ 256) ++ [0, 0]
      d.2.spdm p 0x60 (data ++ if signed then s.sign (Config.transcript (leBytes 32 nonce.toNat) data) else [])

/-! ### I3C (R565) -/

/-- The management transports run: from recovery or ready on (R559, R581). -/
def State.managed (s : State) : Bool := s.on || decide (s.power.phase = .recovery)

/-- ENTDAA: a target without an address shows its provisioned ID, BCR and DCR, and takes the address (R565). -/
def execEntdaa (da : BitVec 7) (s : State) : Host.Outcome State Fault Refusal :=
  .next (if s.managed && s.sec.da = 0 then ({ s with sec := { s.sec with da := da } }).emit (.entdaa s.sec.pid 0x06 0x00) else s)

/-- RSTDAA: the address goes, and with it every session over I3C (R565). -/
def execRstdaa (s : State) : Host.Outcome State Fault Refusal :=
  .next (if s.managed then (({ s with sec := { s.sec with da := 0 } }).closeTransport .i3c).setSpdm .i3c 0 else s)

/-! ### Ethernet (R566) -/

/-- ETHERNET_LINK_UP: MGT_NETCFG takes effect, and the sessions over Ethernet close (R566). -/
def execEthernetLinkUp (s : State) : Host.Outcome State Fault Refusal :=
  .next (if s.managed then
      (({ s with sec := { s.sec with ethUp := true, netUse := s.wp 4 } }).closeTransport .ethernet).setSpdm .ethernet 0
    else s)

/-- ETHERNET_LINK_DOWN (R567). -/
def execEthernetLinkDown (s : State) : Host.Outcome State Fault Refusal :=
  .next (if s.managed then
      (({ s with sec := { s.sec with ethUp := false } }).closeTransport .ethernet).setSpdm .ethernet 0
    else s)

/-- The port's IPv4 address: the static one, or what DHCP gives (R566). -/
def State.ipAddr (s : State) : BitVec 32 :=
  if s.sec.netUse.toNat.testBit 23 then Config.dhcpAddress else BitVec.ofNat 32 (s.sec.netUse.toNat / 2 ^ 32)

/-- ARP_REQUEST: answered for the port's own address (R566). -/
def execArpRequest (target sender : BitVec 32) (mac : BitVec 48) (s : State) : Host.Outcome State Fault Refusal :=
  .next (if s.managed && s.sec.ethUp && target = s.ipAddr then s.emit (.arp mac sender) else s)

/-- ICMP_ECHO: answered to the MAC address that it came from; recovery answers none (R559, R566). -/
def execIcmpEcho (dst : BitVec 32) (src : Src) (data : List Byte) (s : State) : Host.Outcome State Fault Refusal :=
  .next (if s.on && s.sec.ethUp && dst = s.ipAddr then s.emit (.echo src.mac src.ip data) else s)

end Sys2Proof.Machine
end

