-- ==== Sys2Proof/Machine/Branch.lean ====
section
/-! DEFINITION. Branches and loops (R401), tasks and stealing (R403, R509, R510). -/

namespace Sys2Proof.Machine

/-- The target of a branch: IMM counts instructions from the branch itself (R374, R401). -/
def target (x : Ctx) (f : SForm) : DevAddr := x.pc + f.imm.signExtend 57 * 8

/-- Whether an address lies in the image's code region (R389, R396). -/
def Ctx.inCode (x : Ctx) (a : DevAddr) : Bool := decide ((a - x.imgBase).toNat < x.codeSize.toNat)

/-- Goes to a branch target with the context's other changes, or raises BRANCH_RANGE with none (R388, R389, R401). -/
def State.takeBranch (s : State) (w : Who) (word : Word) (x : Ctx) (a : DevAddr) : State :=
  if x.inCode a then s.setWho w { x with pc := a } else (s.ctlFault w 2 word).reap

/-- BR (R401). -/
def execBr (w : Who) (f : SForm) (s : State) : Host.Outcome State Fault Refusal :=
  .next (s.controller w (sWord 8 f) (decide (16 ≤ f.src1.toNat) || f.dst != 0 || f.src2 != 0) fun _ x =>
    if x.pred (f.src1.toNat % 8) != f.src1.toNat.testBit 3 then s.takeBranch w (sWord 8 f) x (target x f)
    else s.setWho w x.next)

/-- A loop counter (R371). -/
def Ctx.lcReg (x : Ctx) (n : Nat) : BitVec 32 := x.lc.get n 0

/-- The context with a loop counter written. -/
def Ctx.setLc (x : Ctx) (n : Nat) (v : BitVec 32) : Ctx := { x with lc := x.lc.set n v 0 }

/-- LOOP (R401). -/
def execLoop (w : Who) (f : SForm) (s : State) : Host.Outcome State Fault Refusal :=
  .next (s.controller w (sWord 9 f) (decide (4 ≤ f.dst.toNat) || f.src2 != 0) fun _ x =>
    let n := (x.sreg f.src1.toNat).truncate 32
    let y := x.setLc f.dst.toNat n
    if n = 0 then s.takeBranch w (sWord 9 f) y (target x f) else s.setWho w y.next)

/-- ENDL (R401). -/
def execEndl (w : Who) (f : SForm) (s : State) : Host.Outcome State Fault Refusal :=
  .next (s.controller w (sWord 10 f) (decide (4 ≤ f.dst.toNat) || f.src1 != 0 || f.src2 != 0) fun _ x =>
    let n := x.lcReg f.dst.toNat - 1
    let y := x.setLc f.dst.toNat n
    if n ≠ 0 then s.takeBranch w (sWord 10 f) y (target x f) else s.setWho w y.next)

/-! ### Tasks -/

/-- A list turned so that it starts after `k` elements. -/
def rotate {α : Type} (k : Nat) (l : List α) : List α := l.drop k ++ l.take k

/-- The logical spindles whose home frame is f, ascending (R106, R108). -/
def State.frameSpns (s : State) (f : Nat) : List Nat := (List.range 256).filter fun n => s.hframe n = f && s.seat n ≠ 3

/-- The spindles that a TASK.POP tries after its own, in order (R510). -/
def State.stealOrder (s : State) (l : Nat) : List Nat :=
  let f := s.hframe l
  let d := f / 8
  let own := s.frameSpns f
  let first := rotate ((own.filter (· ≤ l)).length) own |>.filter (· ≠ l)
  let second := (rotate (f % 8 + 1) (List.range 8)).filter (· ≠ f % 8) |>.flatMap fun i => s.frameSpns (8 * d + i)
  let third := (rotate (d + 1) (List.range 4)).filter (· ≠ d) |>.flatMap fun e =>
    (rotate (f % 8) (List.range 8)).flatMap fun i => s.frameSpns (8 * e + i)
  first ++ second ++ third

/-- The word that a TASK.POP takes and the deques after it: the newest of its own, else the oldest of the first
deque in stealing order that holds one (R403, R510). -/
def State.popTask (s : State) (l : Nat) (b : Job) : Option (Word × Table (List Word)) :=
  let own := b.deques.get l []
  match own.getLast? with
  | some v => some (v, b.deques.set l own.dropLast [])
  | none =>
    ((s.stealOrder l).filter fun n => b.lspns.toNat.testBit n).findSome? fun n =>
      match b.deques.get n [] with
      | v :: r => some (v, b.deques.set n r [])
      | [] => none

/-- TASK.PUSH (R403, R509). -/
def execTaskPush (w : Who) (f : SForm) (s : State) : Host.Outcome State Fault Refusal :=
  .next (s.controller w (sWord 0x20 (f.func 0)) (f.dst != 0 || decide (8 ≤ f.src2.toNat) || immUsed f) fun b x =>
    let l := w.lspn.toNat
    let q := b.deques.get l []
    let ok := decide (q.length < 1024)
    let t := s.setWho w (x.setP f.src2.toNat ok).next
    if ok then t.setJob x.job { b with deques := b.deques.set l (q ++ [x.sreg f.src1.toNat]) [] } else t)

/-- TASK.POP (R403, R509, R510). -/
def execTaskPop (w : Who) (f : SForm) (s : State) : Host.Outcome State Fault Refusal :=
  .next (s.controller w (sWord 0x20 (f.func 1)) (f.src1 != 0 || decide (8 ≤ f.src2.toNat) || immUsed f) fun b x =>
    match s.popTask w.lspn.toNat b with
    | some r =>
      (s.setWho w ((x.setS f.dst.toNat r.1).setP f.src2.toNat true).next).setJob x.job { b with deques := r.2 }
    | none => s.setWho w ((x.setS f.dst.toNat 0).setP f.src2.toNat false).next)

end Sys2Proof.Machine
end

