-- ==== Sys2Proof/Machine/Collectives.lean ====
section
/-! DEFINITION. Collective entries: their start, the contributions as they arrive, acknowledgements and RESEND, the scatter
adds and the end of a flight (R473 to R486). -/

namespace Sys2Proof.Machine

/-! ### Combining (R479, R481) -/

/-- One ⊕ of a reduction (R226, R479): received ⊕ own, the AL32 rounding drawn by `d`, with the flags that it sets. `ctl` is the job's
initial ARITH_CTL, whose INF governs an AW64 sum (log entry 118). -/
def colCombine (ctl : BitVec 32) (efmt : Nat) (d : Unit → Nat) (got own : Nat) : Nat × Flags :=
  if efmt = 0x15 then
    let o := wrap32 (sxt got 32 + sxt own 32) true
    ((got + own) % 2 ^ 32, o.2)
  else
    let f : Fmt := if efmt = 0x13 then .aw64 else .al32
    let md := Modes.of ctl 0
    let x := decodeElem f false got
    let y := decodeElem f false own
    let fl := x.2.or y.2
    let o : Val × Flags := match x.1, y.1 with
      | .log a, .log b => let z := logAdd (fun _ _ _ => d ()) false ⟨0, 0, .no⟩ a b; (.log z.1, z.2.flags)
      | a, b => let z := sum64 md.inf (a.toLin false) (b.toLin false); (.lin z.1, z.2)
    let c := encodeElem f md false o.1 .rne
    (c.1, (fl.or o.2).or c.2)

/-- The draw of one AL32 combine of the collective engine (R352, R479). Its STEP is the flight's: of a POST entry the step that its
commit has closed (log entry 126). -/
def colDraw (b : Job) (f : Flight) (stage pos idx : Nat) : Nat :=
  draw16 b.seed.toNat 0xE4 f.step
    (elemCombine 0xFF (2 ^ 23 + f.entry % 64 * 2 ^ 16 + stage % 4 * 2 ^ 14 + pos % 2 ^ 14) idx)

/-- Cuts bytes into codes of `size` bytes. -/
def codesOf (size : Nat) : Nat → List Byte → List Nat
  | 0, _ => []
  | n + 1, bs => leNat (bs.take size) :: codesOf size n (bs.drop size)

/-- The buffer with the codes at some places replaced. -/
def bufPut (buf : List Nat) (ps : List (Nat × Nat)) : List Nat := ps.foldl (fun b p => b.set p.1 p.2) buf

/-- The bytes of one code of the buffer. -/
def ColEnt.code (c : ColEnt) : Nat := if c.op = 3 then 8 else c.size

/-- A merge of received rows into the buffer (R277, R481). -/
def colMerge (c : ColEnt) (rows : List Nat) (got : List Nat) (buf : List Nat) : List Nat :=
  rows.zipIdx.foldl (fun buf r =>
    let mine := (List.range c.k).map fun j => Cand.ofWord c.valkind (buf.getD (r.1 * c.k + j) 0)
    let new := (List.range c.k).map fun j => Cand.ofWord c.valkind (got.getD (r.2 * c.k + j) 0)
    bufPut buf ((Cand.top c.valkind c.k (mine ++ new)).zipIdx.map fun x => (r.1 * c.k + x.2, x.1.word))) buf

/-- The buffer after a phase has taken one contribution in ring step r, and the flags of its combines. -/
def colTake (b : Job) (c : ColEnt) (gs : List ColStage) (f : Flight) (ph : ColDo × Nat) (minus : Bool) (r : Nat)
    (data : List Byte) : List Nat × Flags :=
  let g := gs.getD ph.2 default
  let at_ := colElems c gs ph.2 minus (colMoves ph.1 g minus r).2
  let got := codesOf c.code at_.length data
  match ph.1 with
  | .merge => (colMerge c (colHalf (List.range c.nelem) minus) got f.buf, .no)
  | .gather => (bufPut f.buf (at_.zip got), .no)
  | .fold =>
    let os := (at_.zip got).map fun p =>
      (p.1, colCombine b.arith c.efmt (fun _ => colDraw b f g.num (r + 1) p.1) p.2 (f.buf.getD p.1 0))
    (bufPut f.buf (os.map fun o => (o.1, o.2.1)), os.foldl (fun a o => a.or o.2.2) .no)

/-! ### Sending (R483, R484) -/

/-- Sends a contribution and keeps it for a RESEND; one that was acknowledged before a replay stays so (R485). -/
def State.sendCon (s : State) (j : Nat) (b : Job) (dir : Nat) (peer : Coord) (tag : Nat) (data : List Byte) : State :=
  let old := b.sent.find? fun c => c.tag = tag
  let rec_ : SentCon := { tag := tag, dir := dir, peer := peer, data := data, acked := old.any (·.acked) }
  let s := s.modJob j fun b => { b with sent := b.sent.filter (fun c => c.tag ≠ tag) ++ [rec_] }
  (conPackets peer b.fjob s.coord.toNat tag data).foldl (fun s x => s.sendDir dir x) s

/-- Sends the contribution of ring step r of a half: a chunk of the buffer, or, in a merge, what the ring step before
brought. -/
def State.sendRing (s : State) (j : Nat) (b : Job) (c : ColEnt) (gs : List ColStage) (f : Flight) (ph : ColDo × Nat)
    (minus : Bool) (r : Nat) : State :=
  let g := gs.getD ph.2 default
  let tag (r : Nat) : Nat := conTag f.step f.entry g.num minus (colRing c.op ph.1 g r)
  let own := (colElems c gs ph.2 minus (colMoves ph.1 g minus r).1).flatMap fun i => leBytes c.code (f.buf.getD i 0)
  let data := if ph.1 = .merge ∧ 0 < r then
      (match b.recv.find? fun x => x.tag = tag (r - 1) with
       | some x => x.data.flatMap (·.2)
       | none => own)
    else own
  let peer := coordSet s.coord.toNat g.dim (if minus then (g.me + g.size - 1) % g.size else (g.me + 1) % g.size)
  s.sendCon j b (2 * g.dim + if minus then 1 else 0) (BitVec.ofNat 14 peer) (tag r) data

/-- Sends the first contributions of the flight's phase. -/
def State.openPhase (s : State) (j : Nat) (c : ColEnt) (gs : List ColStage) (f : Flight) : State :=
  match (colPhases c.op gs.length)[f.phase]?, s.job? j with
  | some ph, some b =>
    let s := s.sendRing j b c gs f ph false 0
    s.sendRing j b c gs f ph true 0
  | _, _ => s

/-- The job with a flight replaced. -/
def Job.setFlight (b : Job) (f : Flight) : Job :=
  { b with flights := b.flights.map fun x => if x.entry = f.entry && !x.done then f else x }

/-- One ring step of a half, where its contribution has been accepted: it is taken into the buffer, and the next one is
sent. -/
def State.ringStep (s : State) (j : Nat) (c : ColEnt) (gs : List ColStage) (f : Flight) (minus : Bool) : Option State :=
  match (colPhases c.op gs.length)[f.phase]?, s.job? j with
  | some ph, some b =>
    let g := gs.getD ph.2 default
    let r := if minus then f.ringM else f.ringP
    let tag := conTag f.step f.entry g.num minus (colRing c.op ph.1 g r)
    if g.size ≤ r + 1 then none
    else (b.recv.find? fun x => x.tag = tag && x.accepted).map fun x =>
      let o := colTake b c gs f ph minus r (x.data.flatMap (·.2))
      let b := { b with colFlags := b.colFlags ||| o.2.arith }
      let f := { f with
        buf := o.1
        ringP := if minus then f.ringP else r + 1
        ringM := if minus then r + 1 else f.ringM }
      let s := s.setJob j (b.setFlight f)
      if r + 2 < g.size then s.sendRing j (b.setFlight f) c gs f ph minus (r + 1) else s
  | _, _ => none

/-- Whether the flight's phase has taken every contribution. -/
def phaseDone (c : ColEnt) (gs : List ColStage) (f : Flight) : Bool :=
  match (colPhases c.op gs.length)[f.phase]? with
  | some ph => let n := (gs.getD ph.2 default).size; decide (n ≤ f.ringP + 1 ∧ n ≤ f.ringM + 1)
  | none => false

/-- Goes on with a flight as far as the accepted contributions let it; `n` bounds the ring steps. -/
def State.advance (s : State) (j e : Nat) : Nat → State
  | 0 => s
  | n + 1 =>
    match s.job? j with
    | none => s
    | some b =>
      let c := b.cols.getD e default
      let gs := s.colStages c
      match b.flights.find? fun f => f.entry = e && !f.done && !f.adding with
      | none => s
      | some f =>
        if phaseDone c gs f then
          let f := { f with phase := f.phase + 1, ringP := 0, ringM := 0 }
          ((s.setJob j (b.setFlight f)).openPhase j c gs f).advance j e n
        else match s.ringStep j c gs f false with
          | some t => t.advance j e n
          | none => match s.ringStep j c gs f true with
            | some t => t.advance j e n
            | none => s

/-- The ring steps that an entry can take at most: two halves, eight phases, fifteen ring steps, and the phases. -/
def ringFuel : Nat := 256

/-! ### Residues of the combines (R516, R526) -/

/-- Whether a flight's phase folds: its ring steps combine. -/
def foldPhase (c : ColEnt) (gs : List ColStage) (f : Flight) : Bool :=
  match (colPhases c.op gs.length)[f.phase]? with
  | some ph => decide (ph.1 = .fold)
  | none => false

/-- How far the open flight of an entry has come: its phase and ring steps. -/
def Job.place (b : Job) (e : Nat) : Option (Nat × Nat × Nat) :=
  (b.flights.find? fun f => f.entry = e && !f.done).map fun f => (f.phase, f.ringP, f.ringM)

/-- A combined element that holds an error which no check finds: a free value (R517; log entry 105). -/
def State.strayCombine (s : State) (j : Nat) (f : Flight) (i : Nat) : State :=
  (s.modJob j fun b => b.setFlight { f with buf := f.buf.set i (Config.freeBits s.free).toNat }).skipFree 1

/-- A failed check of the collective engine: recorded, counted for the module, and attributed to no site (R526, R546). -/
def State.colFailed (s : State) (b : Job) (outcome unit : Nat) : State :=
  { s with mill := { s.mill with colFails := s.mill.colFails + 1 } }.modResidue b outcome unit

/-- What tells a failed combine from other faults: the collective engine (R391). -/
def colFaultId : Nat := 2 ^ 102

/-- Goes on with a flight; where it combines, the combines are checked. One that fails is formed again; where it fails
again its share of the step is replayed with RESIDUE, or the job ends where the fault repeats one of the replayed step, or in a POST
entry, whose step is never replayed (R391, R521, R526; log entry 58). -/
def State.advanceChecked (s : State) (j e : Nat) (u : Upset) : State :=
  let t := s.advance j e ringFuel
  match s.job? j, t.job? j with
  | some b, some b' =>
    let c := b.cols.getD e default
    let folds := (b.flights.any fun f => f.entry = e && !f.done && foldPhase c (s.colStages c) f) && decide (b.place e ≠ b'.place e)
    let f' := (b'.flights.find? fun f => f.entry = e && !f.done).getD default
    let i := (upsetBytes u).1
    let v : Int := (f'.buf.getD i 0 : Nat)
    let n := groupFails u v
    let unit := match u with
      | .table _ _ => 6
      | _ => 3
    if !folds then t
    else if n = 2 then
      let s := s.colFailed b 3 unit
      if c.post then ((s.colFailed b 2 unit).endJob j 0x40).reap
      else (s.replayOrEnd j b 0x40 [colFaultId] fun n s => s.colFailed b n unit).reap
    else
      let t := if n = 1 then t.colFailed b 3 unit else t
      match u with
      | .table false _ => t.modResidue b 3 6
      | _ => if (escapedBytes u v).isSome then t.strayCombine j f' i else t
  | _, _ => t

/-! ### The start of an entry (R475, R476, R481) -/

/-- The coordinate of a rank of an entry's group (R473). -/
def State.rankCoord (s : State) (gs : List ColStage) (rank : Nat) : Coord :=
  BitVec.ofNat 14 (gs.foldl (fun (x : Nat × Nat) g => (coordSet x.1 g.dim (x.2 % g.size), x.2 / g.size)) (s.coord.toNat, rank)).1

/-- The codes of this module's SRC. -/
def State.srcCodes (s : State) (b : Job) (c : ColEnt) : List Nat :=
  (List.range (c.nelem * (if c.op = 3 then c.k else 1))).map fun i => s.jobNat b (c.src + c.code * i) c.code

/-- The buffer with which an entry starts. -/
def startBuf (c : ColEnt) (gs : List ColStage) (src : List Nat) : List Nat :=
  if c.op = 2 then
    let n := (gs.map (·.size)).foldl (· * ·) 1
    bufPut (List.replicate (n * c.nelem) 0) (src.zipIdx.map fun p => (colRank gs * c.nelem + p.2, p.1))
  else src

/-- One FP32 addition of a unit's values into this module's DST (R450, R481). -/
def State.addUnit (s : State) (b : Job) (c : ColEnt) (u : Nat) (vals : List Nat) : State :=
  (unitElems c u).zip vals |>.foldl (fun s p =>
    match s.jobKey b (c.dst + 4 * p.1) with
    | some k => s.atomicAt ⟨.fadd, k, p.2⟩
    | none => s) s

/-- The first part of a scatter-add: every unit that holds a value other than zero goes to its owner (R481). -/
def State.scatter (s : State) (b : Job) (c : ColEnt) (gs : List ColStage) (f : Flight) : State :=
  let n := (gs.map (·.size)).foldl (· * ·) 1
  let src := s.srcCodes b c
  (List.range n).foldl (fun s q => (scatterUnits c n q false ++ scatterUnits c n q true).foldl (fun s u =>
    let vals := (unitElems c u).map fun i => src.getD i 0
    if vals.all fun v => v % 2 ^ 31 = 0 then s
    else if q = colRank gs then s.addUnit b c u vals
    else s.send { dst := s.rankCoord gs q, tc := 5, type := 0, flow := u % 6, fjob := b.fjob
                  tag := f.step % 2 ^ 32 + f.entry * 2 ^ 32 + u * 2 ^ 38
                  data := (vals ++ List.replicate (16 - vals.length) 0).flatMap (leBytes 4) }) s) s

/-- Whether an END or POST entry may start (R475, R476). -/
def State.mayStart (s : State) (j : Nat) (b : Job) (e : Nat) (c : ColEnt) : Bool :=
  b.steps && decide (b.st = .resident) && !(b.flights.any fun f => f.entry = e && !f.done)
  && (if c.post then b.postDue && !s.updPending j && (b.endWith.isNone || b.endWith = some 0 || b.endWith = some 0x6A)
        && !(b.flights.any fun f => f.entry = e && f.step + 1 = b.step)
      else b.endWith.isNone && b.fault.isNone && !b.atBoundary && s.allReported j && s.someReported j
        && !(b.flights.any fun f => f.entry = e && f.step = b.step)
        && b.cols.zipIdx.all fun x => x.1.post || e ≤ x.2 || b.flights.any fun f => f.entry = x.2 && f.step = b.step)

/-- COLLECTIVE_START: an entry's flight begins; given again for a scatter-add, its chunks begin to travel (R475, R476, R481;
log entry 33). -/
def execCollectiveStart (j : Nat) (entry : BitVec 6) (u : Upset) (s : State) : Host.Outcome State Fault Refusal :=
  let e := entry.toNat
  .next (match s.on, s.job? j with
    | true, some b =>
      match b.cols[e]? with
      | none => s
      | some c =>
        let gs := s.colStages c
        match b.flights.find? fun f => f.entry = e && f.adding with
        | some f =>
          let dst := (List.range c.nelem).map fun i => s.jobNat b (c.dst + 4 * i) 4
          let f := { f with adding := false, buf := dst }
          ((s.setJob j (b.setFlight f)).openPhase j c gs f).advanceChecked j e u
        | none =>
          if !s.mayStart j b e c then s
          else
            let step := if c.post then b.step - 1 else b.step
            let f : Flight := { entry := e, step := step, buf := startBuf c gs (s.srcCodes b c), adding := c.op = 4 }
            let s := s.setJob j { b with flights := b.flights ++ [f] }
            if c.op = 4 then s.scatter b c gs f
            else (s.openPhase j c gs f).advanceChecked j e u
    | _, _ => s)

/-! ### Contributions as they arrive (R483 to R485) -/

/-- The record of a contribution as received so far. -/
def Job.con (b : Job) (h : PHdr) : Contrib :=
  (b.recv.find? fun c => c.tag = h.tag.toNat % 2 ^ 46).getD { tag := h.tag.toNat % 2 ^ 46, src := h.src.toNat }

/-- The job with a contribution's record replaced. -/
def Job.setCon (b : Job) (c : Contrib) : Job := { b with recv := b.recv.filter (fun x => x.tag ≠ c.tag) ++ [c] }

/-- Whether a contribution's packet is taken: its entry exists, and neither an accepted contribution nor a committed step
discards it (R485). -/
def Job.open_ (b : Job) (h : PHdr) : Bool :=
  decide (h.tagf 32 6 < b.cols.length) && b.wants (h.tag.toNat % 2 ^ 46) && !(b.con h).accepted

/-- A data packet of a contribution is placed by its offset (R471, R483). -/
def State.recvData (s : State) (h : PHdr) (data : List Byte) : State :=
  s.forJob h fun j b =>
    if !b.open_ h then s
    else
      let c := b.con h
      s.setJob j (b.setCon { c with src := h.src.toNat, data := c.data.set (h.tagf 46 18) data [] })

/-- COLLECTIVE_DATA (R477, R483). -/
def execCollectiveData (h : PHdr) (data : List Byte) (s : State) : Host.Outcome State Fault Refusal :=
  .next (if s.on then s.recvData h data else s)

/-- A RESIDUE record of the collective engine (R546). -/
def State.colRec (s : State) (b : Job) (n : Nat) : State := s.modResidue b n 3

/-- Answers a contribution with an acknowledgement (TYPE 1) or a RESEND (TYPE 2) (R469, R484). -/
def State.answerCon (s : State) (b : Job) (h : PHdr) (type : Nat) : State :=
  s.send { dst := BitVec.ofNat 14 h.src.toNat, tc := 1, type := type, tag := ackTag b.fjob (h.tag.toNat % 2 ^ 46) }

/-- The digest packet of a contribution: the check decides (R484). -/
def State.recvDigest (s : State) (h : PHdr) (dig : BitVec 128) (u : Upset) : State :=
  s.forJob h fun j b =>
    if !b.open_ h then s
    else
      let c := b.con h
      if conDigest c.tag h.src.toNat (c.data.flatMap (·.2)) = dig then
        ((s.setJob j (b.setCon { c with src := h.src.toNat, accepted := true })).answerCon b h 1).advanceChecked j (h.tagf 32 6) u
      else
        let s := s.setJob j (b.setCon { c with data := [], fails := c.fails + 1 })
        let s := if c.fails = 0 then s else s.colRec b 1
        s.answerCon b h 2

/-- CONTRIBUTION_DIGEST (R484). -/
def execContributionDigest (h : PHdr) (dig : BitVec 128) (u : Upset) (s : State) : Host.Outcome State Fault Refusal :=
  .next (if s.on then s.recvDigest h dig u else s)

/-- The contribution of a job that an acknowledgement or a RESEND names; a management packet's FJOB is 0, so that its TAG names the
job too (R468; log entry 32). -/
def Job.named (b : Job) (h : PHdr) : Option SentCon :=
  if b.fjob = 0 ∨ b.fjob % 2 ^ 10 ≠ h.tagf 54 10 ∨ b.st = .waiting then none
  else b.sent.find? fun c => c.tag = h.tagf 8 46 && c.peer.toNat = h.src.toNat % 2 ^ 14

/-- The job and its contribution that an acknowledgement or a RESEND names. -/
def State.named (s : State) (h : PHdr) : Option (Nat × Job × SentCon) :=
  s.mill.jobs.findSome? fun p => (p.2.named h).map fun c => (p.1, p.2, c)

/-- A collective acknowledgement (R484). -/
def State.recvAck (s : State) (h : PHdr) : State :=
  match s.named h with
  | some (j, b, c) => s.setJob j { b with sent := b.sent.map fun x => if x.tag = c.tag then { x with acked := true } else x }
  | none => s

/-- COLLECTIVE_ACK (R484). -/
def execCollectiveAck (h : PHdr) (s : State) : Host.Outcome State Fault Refusal :=
  .next (if s.on then s.recvAck h else s)

/-- A RESEND: the contribution is sent once more; on a second one the module's share of the step is replayed (R484). A POST
entry belongs to a committed step, which is never replayed (R521), so it is sent again (log entry 36). -/
def State.recvResend (s : State) (h : PHdr) : State :=
  match s.named h with
  | none => s
  | some (j, b, c) =>
    if c.acked then s
    else
      let again := c.fails ≠ 0
      let post := (b.cols.getD (bitsOf c.tag 32 6) default).post
      let n := if again ∧ !post then 0 else c.fails + 1
      let s := s.setJob j { b with sent := b.sent.map fun x => if x.tag = c.tag then { x with fails := n } else x }
      let s := if again then s.colRec b 1 else s
      if again ∧ !post then s.needReplay j 0x40 0
      else (conPackets c.peer b.fjob s.coord.toNat c.tag c.data).foldl (fun s x => s.sendDir c.dir x) s

/-- RESEND (R484). -/
def execResend (h : PHdr) (s : State) : Host.Outcome State Fault Refusal := .next (if s.on then s.recvResend h else s)

/-- A unit of a scatter-add is added into DST in order of arrival (R481). -/
def State.recvScatter (s : State) (h : PHdr) (data : List Byte) : State :=
  s.forJob h fun _ b =>
    match b.cols[h.tagf 32 6]? with
    | none => s
    | some c =>
      if c.op ≠ 4 ∨ data.length ≠ 64 ∨ !b.wants (h.tag.toNat % 2 ^ 38) then s
      else s.addUnit b c (h.tagf 38 26) (codesOf 4 16 data)

/-- SCATTER_ADD (R481). -/
def execScatterAdd (h : PHdr) (data : List Byte) (s : State) : Host.Outcome State Fault Refusal :=
  .next (if s.on then s.recvScatter h data else s)

/-! ### The end of a flight (R475, R476, R480) -/

/-- The elements that an entry writes on this module: all of them; of a reduce-scatter its own chunk; of a scatter-add
those of the other owners, whose sums it has been sent (R477, R481). -/
def colWrites (c : ColEnt) (gs : List ColStage) (f : Flight) : List Nat :=
  let n := (gs.map (·.size)).foldl (· * ·) 1
  match c.op with
  | 1 => colRange (List.range c.nelem) gs
  | 4 => ((List.range n).filter (· ≠ colRank gs)).flatMap fun q =>
      (scatterUnits c n q false ++ scatterUnits c n q true).flatMap (unitElems c)
  | _ => List.range f.buf.length

/-- COLLECTIVE_END: an entry whose phases are done, and whose contributions are acknowledged, writes DST and HDR, and its
flight ends (R475, R476, R480). -/
def execCollectiveEnd (j : Nat) (entry : BitVec 6) (s : State) : Host.Outcome State Fault Refusal :=
  let e := entry.toNat
  .next (match s.on, s.job? j with
    | true, some b =>
      match b.flights.find? (fun f => f.entry = e && !f.done), b.cols[e]? with
      | some f, some c =>
        let gs := s.colStages c
        if f.adding ∨ f.phase < (colPhases c.op gs.length).length
            ∨ b.sent.any (fun x => bitsOf x.tag 32 6 = e && !x.acked) then s
        else
          let s := s.jobPuts b ((colWrites c gs f).map fun i => (c.dst + c.code * i, leBytes c.code (f.buf.getD i 0)))
          let s := if c.hdr ≠ 0 ∧ c.op ≤ 1 ∧ !c.post then
              s.jobPut b c.hdr (leBytes 8 f.step ++ leBytes 4 (s.colGroup c) ++ [0, 0, 0, 0])
            else s
          (s.setJob j (b.setFlight { f with done := true, buf := [] })).reap
      | _, _ => s
    | _, _ => s)

end Sys2Proof.Machine
end

