-- ==== Sys2Proof/Machine/Debug.lean ====
section
/-! DEFINITION. JTAG and debug: the TAP's instructions, tokens and DBG_TRIG (R569, R592). -/

namespace Sys2Proof.Machine

/-- The TAP is powered. -/
def State.tapOn (s : State) : Bool :=
  decide (s.power.phase ≠ .off) && decide (s.power.phase ≠ .thermalOff) && decide (s.power.phase ≠ .saving)

/-- The debug scope in force: SEC_STAT.DBG (R562, R569). -/
def State.scope (s : State) : Nat := bitsOf s.sec.stat.toNat 25 2

/-- The bits of a number, lowest first, as they leave TDO. -/
def bitsOut (v n : Nat) : List Bool := (List.range n).map v.testBit

/-- The state with the TAP's instruction replaced. -/
def State.setTap (s : State) (t : Tap) : State := { s with sec := { s.sec with tap := t } }

/-- The one-bit bypass register between TDI and TDO (IEEE 1149.1, R569). -/
def State.passBits (s : State) (tdi : List Bool) : State := (s.setTap .bypass).emit (.tdo (false :: tdi.dropLast))

/-- BYPASS (R569). -/
def execBypass (tdi : List Bool) (s : State) : Host.Outcome State Fault Refusal := .next (if s.tapOn then s.passBits tdi else s)

/-- IDCODE (R569). -/
def execIdcode (s : State) : Host.Outcome State Fault Refusal :=
  .next (if s.tapOn then (s.setTap .idcode).emit (.tdo (bitsOut Config.idcode.toNat 32)) else s)

/-- The pins as they stand, for as many cells as were shifted in. -/
def State.sampled (s : State) (n : Nat) : List Bool :=
  (List.range n).map fun i => (Config.pinSample (s.free + i / 64)).toNat.testBit (i % 64)

/-- SAMPLE/PRELOAD: the pins go out, the preload waits in the boundary-scan register (R569). -/
def execSamplePreload (preload : List Bool) (s : State) : Host.Outcome State Fault Refusal :=
  .next (if s.tapOn then
      let t := s.setTap .sample
      ({ t with sec := { t.sec with pins := preload }, free := t.free + (preload.length + 63) / 64 }).emit
        (.tdo (s.sampled preload.length))
    else s)

/-- A job is resident. -/
def State.anyResident (s : State) : Bool := s.mill.jobs.any fun p => p.2.st = .resident

/-- EXTEST: under scope 2, while no job is resident; else it acts as BYPASS (R569). -/
def execExtest (pins : List Bool) (s : State) : Host.Outcome State Fault Refusal :=
  .next (if !s.tapOn then s
    else if s.scope = 2 ∧ !s.anyResident then
      let t := s.setTap .extest
      ({ t with sec := { t.sec with pins := pins }, free := t.free + (pins.length + 63) / 64 }).emit (.tdo (s.sampled pins.length))
    else s.passBits pins)

/-- DBG_NONCE (R569). -/
def execDbgNonce (s : State) : Host.Outcome State Fault Refusal :=
  .next (if s.tapOn then s.emit (.tdo (bitsOut s.sec.nonce.toNat 64)) else s)

/-- The bytes of a token that its signature covers (R569). -/
def tokenBytes (t : Token) : List Byte :=
  leBytes 8 t.serial.toNat ++ leBytes 8 t.nonce.toNat ++ [t.scope, t.signer] ++ leBytes 512 t.modulus.toNat

/-- The checks of a token (R569). -/
def State.tokenOk (s : State) (t : Token) : Bool :=
  t.serial.toNat = s.bank 0 8 && t.nonce = s.sec.nonce && (t.scope = 1 || t.scope = 2)
  && ((t.signer = 0 && s.vendorKey t.modulus && (!s.owned || t.scope = 1)) || (t.signer = 1 && s.ownerKey t.modulus))
  && pssVerify t.modulus.toNat t.sig.toNat (tokenBytes t)

/-- DBG_TOKEN: an accepted token extends SEC_MEAS9, then unlocks its scope; an unlock of a wider scope lasts (R569). The nonce changes
after every attempt. -/
def execDbgToken (t : Token) (s : State) : Host.Outcome State Fault Refusal :=
  .next (if !s.tapOn then s
    else
      let d := s.draw
      let x := d.2
      let x := { x with sec := { x.sec with nonce := d.1.truncate 64 } }
      if !s.tokenOk t then x
      else
        let x := x.extend 9 (sha512 (tokenBytes t ++ leBytes 512 t.sig.toNat))
        { x with sec := { x.sec with
            stat := (x.sec.stat &&& 0xF9FFFFFF) ||| BitVec.ofNat 32 (max s.scope (t.scope.toNat % 4) * 2 ^ 25) } })

/-- DBG_TRIG_CLAIM: under scope 2 the land stops driving PPS_OUT; any other claim is refused with RESOURCE_HELD (R569,
R592). -/
def execDbgTrigClaim (s : State) : Host.Outcome State Fault Refusal :=
  .next (if !s.tapOn then s
    else if s.scope ≠ 2 then s.emit .held
    else
      let t := { s with sec := { s.sec with dbgTrig := true } }
      if t.time.ppsOut then ({ t with time := { t.time with ppsOut := false } }).emit (.pps false) else t)

/-- DBG_TRIG_RELEASE (R592). -/
def execDbgTrigRelease (s : State) : Host.Outcome State Fault Refusal :=
  .next (if s.tapOn && s.scope = 2 && s.sec.dbgTrig then { s with sec := { s.sec with dbgTrig := false } } else s)

end Sys2Proof.Machine
end

