-- ==== Sys2Proof/Machine/Draws.lean ====
section
/-! DEFINITION. The Twist instructions (R421): issue; Machine/ReelRun.lean says what they do. -/

namespace Sys2Proof.Machine

/-- What the issue of a Twist instruction needs (R421). -/
def twIss (g : EForm) : Iss :=
  let se := g.modf 14 5
  { major := 0x1C, form := g, bad := se = 0 || se = 31 || g.modf 0 9 ≠ 0, engine := .twist, descs := [g.desc.toNat]
    params := [g.modf 19 5, se, se + 1, g.modf 9 5] }

/-- TW.BITS: issues program draws (R356, R421). -/
def execTwBits (w : Who) (f : EForm) (s : State) : Host.Outcome State Fault Refusal :=
  let g := f.op 24 2 0
  .next (s.issue w (.twBits w g) (twIss g))

/-- TW.MASK: issues program draws (R356, R421). -/
def execTwMask (w : Who) (f : EForm) (s : State) : Host.Outcome State Fault Refusal :=
  let g := f.op 24 2 1
  .next (s.issue w (.twMask w g) (twIss g))

/-- TW.UNIF: issues program draws (R356, R421). -/
def execTwUnif (w : Who) (f : EForm) (s : State) : Host.Outcome State Fault Refusal :=
  let g := f.op 24 2 2
  .next (s.issue w (.twUnif w g) (twIss g))

end Sys2Proof.Machine
end

