-- ==== Sys2Proof/Machine/Links.lean ====
section
/-! DEFINITION. Skein links (R456 to R465, R472): replay, sparing, failure, retraining, discovery, and the loss of a
neighbour. -/

namespace Sys2Proof.Machine

/-- NCOORD of a link (R461). -/
def Link.ncoord (l : Link) : Nat := bitsOf l.lstat.toNat 10 14

/-- Adds to a field of SKN_LERR, saturating (R462). -/
def Link.count (l : Link) (lo w n : Nat) : Link :=
  let v := l.lerr.toNat
  let x := min (2 ^ w - 1) (bitsOf v lo w + n)
  { l with lerr := BitVec.ofNat 64 (v - bitsOf v lo w * 2 ^ lo + x * 2 ^ lo) }

/-- A LINK record (R546): the link or lane, its neighbour, N. -/
def State.linkRec (s : State) (loc : Word) (ncoord n : Nat) : State :=
  s.baroWrite 0x09 1 true [loc, locW .coord ncoord, codeW 0 n 0]

/-- A link as it stands after it went down: status, counts and history stay; what it was carrying goes. -/
def Link.stopped (l : Link) (state : Nat) : Link :=
  { lstat := l.lstat, lerr := l.lerr, fails := l.fails, tried := l.tried : Link }.setState state

/-- A link fails (R459): the flows that used it go to the lowest-numbered UP link of its group, and its unacknowledged packets go out
there first, in order, before those that waited for credits. Where the group has none left, they wait for the reroute (R472). -/
def State.failLink (s : State) (n : Nat) : State :=
  let l := s.link n
  if !l.up && l.state ≠ 1 then s
  else
    let s := s.setLink n { l.stopped 5 with fails := l.fails ++ [s.ns], tried := false }
    let s := s.linkRec (locW .link n) l.ncoord 1
    match s.upLinks (n / 6) with
    | [] =>
      let ps := l.unacked.map (fun p => (p.2.1, p.2.2, none)) ++ l.waiting.map fun w => (w.1, w.2.1, w.2.2.map (·.1))
      { s with fabric := { s.fabric with stranded := s.fabric.stranded ++ ps } }
    | m :: _ =>
      let s := { s with fabric := { s.fabric with via := s.fabric.via.map fun v => if v.2 = n + 1 then (v.1, m + 1) else v } }
      let s := l.unacked.foldl (fun s p => s.transmit m p.2.1 p.2.2 none) s
      l.waiting.foldl (fun s w => s.transmit m w.1 w.2.1 w.2.2) s

/-- LINK_FAIL (R458, R459). -/
def execLinkFail (link : BitVec 6) (s : State) : Host.Outcome State Fault Refusal :=
  .next (if s.on then s.failLink link.toNat else s)

/-- A lane's corrected symbols in the last 1 ms exceed 16 × THRESH (R458, R460). -/
def State.laneBad (s : State) (n lane : Nat) : Bool :=
  decide (16 * bitsOf s.fabric.lcfg.toNat 8 8
    < ((s.link n).fixes.filter fun f => f.1 = lane && decide (s.ns < f.2 + 1000000)).length)

/-- The spare lane of an UP link takes over a lane: the lane is retired, and the repair list holds it (R458, R541, R552). -/
def State.spareLane (s : State) (n lane : Nat) : State :=
  let l := s.link n
  let loc := locW .lane (n * 16 + lane)
  ((s.setLink n { (l.setState 3).setSpared lane with fixes := l.fixes.filter fun f => f.1 ≠ lane }).linkRec loc l.ncoord 0).repairNote loc

/-- LANE_SPARE: the spare lane takes over a lane whose corrections pass the threshold, from the next flit on, which a link-control flit
names; a second lane fails the link (R458; log entry 112). -/
def execLaneSpare (link : BitVec 6) (lane : BitVec 3) (s : State) : Host.Outcome State Fault Refusal :=
  let n := link.toNat
  let l := s.link n
  .next (if !s.on || !s.laneBad n lane.toNat then s
    else if l.state = 3 then s.failLink n
    else if l.state = 2 then
      let t := s.flushLink n
      (t.control n 1 [lane.toNat, (t.link n).txSeq.toNat + 1] (.laneSwitch n lane.toNat ((t.link n).txSeq + 1))).spareLane n lane.toNat
    else s)

/-- The other end asks for a lane switch: the spare lane takes the lane over from the next flit on (R458; log entry 112). -/
def State.laneAsked (s : State) (n lane : Nat) : State := if (s.link n).state = 2 then s.spareLane n lane else s

/-- The failures of a link within 24 hours (R459). -/
def State.recentFails (s : State) (n : Nat) : Nat := ((s.link n).fails.filter fun t => s.ns < t + dayNs).length

/-- LINK_RETRAIN: a failed link is retrained once, or retired when its failures within 24 hours reach RETIRE (R459). -/
def execLinkRetrain (link : BitVec 6) (trained : Bool) (s : State) : Host.Outcome State Fault Refusal :=
  let n := link.toNat
  let l := s.link n
  .next (if !s.on || l.state ≠ 5 || l.tried then s
    else if s.fabric.lcfg.toNat % 256 ≤ s.recentFails n then
      let s := (s.setLink n (l.setState 6)).repairNote (locW .link n)
      s.baroWrite 0x06 3 true [locW .link n, codeW 0x09 (s.recentFails n) 0]
    else if trained then (s.setLink n (l.setState 1)).linkRec (locW .link n) l.ncoord 3
    else s.setLink n { l with tried := true })

/-- Whether what the neighbour sent in discovery matches the wiring rule (R463, R465). -/
def State.wired (s : State) (n : Nat) (theirs nlink : Nat) : Bool :=
  let c := s.fabric.cinuse.toNat
  let g := n / 6
  let d := g / 2
  let size := sizeIn c d
  (List.range 4).all (fun e => sizeIn theirs e = sizeIn c e)
  && (List.range 4).all (fun e =>
      if e = d then coordIn theirs d = (if g % 2 = 0 then (coordIn c d + 1) % size else (coordIn c d + size - 1) % size)
      else coordIn theirs e = coordIn c e)
  && nlink = 6 * (g ^^^ 1) + n % 6

/-- The skein links run: in phase 7 of start-up, and from ready on (R465, R581). -/
def State.skeinOn (s : State) : Bool := s.on || decide (s.power.phase = .starting ∧ s.power.reached = 7)

/-- STATE of a link that comes up: 3 where the spare lane serves one of its lanes (R461, R552). -/
def Link.upState (l : Link) : Nat := if bitsOf l.lstat.toNat 25 4 = 15 then 2 else 3

/-- LINK_DISCOVERY: after training the ends exchange SKN_CINUSE and link numbers, and the link becomes UP or MISWIRED
(R461, R465, R581). Packets that found no link of its direction leave (R472). -/
def execLinkDiscovery (link : BitVec 6) (theirs : BitVec 32) (nlink : BitVec 6) (s : State) :
    Host.Outcome State Fault Refusal :=
  let n := link.toNat
  let l := s.link n
  .next (if !s.skeinOn || l.state ≠ 1 then s
    else
      let s := s.emit (.linkCtl n s.fabric.cinuse n)
      let l := { l with lstat :=
        (l.lstat &&& 0xFF00000F) ||| BitVec.ofNat 32 (theirs.toNat % 2 ^ 14 * 2 ^ 10 + nlink.toNat * 2 ^ 4) }
      if s.wired n theirs.toNat nlink.toNat then
        let s := s.setLink n (l.setState l.upState)
        let f := s.fabric
        State.release { s with fabric := { f with
            lost := f.lost &&& ~~~(1#8 <<< (n / 6)), via := f.via.filter fun v => (v.2 - 1) / 6 ≠ n / 6 } }
      else (s.setLink n (l.setState 4)).linkRec (locW .link n) l.ncoord 2)

/-! ### Replay (R456, R457) -/

/-- LINK_REPLAY_REQUEST: the flits kept from the named one on are sent again, in order (R457). -/
def execLinkReplayRequest (link : BitVec 6) (fseq : BitVec 12) (s : State) : Host.Outcome State Fault Refusal :=
  let n := link.toNat
  .next (if !s.on || !(s.link n).up then s
    else
      let s := s.flushLink n
      let l := s.link n
      (l.since fseq).foldl (fun s f => s.emit (.linkFlit n (l.wire f))) s)

/-! ### A lost neighbour (R472) -/

/-- The coordinates of the modules that a job exchanges packets with by name. -/
def Job.peers (b : Job) : List Nat :=
  b.chans.map (·.peer.toNat) ++ (match b.pair with
    | some p => p.ents.map (·.peer.toNat)
    | none => [])

/-- Two breaks of a ring of `n` modules part positions a and b: break k lies between k and k + 1. One of them then lies on each way
from a to b. -/
def parted (n a b k k' : Nat) : Bool :=
  let on (k : Nat) : Bool := decide ((k + n - a) % n < (b + n - a) % n)
  on k != on k'

/-- The place on the ring of dimension d of the lost pair in direction g: between it and the next (R463). -/
def State.breakOf (s : State) (g : Nat) : Nat :=
  let n := sizeIn s.fabric.cinuse.toNat (g / 2)
  let a := coordIn s.fabric.cinuse.toNat (g / 2)
  if g % 2 = 0 then a else (a + n - 1) % n

/-- Packets between this module and `c` travel this module's ring of dimension d: those it sends where the two agree in every dimension
before d, those it gets where they agree in every one behind it (R466). -/
def State.usesRing (s : State) (c d : Nat) : Bool :=
  let same (e : Nat) : Bool := coordIn s.coord.toNat e = coordIn c e
  ((List.range 4).all fun e => d ≤ e || same e) || ((List.range 4).all fun e => e ≤ d || same e)

/-- A job has traffic, on this module's ring of dimension d, that two breaks of the ring cut off: with a module on their other side, or
of a collective around the whole ring (R472). -/
def State.cutOff (s : State) (b : Job) (d k k' : Nat) : Bool :=
  let n := sizeIn s.fabric.cinuse.toNat d
  decide (k ≠ k') && ((b.peers.any fun c => s.usesRing c d && parted n (coordIn s.coord.toNat d) (coordIn c d) k k')
    || b.cols.any fun c => c.dims.testBit d)

/-- A job ends for want of the fabric (R472). -/
def State.fabricDown (s : State) (j : Nat) (b : Job) : State :=
  (s.baroWrite 0x0A 2 true [jobW b, codeW 0x66 0 0, noLoc]).endJob j 0x66

/-- NEIGHBOUR_LOST: no link of a direction is up. Routes go the other way round, and each job with fabric traffic replays
its step or ends (R472). `g.other` is where else the ring of that dimension is broken, if it is: between that component and the next
(log entry 112). -/
def execNeighbourLost (g : RingBreak) (s : State) : Host.Outcome State Fault Refusal :=
  let n := g.dir.toNat
  .next (if !s.on || sizeIn s.fabric.cinuse.toNat (n / 2) = 1 || s.upLinks n ≠ [] || s.fabric.lost.toNat.testBit n then s
    else
      let s := State.release { s with fabric := { s.fabric with lost := s.fabric.lost ||| (1#8 <<< n) } }
      let breaks := (if s.fabric.lost.toNat.testBit (n ^^^ 1) then [s.breakOf (n ^^^ 1)] else []) ++ g.other.toList
      s.mill.jobs.foldl (fun s p =>
        if p.2.fjob = 0 || p.2.st = .waiting || p.2.endWith.isSome then s
        else if !p.2.steps || breaks.any (s.cutOff p.2 (n / 2) (s.breakOf n)) then s.fabricDown p.1 p.2
        else s.needReplay p.1 0x66 0) s)

end Sys2Proof.Machine
end

