-- ==== Sys2Proof/Machine/Flits.lean ====
section
/-! DEFINITION. Flits as they arrive: the check, the order, the packets they carry, and their delivery or forwarding (R456,
R457, R459, R466 to R469). -/

namespace Sys2Proof.Machine

/-- A packet that this module keeps, by class and TYPE (R469). Reserved classes and types have no receiver. -/
def State.deliver (s : State) (n : Nat) (h : PHdr) (data : List Byte) : State :=
  match h.tc, h.type with
  | 0, 0 => s.recvSync n h.tag
  | 0, 1 => s.recvDelayReq n h.tag
  | 0, 2 => s.recvDelayResp n h.tag
  | 1, 0 => if data.length = 64 then s.recvCommand h.src.toNat (h.tag >>> 8) (BitVec.ofNat 512 (leNat data)) else s
  | 1, 1 => s.recvAck h
  | 1, 2 => s.recvResend h
  | 2, 0 => s.recvRecord h data
  | 2, 1 => s.recvCredit h
  | 2, 2 => s.recvRewind h
  | 3, 0 => s.recvPipe h data
  | 3, 1 => s.recvPipe h data
  | 3, 2 => s.recvNotice h
  | 4, 0 => s.recvData h data
  | 4, 1 => if data.length = 16 then s.recvDigest h (BitVec.ofNat 128 (leNat data)) .none else s
  | 5, 0 => s.recvScatter h data
  | _, _ => s

/-- A whole packet that came on a link: a repeated one is discarded by its PSEQ (R459), one for this module is delivered, any
other goes on (R466). The room of a packet that does not go on is returned as credit (R467). -/
def State.arrive (s : State) (n : Nat) (h : PHdr) (data : List Byte) : State :=
  let last := s.fabric.seen.get h.flowKey 0
  let back (s : State) : State := s.credit n h.vc (packetSize data)
  if last ≠ 0 ∧ (h.pseq - BitVec.ofNat 32 (last - 1)).toInt ≤ 0 then back s
  else
    let s := { s with fabric := { s.fabric with seen := s.fabric.seen.set h.flowKey (h.pseq.toNat + 1) 0 } }
    if h.dst.toNat % 2 ^ 14 = s.coord.toNat then back (s.deliver n h data)
    else s.routeOut h data (some n)

/-- Takes the whole packets out of the bytes of a link; zeros behind the last one fill the flit (log entry 16). What is left
waits for the next flit. -/
def State.unpack (s : State) (n : Nat) : Nat → List Byte → State × List Byte
  | 0, bs => (s, bs)
  | k + 1, bs =>
    if bs.all (· = 0) then (s, [])
    else
      let h := PHdr.ofBytes (bs.take 24)
      if bs.length < 24 ∨ bs.length < 24 + h.len.toNat then (s, bs)
      else (s.arrive n h ((bs.drop 24).take h.len.toNat)).unpack n k (bs.drop (24 + h.len.toNat))

/-- A flit that failed its CRC: it is counted, asked for again and awaited; sixteen within 1 ms fail the link (R457, R458). -/
def State.badFlit (s : State) (n : Nat) : State :=
  let l := (s.link n).count 48 16 1
  let l := { l with uncorr := (l.uncorr ++ [s.ns]).filter fun t => s.ns < t + 1000000, awaiting := true }
  if 16 ≤ l.uncorr.length then (s.setLink n l).failLink n
  else (s.setLink n (l.count 32 16 1)).emit (.linkResend n l.nextSeq)

/-- A data flit in order: its packets are taken (R456, R457). A link that a packet of the flit brings down loses the rest. -/
def State.goodFlit (s : State) (n : Nat) (data : List Byte) : State :=
  let l := s.link n
  let s := s.setLink n { l with nextSeq := l.nextSeq + 1, awaiting := false, rx := [] }
  let o := s.unpack n 256 (l.rx ++ data)
  o.1.setLink n { o.1.link n with rx := o.2 }

/-- The bytes that FEC corrected are counted, by lane and in all (R456, R458, R462). -/
def State.countFixes (s : State) (n : Nat) (fixed : List Nat) : State :=
  let l := (s.link n).count 0 32 fixed.length
  let old := l.fixes.filter fun f => decide (s.ns < f.2 + 1000000)
  s.setLink n { l with fixes := old ++ fixed.map fun b => (b % 8, s.ns) }

/-- A link-control flit in order: the credits that it returns give the neighbour's buffers room again, and waiting packets leave (R467);
and the lane switch that it asks for takes place (R458). -/
def State.controlFlit (s : State) (n : Nat) (data : List Byte) : State :=
  let l := s.link n
  let spent := (Config.creditsIn data).foldl (fun t c => t.set c.1 (t.get c.1 0 - c.2) 0) l.spent
  let s := (s.setLink n { l with nextSeq := l.nextSeq + 1, awaiting := false, spent := spent }).drain n
  match Config.laneIn data with
  | some lane => s.laneAsked n lane.toNat
  | none => s

/-- FLIT_RECEIVE: `flit` holds the bytes after FEC, `fixed` the places of the bytes that FEC corrected (R456 to R459, R462, R467). While a
failed flit is awaited, every flit but it is discarded, whatever it says (R457). -/
def execFlitReceive (link : BitVec 6) (flit : List Byte) (fixed : List Nat) (s : State) : Host.Outcome State Fault Refusal :=
  let n := link.toNat
  .next (if !s.on || !(s.link n).up || flit.length ≠ 272 then s
    else
      let s := s.countFixes n fixed
      if crc32 (flit.take 260) ≠ leNat ((flit.drop 260).take 4) then s.badFlit n
      else
        let f (o : Nat) : Nat := leNat ((flit.drop o).take 2)
        let ack := BitVec.ofNat 12 (f 258)
        let type := f 256 / 2 ^ 12
        let l := s.link n
        let next := (type = 0 ∨ type = 2) ∧ BitVec.ofNat 12 (f 256) = l.nextSeq
        if l.awaiting ∧ ¬next then s
        else
          let s := s.setLink n { l with unacked := l.unacked.filter fun u => (ack - u.1).msb }
          if ¬next then s
          else if type = 2 then s.controlFlit n (flit.take 256)
          else s.goodFlit n (flit.take 256))

end Sys2Proof.Machine
end

