-- ==== Sys2Proof/Machine/Memory.lean ====
section
/-! DEFINITION. The memory tiers: requests and atomic operations at the memory (R449, R450), scrubbing, spare rows and
poison (R451 to R454), and the CXL ports (R427). -/

namespace Sys2Proof.Machine

/-! ### Requests and atomic operations (R449, R450) -/

/-- HBM_REQUEST: the controller of a stack serves one request of 64 bytes: a write stores it, a read hands the unit to its
requestor (R449, R450; log entry 39). -/
def execHbmRequest (stack : BitVec 4) (unit : BitVec 30) (store : Option Line) (s : State) :
    Host.Outcome State Fault Refusal :=
  let key := keyOf 1 (stack.toNat * 2 ^ 36 + unit.toNat * 64)
  .next (if !s.on || decide (22888 * 32768 ≤ unit.toNat) then s
    else match store with
      | some v =>
        let ws := (leBytes 64 v.toNat).zipIdx.map fun p => (key + p.2, p.1)
        { s with mem := Mem.setAll s.mem ws, poison := s.healed ws }
      | none => s.emit (.rowData key (BitVec.ofNat 512 (s.natAt key 64)) (s.poison.any fun u => u / 64 = key / 64)))

/-- A place where memory performs atomic operations (R450): a bobbin, a creel, HBM, or CXL behind a port that answers; the
operand lies in one unit. -/
def State.atomicPlace (s : State) (key size : Nat) : Bool :=
  let port := s.ports.get (offOf key / 2 ^ 42) {}
  s.on && key % size = 0
  && (spaceOf key = 1 || spaceOf key = 3 || spaceOf key = 4 || (spaceOf key = 2 && !port.lost && !port.givenUp))

/-- One atomic operation at a key of the physical memory. -/
def State.atomicCmd (s : State) (kind : AtomKind) (key size v : Nat) : State :=
  if s.atomicPlace key size then s.atomicAt ⟨kind, key, v⟩ else s

/-- ATOMIC_FP32_ADD (R450). -/
def execAtomicFp32Add (addr : Nat) (v : BitVec 32) (s : State) : Host.Outcome State Fault Refusal :=
  .next (s.atomicCmd .fadd addr 4 v.toNat)

/-- ATOMIC_FP32_MAX (R450). -/
def execAtomicFp32Max (addr : Nat) (v : BitVec 32) (s : State) : Host.Outcome State Fault Refusal :=
  .next (s.atomicCmd .fmax addr 4 v.toNat)

/-- ATOMIC_U64_ADD (R450). -/
def execAtomicU64Add (addr : Nat) (v : Word) (s : State) : Host.Outcome State Fault Refusal :=
  .next (s.atomicCmd .uadd addr 8 v.toNat)

/-- ATOMIC_BYTE_OR (R450). -/
def execAtomicByteOr (addr : Nat) (v : Byte) (s : State) : Host.Outcome State Fault Refusal :=
  .next (s.atomicCmd .bor addr 1 v.toNat)

/-! ### Spare rows and retirement (R451 to R454) -/

/-- The part that holds the spare rows of a key, and how many it has: a bobbin bank, a creel bank, or an HBM stack (R425,
R448, R451; log entry 38). -/
def sparesOf (key : Nat) : Nat × Nat :=
  let o := offOf key
  if spaceOf key = 4 then (keyOf 4 (o / 2 ^ 24 * 2 ^ 24 + o % 2 ^ 24 / 64 % 32), 8)
  else if spaceOf key = 3 then (keyOf 3 (o / 2 ^ 25 * 2 ^ 25 + o % 2 ^ 25 / 64 % 64), 8)
  else (keyOf 1 (o / 2 ^ 36), Config.repairRows)

/-- The tier number of a key, as a REPAIR record gives it: creel 0, HBM 1 (R434), and 4 for a bobbin (log entry 38). -/
def tierOf (key : Nat) : Nat := if spaceOf key = 3 then 0 else if spaceOf key = 1 then 1 else 4

/-- A page entry `n` whose page moves to a place that is free; where there is none, the job ends. -/
def State.movePageTo (s : State) (j : Nat) (creel : Bool) (n : Nat) (e : Word) (dest : Option (Nat × Nat)) : State :=
  match dest with
  | none => (s.endJob j 0x62).reap
  | some (tier, ppn) =>
    let e' := BitVec.ofNat 64 (e.toNat / 2 ^ 63 * 2 ^ 63 + tier * 2 ^ 61 + bitsOf e.toNat 43 18 * 2 ^ 43 + ppn)
    s.copyTo j creel n e' none (s.pageLoc e 0) (s.pageLoc e' 0)

/-- A page entry whose page moves to a free page of HBM in the order of R437 for its place in its region, else of CXL memory. -/
def State.movePage (s : State) (j : Nat) (creel : Bool) (page : Nat) (e : Word) : State :=
  match s.job? j with
  | none => s
  | some b =>
    let low := (b.lspnList.map s.hframe).min?.getD 0 / 8
    let at_ := match b.regionOf (if creel then 2 ^ 35 + page else page) with
      | some (r, i) => (if r.tier = 0 then r.pref / 8 else if r.pref = 0xFF then low else r.pref, i)
      | none => (low, 0)
    let u := s.used
    s.movePageTo j creel page e
      (((u.anyHbm at_.1 at_.2).map fun n => (1, n)).or ((s.anyCxl u at_.1).map fun n => (2, n)))

/-- A job's save area gives up a page for another (R437, R454). -/
def State.moveSavePage (s : State) (j ppn : Nat) : State :=
  match s.used.anyHbm (ppn / 131072) 0 with
  | some n => s.modJob j fun b => { b with savePages := b.savePages.map fun p => if p = ppn then n else p }
  | none => (s.endJob j 0x62).reap

/-- Moves every job page off a place, given as the tier and PPN of its entries (R437, R454). -/
def State.vacate (s : State) (tier ppn : Nat) : State :=
  let here (e : Word) : Bool := e.msb && entTier e = tier && entPpn e = ppn
  s.mill.jobs.foldl (fun s p =>
    let s := (p.2.pages.filter fun q => here q.2).foldl (fun s q => s.movePage p.1 false q.1 q.2) s
    let s := (p.2.creelMap.filter fun q => here q.2).foldl (fun s q => s.movePage p.1 true q.1 q.2) s
    if tier = 1 ∧ ppn ∈ p.2.savePages then s.moveSavePage p.1 ppn else s) s

/-- A part has used all its spare rows and needs another: the spindle, the creel slot or the HBM page is retired (R454). -/
def State.retirePart (s : State) (key n : Nat) : State :=
  let o := offOf key
  if spaceOf key = 4 then s.retireSite (o / 2 ^ 24) 0x07 n
  else if spaceOf key = 3 then
    let slot := o / 2 ^ 21
    let f := s.frame (slot / 16)
    let s := s.setFrame (slot / 16) { f with retired := f.retired ||| (1#16 <<< (slot % 16)) }
    let s := (s.baroWrite 0x06 3 true [locW .slot slot, codeW 0x07 n 0]).repairNote (locW .slot slot)
    s.vacate 0 slot
  else
    let page := o / 2 ^ 21
    let s := { s with retired := s.retired ++ [page] }
    let s := (s.baroWrite 0x06 3 true [locW .page page, codeW 0x07 n 0]).repairNote (locW .page page)
    s.vacate 1 page

/-- A row goes to a spare row, or its part is retired (R452, R454). -/
def State.repairRow (s : State) (key n : Nat) : State :=
  let sp := sparesOf key
  let row := key / 64 * 64
  match s.spareRow row sp.1 sp.2 (tierOf key) with
  | some t => t
  | none => State.retirePart { s with rowErr := s.rowErr.filter fun r => r.1 ≠ row } key n

/-- PATROL_SCRUB: a word is checked. A corrected error is counted for its row, and three within 24 hours give the row to a
spare; an uncorrectable one poisons its unit and retires the row (R451 to R454). Of CXL memory the expander checks the words and the
device hears a poison indication only (R451, R453; log entry 111). -/
def execPatrolScrub (addr : Nat) (found : EccFound) (s : State) : Host.Outcome State Fault Refusal :=
  let row := addr / 64 * 64
  let mark (s : State) : State :=
    let u := (poisonUnit addr).1
    { s with poison := if u ∈ s.poison then s.poison else s.poison ++ [u] }
  .next (if !s.on then s
    else if spaceOf addr = 2 then (if found = .uncorrectable then mark s else s)
    else if !(spaceOf addr = 1 || spaceOf addr = 3 || spaceOf addr = 4) then s
    else match found with
      | .clean => s
      | .corrected =>
        let r := s.countRow row
        if 3 ≤ r.2 then r.1.repairRow addr r.2 else r.1
      | .uncorrectable =>
        (mark s).repairRow addr 1)

/-! ### CXL ports (R427) -/

/-- A CXL port. -/
def State.port (s : State) (p : Nat) : Port := s.ports.get p {}

/-- The state with a CXL port replaced. -/
def State.setPort (s : State) (p : Nat) (x : Port) : State := { s with ports := s.ports.set p x {} }

/-- The number of a port operand. -/
def portNo (p : Bool) : Nat := if p then 1 else 0

/-- A LINK record of a CXL port (R427, R546). -/
def State.portRec (s : State) (p n : Nat) : State := s.baroWrite 0x09 1 true [noLoc, noLoc, codeW 0 n p]

/-- A page entry that lies on a CXL port. -/
def onPort (p : Nat) (e : Word) : Bool := e.msb && entTier e = 2 && entPpn e / 2 ^ 21 = p

/-- Gives a port up: the jobs with a page on it end with PAGE_FAULT, and the pages are unmapped (R427). -/
def State.giveUp (s : State) (p : Nat) : State :=
  let s := (s.setPort p { s.port p with givenUp := true }).portRec p 6
  s.mill.jobs.foldl (fun s q =>
    if (q.2.pages ++ q.2.creelMap).any fun e => onPort p e.2 then
      let s := s.modJob q.1 fun b => { b with
        pages := b.pages.filter (fun e => !onPort p e.2), creelMap := b.creelMap.filter fun e => !onPort p e.2 }
      (s.endJob q.1 0x56).reap
    else s) s

/-- An operation only writes through descriptor `n` of those it captured, and reads nothing there (R407 to R422). -/
def QOp.onlyWrites (q : QOp) (n : Nat) : Bool :=
  match q.op with
  | .mxF _ _ | .mxH _ _ | .mxQ _ _ | .mxRib32 _ _ | .mxRib16 _ _ | .accOpen _ _ | .updStat _ _ | .updApply _ _
  | .reelPsend _ _ | .shutEmit _ _ => false
  | .accDrain _ _ => decide (n = lineBytes q.desc0 1 1)
  | .reelIn _ _ | .reelOut _ _ => decide (n = lineBytes q.desc0 3 3)
  | _ => decide (n = q.form.desc.toNat) && decide (n ≠ q.modf 16 8) && decide (n ≠ q.modf 8 8)

/-- The device address at which a started operation reads a lost port's memory (R427): the first byte, in the order of its captured
descriptors, of those on a page of the port, in the paged space or behind the creel map of its frame. -/
def State.readsPort (s : State) (b : Job) (p : Nat) (q : QOp) : Option Nat :=
  let f := s.hframe q.lspn
  let pages := ((b.pages.filter fun e => onPort p e.2).map fun e => e.1 * 2 ^ 21)
    ++ (b.creelMap.filter fun e => onPort p e.2 && e.1 / 16 = f).map fun e => 2 ^ 56 + 0x10000000 + e.1 % 16 * 2 ^ 21
  q.descs.findSome? fun d =>
    let t := tensorRaw d.2
    if !descOk d.2 || q.onlyWrites d.1 then none
    else (t.segs t.rows t.rowLen .read).findSome? fun g =>
      (pages.find? fun a => decide (g.addr < a + 2 ^ 21 ∧ a < g.addr + g.len)).map (Nat.max g.addr)

/-- A started operation that reads a port as it is lost gets poisoned data: RESIDUE at its knot, and nothing written (R427, R453; log
entry 87). -/
def State.portFault (s : State) (p : Nat) (r : ROp) : ROp :=
  match s.job? r.q.job with
  | none => r
  | some b =>
    if r.code ≠ 0 then r
    else match s.readsPort b p r.q with
      | some a => { rop s r.q (Run.fail 0x40 a) with closes := r.closes }
      | none => r

/-- CXL_PORT_LOST (R427). -/
def execCxlPortLost (port : Bool) (s : State) : Host.Outcome State Fault Refusal :=
  let p := portNo port
  let x := s.port p
  .next (if !s.on || x.ids = [] || x.lost || x.givenUp then s
    else
      let s := s.mapSpns fun _ x => { x with running := x.running.map fun r => (r.1, s.portFault p r.2) }
      (s.setPort p { x with lost := true, since := s.ns, triedAt := s.ns }).portRec p 4)

/-- CXL_RETRAIN: the port returns if every expander presents the same serial number and capacity; another serial number
gives it up; a port where one is missing stays lost (R427). -/
def execCxlRetrain (port : Bool) (trained : Bool) (ids : List (Word × Word)) (s : State) :
    Host.Outcome State Fault Refusal :=
  let p := portNo port
  let x := s.port p
  .next (if !s.on || !x.lost || x.givenUp || decide (s.ns < x.triedAt + 10 ^ 10) then s
    else
      let s := s.setPort p { x with triedAt := s.ns }
      if !trained then s
      else if ids = x.ids then (s.setPort p { x with lost := false, triedAt := s.ns }).portRec p 5
      else if ids.any fun i => i.1 ∉ x.ids.map (·.1) then s.giveUp p
      else s)

/-- CXL_GIVE_UP: the port has not returned within 600 s (R427). -/
def execCxlGiveUp (port : Bool) (s : State) : Host.Outcome State Fault Refusal :=
  let p := portNo port
  let x := s.port p
  .next (if !s.on || !x.lost || x.givenUp || decide (s.ns < x.since + 600 * 10 ^ 9) then s else s.giveUp p)

end Sys2Proof.Machine
end

