-- ==== Sys2Proof/Machine/PowerUnit.lean ====
section
/-! DEFINITION. Power: start-up and its abort, resets, PERST#, the brownout save, operating points, sensors and thermal
shutdown (R573 to R595). -/

namespace Sys2Proof.Machine

/-! ### Start-up and resets (R573, R581 to R583, R593) -/

/-- START_UP: the next phase of start-up is done; the first once VIN48 has been good for 1 ms (R573, R581; log entry 49). -/
def execStartUp (s : State) : Host.Outcome State Fault Refusal := .next s.startPhase

/-- START_UP_ABORT: VIN48 falls during phases 1 to 4, in whose third a module in recovery stops; no save is made (R581, R583). -/
def execStartUpAbort (s : State) : Host.Outcome State Fault Refusal :=
  .next (if s.power.phase = .recovery ∨ s.power.phase = .starting ∧ s.power.reached < 4 then s.cleared .off 0 else s)

/-- MODULE_RESET: MOD_RESET_N begins start-up again at phase 2, without a save (R593). -/
def execModuleReset (s : State) : Host.Outcome State Fault Refusal :=
  .next (match s.power.phase with
    | .starting | .recovery | .ready => s.cleared .starting 1
    | _ => s)

/-- PERST_DEASSERT (R582). -/
def execPerstDeassert (s : State) : Host.Outcome State Fault Refusal :=
  .next { s with host := { s.host with perst := false } }

/-- PERST_ASSERT: after ready the host link's functions are reset (R492, R582), and the sessions over DOE lose their transport
(R567; log entry 50). -/
def execPerstAssert (s : State) : Host.Outcome State Fault Refusal :=
  let t := { s with host := { s.host with perst := true } }
  .next (if s.on then t.resetPf.closeTransport .doe else t)

/-- A configuration request takes its effect (R491): virtual functions are enabled or disabled, or a vector of the MSI-X table is set,
which sends the message that a mask has held back. -/
def State.configure (s : State) (f : Nat) (req : CfgReq) : State :=
  match req with
  | .read => s
  | .vfs n => if f = 0 then s.setVfs n.toNat else s
  | .vector v e =>
    let x := s.fn f
    let y := { x with msix := x.msix.set v.toNat e 0 }
    if y.masked v.toNat || !x.pba.getLsbD v.toNat then s.setFn f y
    else (s.setFn f { y with pba := y.pba &&& ~~~(1#64 <<< v.toNat) }).emit (.msix f v.toNat)

/-- CONFIG_REQUEST: Request Retry Status until the functions are ready (R582); then it has its effect (R491). -/
def execConfigRequest (ask : CfgTo) (s : State) : Host.Outcome State Fault Refusal :=
  .next (if s.host.perst || s.power.phase = .off || s.power.phase = .thermalOff || s.power.phase = .saving then s
    else if !s.host.fnReady then s.emit (.cfgRetry ask.fn.toNat)
    else if s.fnThere ask.fn.toNat then (s.configure ask.fn.toNat ask.req).emit (.cfgOk ask.fn.toNat) else s)

/-! ### The brownout save (R584 to R589) -/

/-- The save is armed: from the end of phase 4 on, while SAVE_VIN is at 11.0 V or above (R584), and command core 0, on whose commit it
depends, is alive (R123). -/
def State.armed (s : State) (saveDecivolts : Nat) : Bool :=
  (decide (s.power.phase = .ready) || (decide (s.power.phase = .starting) && decide (4 ≤ s.power.reached)))
  && s.core0 && decide (110 ≤ saveDecivolts)

/-- LINKS of the save area (R588). -/
def State.saveLinks (s : State) : List Byte :=
  (List.range 48).flatMap fun n =>
    let l := s.link n
    leBytes 4 l.lstat.toNat ++ leBytes 2 (bitsOf l.lerr.toNat 48 16) ++ [0, 0]

/-- One entry of JOBS (R588). -/
def Job.saveEntry (b : Job) : List Byte :=
  let ck := match b.camp with
    | some c => c.lastCk
    | none => 0
  leBytes 8 b.ref.toNat ++ [BitVec.ofNat 8 b.client, BitVec.ofNat 8 b.jslot, if b.camp.isSome then 3 else 1, 0, 0, 0, 0, 0]
    ++ leBytes 8 (b.step + 2 ^ 64 - 1) ++ leBytes 8 ck

/-- Puts a job behind those with a lower client and JSLOT. -/
def Job.insert (b : Job) : List Job → List Job
  | [] => [b]
  | c :: r => if b.client * 256 + b.jslot < c.client * 256 + c.jslot then b :: c :: r else c :: Job.insert b r

/-- JOBS: the resident and switched-out jobs, at most 128, lowest client and JSLOT first (R588). -/
def State.saveJobs (s : State) : List Byte :=
  let js := (s.mill.jobs.filter fun p => p.2.st ≠ .waiting).foldl (fun l p => p.2.insert l) []
  let bs := (js.take 128).flatMap Job.saveEntry
  bs ++ List.replicate (4096 - bs.length) 0

/-- TAIL: the newest records of the extension, whole, oldest first (R585, R588). -/
def State.saveTail (s : State) : List Byte :=
  let bs := (ringTrim 3016 s.baro.xring).flatMap fun r => r.words.flatMap fun w => leBytes 8 w.toNat
  bs ++ List.replicate (24128 - bs.length) 0

/-- The save area, with a STATUS (R588). -/
def State.saveArea (s : State) (status cause : Nat) : List Byte :=
  leBytes 8 status ++ leBytes 8 s.ns ++ leBytes 8 s.baro.next.toNat ++ leBytes 8 cause ++ List.replicate 32 0
    ++ s.saveLinks ++ s.saveJobs ++ s.saveTail

/-- A save starts: page 0 with STATUS = 2, then the other pages. Everything else stops; jobs never resume (R584, R586). -/
def State.save (s : State) (cause : Nat) : State :=
  let s := s.plainBytes saveBase (s.saveArea 2 cause)
  { s with power := { s.power with phase := .saving, cause := cause } }

/-- BROWNOUT_SAVE: PWR_FAIL_N (0), the internal monitor (1) or a thermal shutdown (2) triggers a save, where it is armed
(R584). -/
def execBrownoutSave (cause : BitVec 2) (saveDecivolts : BitVec 8) (s : State) : Host.Outcome State Fault Refusal :=
  .next (if s.armed saveDecivolts.toNat && decide (cause.toNat < 3) then s.save cause.toNat else s)

/-- The save domain stops: page 0 is written again, with STATUS = 1 where every word was verified (R586). The module is
off; after a thermal shutdown it stays so (R587, R595). -/
def State.endSave (s : State) (allVerified : Bool) : State :=
  let s := if allVerified then s.plainBytes saveBase ((s.bytesAt (keyOf 6 saveBase) 256).set 0 1) else s
  s.cleared (if s.power.cause = 2 then .thermalOff else .off) 0

/-- SAVE_END: the save ends; start-up begins again where VIN48 has been good for 1 ms (R573, R586, R587). -/
def execSaveEnd (allVerified vinGood : Bool) (s : State) : Host.Outcome State Fault Refusal :=
  .next (if s.power.phase ≠ .saving then s
    else
      let t := s.endSave allVerified
      if vinGood && decide (t.power.phase = .off) then t.startPhase else t)

/-- THERMAL_SHUTDOWN: a sensor at 110 °C or a loss of coolant flow: a save where it is armed, then every rail off (R595). -/
def execThermalShutdown (saveDecivolts : BitVec 8) (s : State) : Host.Outcome State Fault Refusal :=
  .next (match s.power.phase with
    | .off | .thermalOff => s
    | .saving => { s with power := { s.power with cause := 2 } }
    | _ => if s.armed saveDecivolts.toNat then s.save 2 else s.cleared .thermalOff 0)

/-- VIN48_REMOVED: VIN48 below 20 V ends a thermal shutdown's latch (R595). Nothing else runs without 48 V, and no save that has not begun
is made any more (R573, R584; log entry 49). -/
def execVin48Removed (s : State) : Host.Outcome State Fault Refusal :=
  .next (match s.power.phase with
    | .thermalOff => { s with power := { s.power with phase := .off } }
    | .off | .saving => s
    | _ => s.cleared .off 0)

/-! ### Operating points (R576 to R579) -/

/-- CUR of FRM_DVFS. -/
def Frame.point (f : Frame) : Nat := bitsOf f.dvfs.toNat 20 4

/-- TGT of FRM_DVFS. -/
def Frame.target (f : Frame) : Nat := bitsOf f.dvfs.toNat 16 4

/-- The rail of an operating point in millivolts: 600 + 50n / 3, to the nearest (R576). -/
def railOf (n : Nat) : Nat := 600 + (100 * n + 3) / 6

/-- FRM_DVFS from its parts (R579). -/
def dvfsWord (limT limP : Bool) (cur tgt : Nat) : BitVec 32 :=
  BitVec.ofNat 32 ((if limT then 2 ^ 31 else 0) + (if limP then 2 ^ 30 else 0) + cur % 16 * 2 ^ 20 + tgt % 16 * 2 ^ 16 + railOf cur)

/-- The frame with FRM_DVFS formed anew. -/
def Frame.setDvfs (f : Frame) (cur tgt : Nat) : Frame :=
  { f with dvfs := dvfsWord (decide (f.capT < tgt)) (decide (f.capP < tgt)) cur tgt }

/-- Whether a frame has a resident job context: that of a spindle whose array it clocks (R111, R577). -/
def State.residentOn (s : State) (f : Nat) : Bool :=
  s.spindles.any fun p => decide (s.seatFrame p.1 = f) && p.2.ctxs.any fun c => c.2.status ≠ .free

/-- A limit after 1 ms: one lower than the point while the cause holds, one higher once it has gone (R577). -/
def capNext (cap cur : Nat) (down up : Bool) : Nat :=
  if down then min cap cur - 1 else if up then min 15 (cap + 1) else cap

/-- A frame after 1 ms of residency, temperature and power (R577). -/
def Frame.retarget (f : Frame) (resident : Bool) (temp watts : Nat) : Frame :=
  let tgt := if resident then 15 else if 1 ≤ f.idleFor then 0 else f.target
  { f with
    idleFor := if resident then 0 else f.idleFor + 1
    capT := capNext f.capT f.point (decide (95 ≤ temp)) (decide (temp < 92))
    capP := capNext f.capP f.point (decide (2800 < watts)) (decide (watts < 2700)) : Frame }.setDvfs f.point tgt

/-- DVFS_UPDATE: once in each millisecond of the time counter, each frame's target and limits; `temps` holds each frame's hottest sensor
(R577). -/
def execDvfsUpdate (temps : List (BitVec 8)) (watts : BitVec 16) (s : State) : Host.Outcome State Fault Refusal :=
  .next (if !s.on || decide (s.ns / 10 ^ 6 ≤ s.power.dvfsAt) then s
    else (List.range 32).foldl (fun t f =>
      t.setFrame f ((t.frame f).retarget (s.residentOn f) (temps.getD f 0).toNat watts.toNat))
      { s with power := { s.power with dvfsAt := s.ns / 10 ^ 6 } })

/-- The point that a frame moves toward: its target, under its limits (R577). -/
def Frame.goal (f : Frame) : Nat := min f.target (min f.capT f.capP)

/-- A frame is due to rise from a power limit (R577). -/
def Frame.rising (f : Frame) : Bool := decide (f.capP < 15 ∧ f.point < f.goal)

/-- DVFS_STEP: a frame moves one point toward its target (R578). Frames that rise from a power limit rise in ascending order, the
highest-numbered last (R577). -/
def execDvfsStep (frame : BitVec 5) (s : State) : Host.Outcome State Fault Refusal :=
  let f := s.frame frame.toNat
  let cur := if f.point < f.goal then f.point + 1 else if f.goal < f.point then f.point - 1 else f.point
  .next (if !s.on || (f.rising && (List.range frame.toNat).any fun g => (s.frame g).rising) then s
    else s.setFrame frame.toNat (f.setDvfs cur f.target))

/-! ### Sensors (R580, R595) -/

/-- POWER_SAMPLE: PWR_STAT (R580). -/
def execPowerSample (watts vin10mv : BitVec 16) (tj hot saveDecivolts : BitVec 8) (s : State) :
    Host.Outcome State Fault Refusal :=
  .next (if s.on then { s with power := { s.power with stat := watts ++ vin10mv ++ tj ++ hot ++ (0 : BitVec 8) ++ saveDecivolts } }
    else s)

/-- THERMAL_EMERGENCY: a sensor at 105 °C sets every frame to point 0 at once (R595). -/
def execThermalEmergency (s : State) : Host.Outcome State Fault Refusal :=
  .next (if !s.on then s
    else (List.range 32).foldl (fun t f =>
      t.setFrame f ({ t.frame f with capT := 0 : Frame }.setDvfs 0 (t.frame f).target)) s)

/-- THERM_ALERT: THERM_ALERT_N is low while a junction sensor reads 95 °C or more (R595). -/
def execThermAlert (tj : BitVec 8) (s : State) : Host.Outcome State Fault Refusal :=
  let low := decide (95 ≤ tj.toNat)
  .next (if s.power.phase = .off || s.power.phase = .thermalOff || s.power.alert = low then s
    else ({ s with power := { s.power with alert := low } }).emit (.alert low))

end Sys2Proof.Machine
end

