-- ==== Sys2Proof/Machine/Reels.lean ====
section
/-! DEFINITION. The reel and pipeline instructions (R419, R420): issue; Machine/ReelRun.lean and Machine/PipeRun.lean say what
they do. -/

namespace Sys2Proof.Machine

/-- The bytes of a reel descriptor whose descriptors a reel operation uses: both ends, and the index vector of GATHER and SCATTER
(R398, R444). -/
def reelNested (d : Line) : List Nat :=
  let m := bitsOf (lineBytes d 1 1) 1 3
  if lineBytes d 0 0 ≠ 0x11 then [] else [2, 3] ++ (if m = 1 ∨ m = 2 then [4] else [])

/-- What the issue of a reel instruction needs: its engine is the one that the direction of the reel descriptor
picks, the inbound one for a descriptor of another kind (R378, R419). -/
def reelIss (s : State) (w : Who) (g : EForm) : Iss :=
  let d := (s.fileView w.lspn.toNat w.ctx.toNat).descOf w.lspn.toNat w.ctx.toNat g.desc.toNat
  { major := 0x1A, form := g, bad := g.modf 0 26 ≠ 0
    engine := if lineBytes d 0 0 = 0x11 && (lineBytes d 1 1).testBit 0 then .outReel else .inReel
    descs := [g.desc.toNat], nested := reelNested }

/-- REEL.IN: issues a reel descriptor (R378, R419). -/
def execReelIn (w : Who) (f : EForm) (s : State) : Host.Outcome State Fault Refusal :=
  let g := f
  .next (s.issue w (.reelIn w g) (reelIss s w g))

/-- REEL.OUT: issues a reel descriptor (R378, R419). -/
def execReelOut (w : Who) (f : EForm) (s : State) : Host.Outcome State Fault Refusal :=
  let g := f
  .next (s.issue w (.reelOut w g) (reelIss s w g))

/-- A reserved field of REEL.PSEND or SYNC.PRECV is not zero (R420). -/
def pipeBad (g : EForm) : Bool := g.modf 24 2 ≠ 0 || g.modf 0 14 ≠ 0

/-- REEL.PSEND: issues the sending of a message (R366, R420). -/
def execReelPsend (w : Who) (f : EForm) (s : State) : Host.Outcome State Fault Refusal :=
  let g := f
  .next (s.issue w (.reelPsend w g) 
    { major := 0x1B, form := g, bad := pipeBad g, engine := .outReel, descs := [g.desc.toNat], params := [g.modf 14 5] })

/-- SYNC.PRECV: issues the wait for a message (R367, R420). -/
def execSyncPrecv (w : Who) (f : EForm) (s : State) : Host.Outcome State Fault Refusal :=
  let g := f
  .next (s.issue w (.syncPrecv w g) 
    { major := 0x1E, form := g, bad := pipeBad g, engine := .inReel, descs := [], params := [g.modf 14 5] })

end Sys2Proof.Machine
end

