-- ==== Sys2Proof/Machine/Reliability.lean ====
section
/-! DEFINITION. Spot tests and their votes, loans, twin samples, and the loss of a command core (R123, R532 to R540). -/

namespace Sys2Proof.Machine

/-! ### Sites under test -/

/-- Writes STATE of a site for the time of a test or a loan: nothing is committed to the bank (R109, R534). -/
def State.lendSite (s : State) (p st : Nat) : State :=
  s.setSite p ((s.site p &&& 0xFFFFFFF8) ||| BitVec.ofNat 32 (st % 8))

/-- An operand of the spot-test program (R352, R532): the key is the test seed with STREAM 0, STEP the count of tests started. The
program itself is part of the firmware, so its digests come with SPOT_TEST_COMPLETE. -/
def State.spotOperand (s : State) (segment idx : Nat) : Nat :=
  twist ((s.mill.testSeed.toNat % 2 ^ 48) * 2 ^ 16) (twistCtr 0xE9 s.mill.spotCount (elemSpot segment idx))

/-- The sites that a test occupies. -/
def Spot.sites (t : Spot) : List Nat := t.site :: t.twin :: t.third.toList

/-- Whether a site takes part in a running test or is on loan. -/
def State.busySite (s : State) (p : Nat) : Bool := s.mill.spots.any fun t => p ∈ t.sites || t.loan = some p

/-- The sites that are tested: active ones and reserves. -/
def State.testable (s : State) (p : Nat) : Bool := decide (s.siteState p ≤ 1) && !s.busySite p

/-- A pass boundary for the test of a site: no critical context of its spindle has an operation queued or started (R534). -/
def State.boundary (s : State) (p : Nat) : Bool :=
  match s.seated p with
  | none => true
  | some l =>
    let x := s.spn l
    !(x.queued.any fun q => s.critical q.job) && !(x.running.any fun r => s.critical r.2.q.job)

/-- No operation of the spindle on a site runs. -/
def State.quietSite (s : State) (p : Nat) : Bool :=
  match s.seated p with
  | none => true
  | some l => (s.spn l).running.isEmpty

/-- PERIOD and DEFER of MILL_SPOT in nanoseconds (R535). -/
def State.spotTimes (s : State) : Nat × Nat :=
  let v := (s.wp 1).toNat
  (bitsOf v 16 16 * 10 ^ 9, bitsOf v 8 8 * 10 ^ 9)

/-- A test of the site falls due: PERIOD after its last passing test, at once where it has none since start-up (R534; log
entry 41). -/
def State.testDue (s : State) (p : Nat) : Bool :=
  s.lastPass p = 0 || decide (s.lastPass p * 1024 + s.spotTimes.1 ≤ s.ns)

/-- Whether the die of a site has a reserve other than it, be it free, in a test or on loan (R533). -/
def State.hasReserve (s : State) (p : Nat) : Bool :=
  (List.range 72).any fun i =>
    let q := siteDie p * 72 + i
    q ≠ p && (s.siteState q = 1 || s.siteState q = 2 || s.mill.spots.any fun t => t.loan = some q)

/-- The twin of a test (R533): the nearest reserve of the die, or, where the die has none, another active site that is due
within one PERIOD, the lowest such (log entry 41). -/
def State.twinOf (s : State) (p : Nat) (forced : Bool) : Option Nat :=
  match s.twinSites p with
  | r :: _ => some r
  | [] =>
    if s.hasReserve p then none
    else (List.range 72).map (siteDie p * 72 + ·) |>.find? fun q =>
      q ≠ p && s.siteState q = 0 && !s.busySite q && (forced || s.boundary q)
      && decide (s.lastPass p * 1024 ≤ s.lastPass q * 1024 + s.spotTimes.1)
      && decide (s.lastPass q * 1024 ≤ s.lastPass p * 1024 + s.spotTimes.1)

/-- A reserve reads STATE 2 while it takes part in a test; an active site, whose spindle is paused there, stays active (R107). -/
def State.markTesting (s : State) (p : Nat) : State := if s.siteState p = 1 then s.lendSite p 2 else s

/-- Starts a test: the reserves among its sites read STATE 2, and the count of tests advances (R107, R109, R532). -/
def State.startTest (s : State) (t : Spot) : State :=
  let s := t.sites.foldl State.markTesting s
  let m := s.mill
  { s with mill := { m with
      spots := m.spots ++ [t], spotCount := m.spotCount + 1
      due := m.due.filter fun d => d.1 ≠ t.site, retests := m.retests.filter fun d => d.1 ≠ t.site
      holds := m.holds.filter fun p => p ≠ t.site } }

/-- Tests a site with its twin at a boundary, or notes since when it waits for one (R534). -/
def State.tryTest (s : State) (p : Nat) : State :=
  match s.boundary p, s.twinOf p false with
  | true, some q => s.startTest { site := p, twin := q, start := s.ns }
  | _, _ =>
    if s.mill.due.any fun d => d.1 = p then s
    else { s with mill := { s.mill with due := s.mill.due ++ [(p, s.ns)] } }

/-- SPOT_TEST_DUE: a due test starts at a pass boundary, or waits for one (R534). -/
def execSpotTestDue (site : BitVec 9) (s : State) : Host.Outcome State Fault Refusal :=
  let p := site.toNat
  .next (if s.on && decide (p < 288) && s.testable p && s.testDue p then s.tryTest p else s)

/-! ### Loans (R534) -/

/-- Moves what a bobbin holds from one site to another, its poison with it (R453). -/
def State.moveBobbin (s : State) (p q : Nat) : State :=
  let base (x : Nat) : Nat := keyOf 4 (x * 2 ^ 24)
  let inSite (x : Nat) (c : Host.Cell) : Bool := decide (base x ≤ c.1 ∧ c.1 < base x + 2 ^ 24)
  let gone := (s.mem.filter (inSite q)).map fun c => (c.1, (0 : Byte))
  let new := (s.mem.filter (inSite p)).map fun c => (c.1 - base p + base q, c.2)
  { s with mem := Mem.setAll s.mem (gone ++ new), poison := s.poisonMoved (base p) (base q) (2 ^ 24) }

/-- The map word of a spindle with PSITE replaced: SEAT and GEN stay (R534). -/
def State.lendMap (s : State) (l p : Nat) : State :=
  s.setSpmap l ((s.spmap l &&& 0xFFE00FFF) ||| BitVec.ofNat 32 (p % 512 * 2 ^ 12))

/-- The contexts of a spindle go to a reserve of its home frame for the time of a test. DESIGN CHOICE: STATE of the reserve reads active
and that of the tested site stays (log entry 120). -/
def State.lend (s : State) (l p q : Nat) : State := ((s.moveBobbin p q).lendMap l q).lendSite q 0

/-- The contexts on loan return. Where the loan site has been retired meanwhile, its spindle has been seated elsewhere (R110), and the
tested site, which no spindle uses, becomes a reserve (R107). -/
def State.unlend (s : State) (p q : Nat) : State :=
  match s.seated q with
  | some l => ((s.moveBobbin q p).lendMap l p).lendSite q 1
  | none => if s.siteState p = 3 then s else s.markSite p 1

/-- The test that is forced on a site, and the spindle whose contexts go on loan for it (R533, R534): to the home frame's reserve, where
the die has another reserve to be the twin. -/
def State.forcedTest (s : State) (p : Nat) : Option (Spot × Option Nat) :=
  let rs := s.twinSites p
  match (s.seated p).bind fun l => (rs.find? fun r => siteFrame r = s.hframe l).map fun r => (l, r) with
  | some (l, r) =>
    match rs.filter (· ≠ r) with
    | q :: _ => some ({ site := p, twin := q, loan := some r, start := s.ns }, some l)
    | [] => some ({ site := p, twin := r, start := s.ns }, none)
  | none => (s.twinOf p true).map fun q => ({ site := p, twin := q, start := s.ns }, none)

/-- A forced test (R534): issue stops on the spindle, the started operations complete, and the test starts once they have. -/
def State.forceTest (s : State) (p : Nat) : State :=
  match s.forcedTest p with
  | none => s
  | some (t, loan) =>
    if !s.quietSite p then { s with mill := { s.mill with holds := p :: s.mill.holds.filter (· ≠ p) } }
    else
      let s := match loan, t.loan with
        | some l, some r => s.lend l p r
        | _, _ => s
      s.startTest t

/-- SPOT_TEST_DEFER_EXPIRY: a due test has waited DEFER seconds for a boundary; one is forced. Given again, it starts the test once the
site's started operations have completed (R534; log entry 86). -/
def execSpotTestDeferExpiry (site : BitVec 9) (s : State) : Host.Outcome State Fault Refusal :=
  let p := site.toNat
  .next (if s.on && s.testable p && s.mill.due.any (fun d => d.1 = p && decide (d.2 + s.spotTimes.2 ≤ s.ns))
    then s.forceTest p else s)

/-! ### The outcome of a test (R533, R540) -/

/-- Adds 1 to a count of MILL_RSTAT1 or MILL_RSTAT2, saturating (R539). -/
def countUp (v : Word) (high : Bool) : Word :=
  let n := if high then bitsOf v.toNat 32 32 else v.toNat % 2 ^ 32
  if n = 2 ^ 32 - 1 then v else if high then v + 0x100000000 else v + 1

/-- Ends a test: the loan returns, and its reserves read STATE 1 again (R107). -/
def State.endTest (s : State) (t : Spot) : State :=
  let s := { s with mill := { s.mill with spots := s.mill.spots.erase t } }
  let s := match t.loan with
    | some q => s.unlend t.site q
    | none => s
  t.sites.foldl (fun s p => if s.siteState p ≠ 2 then s else s.lendSite p 1) s

/-- A passing test of a site: LASTPASS (R539). -/
def State.passed (s : State) (p : Nat) : State :=
  { s with mill := { s.mill with sitet := s.mill.sitet.set p (BitVec.ofNat 48 s.baroTime) 0 } }

/-- A pass counts for the site, and for an active twin (R533). -/
def State.passTest (s : State) (t : Spot) : State :=
  let s := s.passed t.site
  if s.siteState t.twin = 0 then s.passed t.twin else s

/-- The site that loses a vote: the one whose digest differs from the other two (R533). -/
def voteLoser (t : Spot) (third : Nat) (d1 d2 d3 : BitVec 128) : Option Nat :=
  if d1 = d2 ∧ d2 ≠ d3 then some third
  else if d1 = d3 ∧ d2 ≠ d3 then some t.twin
  else if d2 = d3 ∧ d1 ≠ d2 then some t.site
  else none

/-- A SPOT_FAIL record; `third` is KIND 15 where no site is third (R546). -/
def State.spotRec (s : State) (t : Spot) (third : Word) (n : Nat) (lost : Nat) : State :=
  s.baroWrite 0x03 2 true [locW .site t.site, locW .site t.twin, third, codeW 0 n (s.lastPass lost)]

/-- No site can be held to have lost: a record, the module is degraded, and the test repeats after 60 s (R533). -/
def State.noLoser (s : State) (t : Spot) (third : Word) : State :=
  let s := s.spotRec t third 0 t.site
  { s with mill := { s.mill with degraded := true, retests := s.mill.retests ++ [(t.site, s.ns + 60 * 10 ^ 9)] } }

/-- A site that loses the vote has a fault attributed to it and is retired (R540). -/
def State.loseVote (s : State) (p : Nat) : State := (s.countFault p).retireSite p 0x03 1

/-- The second round: a third site votes (R533). -/
def State.vote (s : State) (t : Spot) (third : Nat) (d1 d2 d3 : BitVec 128) : State :=
  let s := s.endTest t
  match voteLoser t third d1 d2 d3 with
  | some p =>
    let s := (s.spotRec t (locW .site third) 1 p).loseVote p
    if p = t.site then s else s.passTest t
  | none =>
    if d1 = d2 then (s.spotRec t (locW .site third) 0 t.site).passTest t
    else s.noLoser t (locW .site third)

/-- The third site of a vote: a reserve of the die, or its lowest active site that is free (R533; log entry 41). -/
def State.thirdSite (s : State) (t : Spot) : Option Nat :=
  let free (q : Nat) : Bool := !s.busySite q && q ∉ t.sites
  let die := (List.range 72).map (siteDie t.site * 72 + ·)
  ((s.twinSites t.site).find? free).or (die.find? fun q => s.siteState q = 0 && free q)

/-- A test has run, and its digests differed or not (R539). -/
def State.countTest (s : State) (differ : Bool) : State :=
  let v := countUp s.mill.rstat1 true
  { s with mill := { s.mill with rstat1 := if differ then countUp v false else v } }

/-- Starts the tests that a twin mismatch has asked for, where no other test or loan holds their sites any more; one of which a site has
been retired meanwhile has found its fault (R537; log entry 40). -/
def State.startTwinTests (s : State) : State :=
  s.mill.twinTests.foldl (fun s x =>
    let drop (s : State) : State := { s with mill := { s.mill with twinTests := s.mill.twinTests.filter (· ≠ x) } }
    if s.siteState x.1 = 3 ∨ s.siteState x.2.1 = 3 then drop s
    else if s.testable x.1 && s.testable x.2.1 then
      (drop s).startTest { site := x.1, twin := x.2.1, start := s.ns, job := some x.2.2 }
    else s) s

/-- What a completed test shows (R533, R539, R546). Where no third site is free, no site is held to have lost (log entry 41). -/
def State.testOver (s : State) (t : Spot) (d1 d2 d3 : BitVec 128) : State :=
  match t.third with
  | some r => (s.countTest (d1 ≠ d2 || d2 ≠ d3)).vote t r d1 d2 d3
  | none =>
    let s := s.countTest (d1 ≠ d2)
    if d1 = d2 then (s.endTest t).passTest t
    else
      match s.thirdSite t with
      | some r =>
        let t' := { t with third := some r, start := s.ns }
        let s := s.markTesting r
        { s with mill := { s.mill with spotCount := s.mill.spotCount + 1, spots := s.mill.spots.erase t ++ [t'] } }
      | none => (s.endTest t).noLoser t noLoc

/-- SPOT_TEST_COMPLETE: 4 ms after the start the digests of the site, the twin and the third site are compared (R532 to
R534). -/
def execSpotTestComplete (site : BitVec 9) (d1 d2 d3 : BitVec 128) (s : State) : Host.Outcome State Fault Refusal :=
  .next (match s.on, s.mill.spots.find? fun t => t.site = site.toNat with
    | true, some t =>
      if decide (s.ns < t.start + 4000000) || !(t.sites ++ t.loan.toList).all s.quietSite then s
      else (s.testOver t d1 d2 d3).startTwinTests
    | _, _ => s)

/-- SPOT_TEST_RETRY: the repeat of a test whose three digests all differed (R533). -/
def execSpotTestRetry (site : BitVec 9) (s : State) : Host.Outcome State Fault Refusal :=
  let p := site.toNat
  .next (if s.on && s.testable p && s.mill.retests.any (fun r => r.1 = p && decide (r.2 ≤ s.ns)) then s.tryTest p else s)

/-! ### Twin samples (R536, R537) -/

/-- Whether every unit that a sample reads had the epoch of the journal when the twin read it: whether the twin had read a unit whose
epoch has changed since is a free value (R536). -/
def State.unchanged (s : State) (t : Twin) : Bool :=
  t.epochs.all fun e => (s.spn t.lspn).epochs.get e.1 0 = e.2 || Config.twinRead t.num e.1

/-- A mismatch (R537): a record, a test on both sites without deferral, and the step's replay after it. A test or a loan that still holds
one of the sites ends first (log entry 40). -/
def State.twinMismatch (s : State) (t : Twin) : State :=
  match s.job? t.job with
  | none => s
  | some b =>
    let s := s.baroWrite 0x04 2 true [locW .site t.site, locW .site t.twin, jobW b]
    let s := if s.testable t.site && s.testable t.twin then
        s.startTest { site := t.site, twin := t.twin, start := s.ns, job := some t.job }
      else { s with mill := { s.mill with twinTests := s.mill.twinTests ++ [(t.site, t.twin, t.job)] } }
    s.needReplay t.job 0x40 (2 ^ 101 + t.site)

/-- TWIN_SAMPLE_COMPARE: the twin's digest is compared with the drain's, or the sample is abandoned (R536, R537). -/
def execTwinSampleCompare (sample : Nat) (dig : BitVec 128) (s : State) : Host.Outcome State Fault Refusal :=
  .next (match s.on, s.mill.twins.find? fun t => t.num = sample with
    | true, some t =>
      let skip := !s.unchanged t
      let m := s.mill
      let s := { s with mill := { m with twins := m.twins.erase t, rstat2 := countUp m.rstat2 (!skip) } }
      if skip || dig = t.dig then s else s.twinMismatch t
    | _, _ => s)

/-! ### Command cores (R123) -/

/-- COMMAND_CORE_FAIL: the mill goes on with the cores that remain; without core 0 it accepts no job (R121, R123). -/
def execCommandCoreFail (core : BitVec 3) (s : State) : Host.Outcome State Fault Refusal :=
  let n := core.toNat
  .next (if !s.on || !s.mill.cores.toNat.testBit n then s
    else
      let s := { s with mill := { s.mill with cores := s.mill.cores &&& ~~~(1#8 <<< n) } }
      let s := (s.baroWrite 0x0E 3 true [locW .core n]).repairNote (locW .core n)
      if n = 0 then { s with mill := { s.mill with accepting := false } }.emit (.mgmtFail n) else s)

end Sys2Proof.Machine
end

