-- ==== Sys2Proof/Machine/Sessions.lean ====
section
/-! DEFINITION. Sessions and their messages, ownership, provisioning and firmware (R548, R559 to R563, R567, R568). -/

namespace Sys2Proof.Machine

/-! ### Credentials (R563) -/

/-- The offset of a CRED entry in the bank. -/
def credAt (i : Nat) : Nat := credBase + 128 * i

/-- ROLE of a CRED entry: 0 empty, 1 operator, 2 auditor, 3 owner. -/
def State.credRole (s : State) (i : Nat) : Nat := if i < 16 then s.bank (credAt i) 1 else 0

/-- K of a CRED entry. -/
def State.credKey (s : State) (i : Nat) : List Byte := s.bytesAt (keyOf 6 (credAt i + 24)) 64

/-- SALT and ITER of a passphrase entry, nothing of a key (R567). -/
def State.credSalt (s : State) (i : Nat) : List Byte × BitVec 32 :=
  if s.bank (credAt i + 1) 1 = 1 then (s.bytesAt (keyOf 6 (credAt i + 8)) 16, BitVec.ofNat 32 (s.bank (credAt i + 4) 4)) else ([], 0)

/-- A CRED entry that keeps R563. -/
def credOk (v : Nat) : Bool :=
  let f (o n : Nat) : Nat := bitsOf v (8 * o) (8 * n)
  decide (1 ≤ f 0 1 ∧ f 0 1 ≤ 3) && decide (f 1 1 ≤ 1) && f 2 2 = 0 && f 88 40 = 0 && (f 1 1 = 0 || decide (100000 ≤ f 4 4))

/-- Closes the sessions of a credential and forgets its challenges (R567). -/
def State.closeCred (s : State) (i : Nat) : State :=
  { s with sec := { s.sec with
      sessions := s.sec.sessions.filter (fun x => x.cred ≠ i), chals := s.sec.chals.filter fun x => x.cred ≠ i } }

/-- Writes a CRED entry. -/
def State.setCred (s : State) (i v : Nat) : State := (s.bankBytes (credAt i) (leBytes 128 v)).closeCred i

/-! ### Opening (R567) -/

/-- A transport that carries messages: I3C with an address, Ethernet with a link, the PF's mailbox once its function is ready,
which it never is in recovery (R559, R564 to R566). -/
def State.carries (s : State) (t : Transport) : Bool :=
  (s.on || s.power.phase = .recovery) &&
    (match t with
     | .i3c => s.sec.da ≠ 0
     | .ethernet => s.sec.ethUp
     | .doe => s.on && s.host.fnReady && !s.host.perst)

/-- Whether a credential is barred (R567). -/
def State.barred (s : State) (i : Nat) : Bool := s.sec.bars.any fun b => b.1 = i && decide (s.ns < b.2)

/-- A session identifier that no session and no challenge uses, and the state that has handed it out. -/
def State.newSid (s : State) : BitVec 32 × State :=
  let used (v : BitVec 32) : Bool := (s.sec.sessions.any fun x => x.sid = v) || s.sec.chals.any fun x => x.sid = v
  let n := ((List.range 1024).find? fun i => !used (Config.sid (s.sec.sids + i))).getD 0
  (Config.sid (s.sec.sids + n), { s with sec := { s.sec with sids := s.sec.sids + n + 1 } })

/-- OPEN_REQ: a challenge, or BUSY while eight sessions are open (R567). A credential that is empty or barred is refused (log
entry 54). -/
def execOpenReq (from_ : Peer) (cred : BitVec 8) (nc : BitVec 256) (s : State) : Host.Outcome State Fault Refusal :=
  let i := cred.toNat
  let t := from_.tr
  .next (if !s.carries t then s
    else if 8 ≤ s.sec.sessions.length then s.respond from_ (.busy t)
    else if s.credRole i = 0 || s.barred i then s.respond from_ (.denied t)
    else
      let n := s.newSid
      let d := n.2.draw
      let nd : BitVec 256 := d.1.truncate 256
      let c : Chal := { sid := n.1, cred := i, nc := nc, nd := nd, tr := t, src := from_.src, at_ := s.ns }
      let x := d.2
      let salt := s.credSalt i
      ({ x with sec := { x.sec with chals := x.sec.chals ++ [c] } }).respond from_ (.chal t n.1 nd salt.1 salt.2))

/-- The bytes NC ‖ ND ‖ SID behind a label (R567). -/
def Chal.msg (c : Chal) (label : List Byte) : List Byte :=
  label ++ leBytes 32 c.nc.toNat ++ leBytes 32 c.nd.toNat ++ leBytes 4 c.sid.toNat

/-- "OPEN" in ASCII. -/
def openLabel : List Byte := [0x4F, 0x50, 0x45, 0x4E]
/-- "ACK" in ASCII. -/
def ackLabel : List Byte := [0x41, 0x43, 0x4B]
/-- "SKEY" in ASCII. -/
def skeyLabel : List Byte := [0x53, 0x4B, 0x45, 0x59]

/-- A wrong proof is counted; the fifth within 60 s bars the credential for 60 s (R567). -/
def State.wrongProof (s : State) (c : Chal) : State :=
  let live := (s.sec.wrong.filter fun w => s.ns < w.2 + 60 * 10 ^ 9) ++ [(c.cred, s.ns)]
  let bar := decide (5 ≤ (live.filter fun w => w.1 = c.cred).length)
  { s with sec := { s.sec with
      wrong := if bar then live.filter fun w => w.1 ≠ c.cred else live
      bars := if bar then s.sec.bars ++ [(c.cred, s.ns + 60 * 10 ^ 9)] else s.sec.bars } }

/-- What comes over a transport from `src` is of a session or challenge that was opened from `own`: over Ethernet they are bound to
their source address and port (R566). -/
def sameSource (t : Transport) (own src : Src) : Bool := t ≠ .ethernet || (own.ip = src.ip && own.port = src.port)

/-- OPEN_PROOF: the proof is checked; the session opens with OPEN_ACK, or the failure is counted (R567). -/
def execOpenProof (sid : BitVec 32) (proof : Proof) (s : State) : Host.Outcome State Fault Refusal :=
  .next (match s.sec.chals.find? fun c => c.sid = sid with
    | none => s
    | some c =>
      if !s.carries c.tr || !sameSource c.tr c.src proof.src || decide (c.at_ + 5 * 10 ^ 9 ≤ s.ns) then s
      else
        let k := s.credKey c.cred
        let to_ : Peer := ⟨c.tr, proof.src⟩
        let s := { s with sec := { s.sec with chals := s.sec.chals.erase c } }
        if s.credRole c.cred = 0 || s.barred c.cred then s.respond to_ (.denied c.tr)
        else if hmac512 k (c.msg openLabel) ≠ leBytes 64 proof.mac.toNat then (s.wrongProof c).respond to_ (.denied c.tr)
        else if 8 ≤ s.sec.sessions.length then s.respond to_ (.busy c.tr)
        else
          let x : Session :=
            { sid := sid, cred := c.cred, role := s.credRole c.cred, key := BitVec.ofNat 512 (leNat (hmac512 k (c.msg skeyLabel)))
              tr := c.tr, src := proof.src, rxSeq := none, txSeq := 0, last := s.ns }
          ({ s with sec := { s.sec with sessions := s.sec.sessions ++ [x] } }).respond to_
            (.ack c.tr sid (hmac512 k (c.msg ackLabel)) x.role))

/-- SESSION_CHALLENGE_EXPIRY: after 5 s (R567). -/
def execSessionChallengeExpiry (sid : BitVec 32) (s : State) : Host.Outcome State Fault Refusal :=
  .next { s with sec := { s.sec with
    chals := s.sec.chals.filter fun c => !(c.sid = sid && decide (c.at_ + 5 * 10 ^ 9 ≤ s.ns)) } }

/-- SESSION_IDLE_TIMEOUT: after 300 s without a message (R567). -/
def execSessionIdleTimeout (sid : BitVec 32) (s : State) : Host.Outcome State Fault Refusal :=
  .next { s with sec := { s.sec with
    sessions := s.sec.sessions.filter fun x => !(x.sid = sid && decide (x.last + 300 * 10 ^ 9 ≤ s.ns)) } }

/-- CREDENTIAL_BAR_EXPIRY: after 60 s (R567). -/
def execCredentialBarExpiry (cred : BitVec 8) (s : State) : Host.Outcome State Fault Refusal :=
  .next { s with sec := { s.sec with bars := s.sec.bars.filter fun b => !(b.1 = cred.toNat && decide (b.2 ≤ s.ns)) } }

/-! ### Messages of an open session (R567, R568) -/

/-- An answer: done with data, DENIED, RESOURCE_HELD, not held, or a request that its own rule refuses (log entry 43). -/
inductive Answer where
  | done (data : List Byte) | denied | held | notHeld | bad
  deriving DecidableEq, Repr, Inhabited

/-- The body of an answer (log entry 43). -/
def Answer.body : Answer → List Byte
  | .done d => 0 :: d
  | .denied => [1]
  | .held => [2]
  | .notHeld => [3]
  | .bad => [4]

/-- The tag of a message: the first 32 bytes of HMAC(SK, SID ‖ sequence ‖ body) (R567). -/
def Session.tag (x : Session) (seq : Word) (body : List Byte) : List Byte :=
  (hmac512 (leBytes 64 x.key.toNat) (leBytes 4 x.sid.toNat ++ leBytes 8 seq.toNat ++ body)).take 32

/-- The open session of a message whose tag is right, whose sequence number increases, and which comes from where the session was opened
(R566, R567). -/
def State.session? (s : State) (m : Msg) : Option Session :=
  (s.sec.sessions.find? fun x => x.sid = m.sid).filter fun x =>
    s.carries x.tr && sameSource x.tr x.src m.src && decide (x.last + 300 * 10 ^ 9 > s.ns) && x.tag m.seq m.body = leBytes 32 m.mac.toNat
      && (match x.rxSeq with
          | some q => decide (q.toNat < m.seq.toNat)
          | none => true)

/-- The state with a session replaced, if it is still open. -/
def State.setSession (s : State) (x : Session) : State :=
  { s with sec := { s.sec with sessions := s.sec.sessions.map fun y => if y.sid = x.sid then x else y } }

/-- Answers a message in its session (R567). -/
def State.answer (s : State) (x : Session) (a : Answer) : State :=
  let seq := x.txSeq + 1
  (s.setSession { x with txSeq := seq }).respond ⟨x.tr, x.src⟩ (.reply x.tr x.sid seq a.body (x.tag seq a.body))

/-- A message's body is its code and what it carries, in the order of the command's operands, each little-endian (R568; log entry
43). -/
def msgSays (m : Msg) (code : Nat) (ops : List Byte) : Bool := m.body = BitVec.ofNat 8 code :: ops

/-- Takes a message: a wrong one is discarded unanswered; one that the role does not allow is answered DENIED; the rest have
their effect and its answer (R567, R568). -/
def State.message (s : State) (m : Msg) (roles : List Nat) (f : Session → State → State × Answer) : State :=
  match s.session? m with
  | none => s
  | some x =>
    let x := { x with rxSeq := some m.seq, last := s.ns, src := m.src }
    let s := s.setSession x
    if !(x.role ∈ roles) then s.answer x .denied
    else
      let r := f x s
      r.1.answer x r.2

/-- A message that only a ready module takes, of a code and with what it carries. A body that says anything else is not this message
(R567, R568). -/
def State.sessionMsg (s : State) (m : Msg) (code : Nat) (ops : List Byte) (roles : List Nat)
    (f : Session → State → State × Answer) : Host.Outcome State Fault Refusal :=
  .next (if s.on && msgSays m code ops then s.message m roles f else s)

/-- CLOSE; recovery takes none (R559, R567). The spec gives it no code (log entry 43). -/
def execClose (m : Msg) (s : State) : Host.Outcome State Fault Refusal :=
  .next (match (s.session? m).filter fun _ => s.on && msgSays m 0x01 [] with
    | some x => { s with sec := { s.sec with sessions := s.sec.sessions.filter fun y => y.sid ≠ x.sid } }
    | none => s)

/-- The number of a kind of register in a message, and which of them is meant (log entry 43). -/
def regNo (r : Reg) : Nat × Nat :=
  let who (w : Who) : Nat := w.lspn.toNat * 4 + w.ctx.toNat
  match r with
  | .millSpmap n => (0, n.toNat) | .millSite p => (1, p.toNat) | .millSitet p => (2, p.toNat) | .millRstat n => (3, n.toNat)
  | .millSpot => (4, 0) | .millTwcfg => (5, 0) | .millRcfg => (6, 0)
  | .frmPwrctl f => (7, f.toNat) | .frmShctl f => (8, f.toNat) | .frmShptr f => (9, f.toNat) | .frmShtake f => (10, f.toNat)
  | .frmDvfs f => (11, f.toNat) | .arrLimstat l => (12, l.toNat)
  | .spnBpart w => (13, who w) | .spnCfault w => (14, who w) | .spnCfinst w => (15, who w)
  | .jobCnt c => (16, c.toNat) | .jobRcfg f => (17, f.toNat) | .jobRbase f => (18, f.toNat) | .jobCbase f => (19, f.toNat)
  | .sknLcfg => (20, 0) | .sknCoord => (21, 0) | .sknCinuse => (22, 0) | .sknTsrc => (23, 0)
  | .sknLstat l => (24, l.toNat) | .sknLerr l => (25, l.toNat) | .mgtNetcfg => (26, 0) | .mgtI3c => (27, 0)
  | .secStat => (28, 0) | .secMeas n => (29, n.toNat) | .timeNow => (30, 0) | .timeAdj => (31, 0) | .timeOffs => (32, 0)
  | .timePpsin => (33, 0) | .timeCtl => (34, 0) | .timeCmp u => (35, u.toNat) | .timeCmpctl => (36, 0)
  | .baroNext => (37, 0) | .baroOldp => (38, 0) | .baroOldx => (39, 0) | .baroSize => (40, 0)
  | .pbWear n => (41, n.toNat) | .pwrStat => (42, 0) | .pwrSave n => (43, n.toNat) | .ctxReg w n => (44, who w * 256 + n.toNat)

/-- A register as a message names it: one byte for its kind, three for its number (log entry 43). -/
def regName (r : Reg) : List Byte := leBytes 1 (regNo r).1 ++ leBytes 3 (regNo r).2

/-- REG_READ (R568). -/
def execRegRead (m : Msg) (r : Reg) (s : State) : Host.Outcome State Fault Refusal :=
  s.sessionMsg m 0x10 (regName r) [1, 2, 3] fun _ s => (s, if r.readable then .done (s.regBytes r) else .denied)

/-- The registers that REG_WRITE writes (R568). -/
def ownerWrites : Reg → Bool
  | .frmPwrctl _ | .sknLcfg | .sknCoord | .sknTsrc | .millSpot | .millTwcfg | .millRcfg | .mgtNetcfg | .timeCtl | .timeCmp _
  | .timeCmpctl => true
  | _ => false

/-- REG_WRITE (R542, R568, R572). -/
def execRegWrite (m : Msg) (r : Reg) (v : Word) (fails : Bool) (s : State) : Host.Outcome State Fault Refusal :=
  s.sessionMsg m 0x11 (regName r ++ leBytes 8 v.toNat) [3] fun _ s =>
    if !ownerWrites r then (s, .denied)
    else match s.regWriteChecked r v fails with
      | some t => (t, .done [])
      | none => (s, .held)

/-- A record that a ring holds (R548). -/
def Baro.find (b : Baro) (seq : Word) : Option Rec := (b.pring ++ b.xring).find? fun r => r.seq = seq

/-- BARO_READ (R548). -/
def execBaroRead (m : Msg) (seq : Word) (s : State) : Host.Outcome State Fault Refusal :=
  s.sessionMsg m 0x12 (leBytes 8 seq.toNat) [1, 2, 3] fun _ s => (s, match s.baro.find seq with
    | some r => .done (r.words.flatMap fun w => leBytes 8 w.toNat)
    | none => .notHeld)

/-- The oldest SEQ held when a clear takes effect (R548). -/
def Baro.first (b : Baro) : Word :=
  let p := b.oldest b.pring
  let x := b.oldest b.xring
  if p.toNat ≤ x.toNat then p else x

/-- Clears the records up to a SEQ; CLEARED records stay (R548). -/
def Baro.clear (b : Baro) (seq : Word) : Baro :=
  let keep (r : Rec) : Bool := r.type = 0x11 || decide (seq.toNat < r.seq.toNat)
  { b with pring := b.pring.filter keep, xring := b.xring.filter keep }

/-- BARO_CLEAR (R548). -/
def execBaroClear (m : Msg) (seq : Word) (s : State) : Host.Outcome State Fault Refusal :=
  s.sessionMsg m 0x13 (leBytes 8 seq.toNat) [2] fun x s =>
    let first := s.baro.first
    let s := { s with baro := s.baro.clear seq }
    (s.baroWrite 0x11 1 true [locW .session x.sid.toNat, first, seq], .done [])

/-- JOB_CMD: a command entry as client 32; its reference counts the entries (R498, R568; log entry 44). -/
def execJobCmd (m : Msg) (entry : Line) (s : State) : Host.Outcome State Fault Refusal :=
  s.sessionMsg m 0x20 (leBytes 64 entry.toNat) [1, 3] fun _ s =>
    let ref := s.mill.refs32
    let s := { s with mill := { s.mill with refs32 := ref + 1 } }
    (s.command 32 ref entry, .done (leBytes 8 ref.toNat))

/-- JOB_DONE: client 32's oldest completion (R568; log entry 44). -/
def execJobDone (m : Msg) (s : State) : Host.Outcome State Fault Refusal :=
  s.sessionMsg m 0x21 [] [1, 3] fun _ s =>
    match s.mill.ring32 with
    | c :: r => ({ s with mill := { s.mill with ring32 := r } }, .done c)
    | [] => (s, .done [])

/-- CRED_SET (R563, R568). -/
def execCredSet (m : Msg) (idx : BitVec 8) (entry : BitVec 1024) (s : State) : Host.Outcome State Fault Refusal :=
  s.sessionMsg m 0x30 (leBytes 1 idx.toNat ++ leBytes 128 entry.toNat) [3] fun _ s =>
    if 16 ≤ idx.toNat ∨ !credOk entry.toNat then (s, .bad) else (s.setCred idx.toNat entry.toNat, .done [])

/-- CRED_DEL (R568). -/
def execCredDel (m : Msg) (idx : BitVec 8) (s : State) : Host.Outcome State Fault Refusal :=
  s.sessionMsg m 0x31 (leBytes 1 idx.toNat) [3] fun _ s => if 16 ≤ idx.toNat then (s, .bad) else (s.setCred idx.toNat 0, .done [])

/-- BIND: bits [13:0] and VALID of a BIND word (R552, R568). -/
def execBind (m : Msg) (client : BitVec 8) (v : Word) (s : State) : Host.Outcome State Fault Refusal :=
  s.sessionMsg m 0x32 (leBytes 1 client.toNat ++ leBytes 8 v.toNat) [3] fun _ s =>
    if client.toNat < 33 then (s, .bad)
    else (s.bankWord (bindBase + 8 * client.toNat) (v &&& 0x8000000000003FFF).toNat, .done [])

/-- MEAS_EXTEND (R561, R568). -/
def execMeasExtend (m : Msg) (n : BitVec 4) (d : BitVec 512) (s : State) : Host.Outcome State Fault Refusal :=
  s.sessionMsg m 0x42 (leBytes 1 n.toNat ++ leBytes 64 d.toNat) [3] fun _ s => if n.toNat < 10 then (s, .denied) else (s.extend n.toNat (leBytes 64 d.toNat), .done [])

/-! ### Firmware (R559, R560) -/

/-- Writes an image into a slot of the flash. -/
def State.flashSlot (s : State) (slot : Nat) (image : List Byte) : State :=
  s.putAt (keyOf 8 (slot * 2 ^ 25)) (image.take (2 ^ 25))

/-- FW_WRITE while jobs run: the slot that is not running; BOOTPREF changes once the image verifies (R560). -/
def State.updateFirmware (s : State) (image : List Byte) : State × Answer :=
  let slot := 1 - bitsOf s.sec.stat.toNat 30 1
  let t := s.flashSlot slot image
  if t.slotFault slot ≠ 0 then (t, .bad)
  else (t.bankWord bootPref slot, .done [])

/-- FW_WRITE in recovery: the slot that BOOTPREF names, which has failed; once it verifies the module restarts (R559; log
entry 55). -/
def State.recoverFirmware (s : State) (image : List Byte) : State × Answer :=
  let t := s.flashSlot s.preferred image
  if t.slotFault s.preferred ≠ 0 then (t, .bad) else (t.cleared .starting 1, .done [])

/-- FW_WRITE: in an owner session, or, in recovery, without a session while OWNED is 0 (R559, R560, R568). -/
def execFwWrite (m : Option Msg) (image : List Byte) (s : State) : Host.Outcome State Fault Refusal :=
  let rec_ := decide (s.power.phase = .recovery)
  .next (match m with
    | some m => if !msgSays m 0x40 image then s else s.message m [3] fun _ s => if rec_ then s.recoverFirmware image else s.updateFirmware image
    | none => if rec_ && !s.owned then (s.recoverFirmware image).1 else s)

/-- ARB_COMMIT: ARB rises to the running image's VERSION (R560). -/
def execArbCommit (m : Msg) (s : State) : Host.Outcome State Fault Refusal :=
  s.sessionMsg m 0x41 [] [3] fun _ s =>
    (if s.arb < s.sec.version.toNat then s.identityBytes 16 (leBytes 8 s.sec.version.toNat) else s, .done [])

/-! ### Ownership and provisioning (R562, R563) -/

/-- The bytes of a key's modulus. -/
def keyBytes (m : BitVec 4096) : List Byte := leBytes 512 m.toNat

/-- RELEASE: OWNER_KH, CRED and BIND are zeroed and OWNED is cleared (R563). -/
def execRelease (m : Msg) (key sig : BitVec 4096) (s : State) : Host.Outcome State Fault Refusal :=
  s.sessionMsg m 0x43 (keyBytes key ++ leBytes 512 sig.toNat) [3] fun _ s =>
    if !s.ownerKey key ∨ !pssVerify key.toNat sig.toNat (Config.signedBytes 0 (keyBytes key)) then (s, .bad)
    else
      let s := (List.range 16).foldl (fun s i => s.setCred i 0) s
      let s := s.bankBytes bindBase (List.replicate 2048 0)
      let s := s.identityBytes 24 (List.replicate 64 0)
      (s.setIdflags (s.bank 8 8 / 4 * 4 + s.bank 8 8 % 2), .done [])

/-- CLAIM: ownership of a module that has no owner, over I3C alone (R563). -/
def execClaim (t : Transport) (key : BitVec 4096) (cred : BitVec 1024) (sig : BitVec 4096) (s : State) :
    Host.Outcome State Fault Refusal :=
  .next (if !s.carries t || t ≠ .i3c || s.owned then s
    else if !credOk cred.toNat || cred.toNat % 256 ≠ 3
        || !pssVerify key.toNat sig.toNat (Config.signedBytes 1 (keyBytes key ++ leBytes 128 cred.toNat)) then s.respond ⟨t, ⟨0, 0, 0⟩⟩ (.denied t)
    else
      let s := s.identityBytes 24 (keyHash key)
      let s := s.setCred 0 cred.toNat
      s.setIdflags (s.bank 8 8 ||| 2))

/-- PROVISION: the module generates its identity key, once (R562). -/
def execProvision (key sig : BitVec 4096) (s : State) : Host.Outcome State Fault Refusal :=
  .next (if !s.on || s.prov || !s.vendorKey key || !pssVerify key.toNat sig.toNat (Config.signedBytes 2 (keyBytes key)) then s
    else
      let d := s.draw
      let k := Config.identityPrimes (BitVec.ofNat 512 (leNat (sha512 (leBytes 64 d.1.toNat))))
      let n := BitVec.ofNat 4096 (k.1.toNat * k.2.toNat)
      let s := d.2.identityBytes 88 (keyBytes n ++ privBytes k.1.toNat k.2.toNat)
      (s.setIdflags (s.bank 8 8 ||| 1)).emit (.idPub n))

/-- REVOKE: the vendor root hash VK0 is revoked (R562). -/
def execRevoke (key sig : BitVec 4096) (s : State) : Host.Outcome State Fault Refusal :=
  .next (if !s.on || !s.vendorKey key || !pssVerify key.toNat sig.toNat (Config.signedBytes 3 (keyBytes key)) then s
    else s.setIdflags (s.bank 8 8 ||| 4))

end Sys2Proof.Machine
end

