-- ==== Sys2Proof/Machine/Shuttle.lean ====
section
/-! DEFINITION. The shuttle instructions (R422, R423): issue; Machine/ShutRun.lean says what they do. -/

namespace Sys2Proof.Machine

/-- What the issue of a shuttle instruction needs: SCAN and EMIT name a second descriptor and a parameter (R422). -/
def shutIss (g : EForm) (two : Bool) (descs : List Nat) : Iss :=
  { major := 0x1D, form := g, bad := if two then g.modf 0 11 ≠ 0 else g.modf 11 13 ≠ 0, engine := .vector
    descs := descs, params := if two then [g.modf 11 5] else [], ve := true }

/-- SHUT.SCAN: issues the scan of logit rows (R288, R422). -/
def execShutScan (w : Who) (f : EForm) (s : State) : Host.Outcome State Fault Refusal :=
  let g := f.op 24 2 0
  .next (s.issue w (.shutScan w g) (shutIss g true [g.desc.toNat, g.modf 16 8]))

/-- SHUT.EMIT: issues the emission of soft-target records (R291, R299, R422). -/
def execShutEmit (w : Who) (f : EForm) (s : State) : Host.Outcome State Fault Refusal :=
  let g := f.op 24 2 1
  .next (s.issue w (.shutEmit w g) (shutIss g true [g.desc.toNat, g.modf 16 8]))

/-- SHUT.TAKE: issues the taking of records (R301, R422). -/
def execShutTake (w : Who) (f : EForm) (s : State) : Host.Outcome State Fault Refusal :=
  let g := f.op 24 2 2
  .next (s.issue w (.shutTake w g) (shutIss g false []))

/-- SHUT.FREE: issues the freeing of records (R301, R422). -/
def execShutFree (w : Who) (f : EForm) (s : State) : Host.Outcome State Fault Refusal :=
  let g := f.op 24 2 3
  .next (s.issue w (.shutFree w g) (shutIss g false []))

end Sys2Proof.Machine
end

