-- ==== Sys2Proof/Machine/TimeUnit.lean ====
section
/-! DEFINITION. The time unit: PTP, PPS_IN, PPS_OUT and the compare units (R570 to R572). -/

namespace Sys2Proof.Machine

/-- TIME_CTL (R571). -/
def State.timeCtl (s : State) : Nat := (s.wp 5).toNat

/-- The module's PTP port runs: the mill is up and the management port has its link (R566, R570). -/
def State.ptpOn (s : State) : Bool := s.on && s.sec.ethUp

/-- A PTP message comes in the domain and over the transport that TIME_CTL sets (R570, R571). -/
def State.ptpHears (s : State) (m : PtpMsg) : Bool :=
  s.ptpOn && decide (m.domain.toNat = bitsOf s.timeCtl 24 8) && m.eth = s.timeCtl.testBit 23

/-- PTP steers the counter: in mode root, and in mode auto once it is locked or while no fabric root is known (R487; log
entry 51). -/
def State.ptpSteers (s : State) : Bool :=
  s.timeMode = 1 || (s.timeMode = 0 && (s.time.locked || s.parent.isNone))

/-- PTP_SYNC: the grandmaster's time at the Sync. The counter steps forward where it lags by more than 100 µs; every other
correction slews it. Sixteen Syncs in a row within 1 µs declare lock (R570). The Sync is that of the grandmaster that the standard's
algorithm chooses (log entry 51). -/
def execPtpSync (m : PtpMsg) (s : State) : Host.Outcome State Fault Refusal :=
  .next (if !s.ptpHears m then s
    else
      let there : Int := m.time.toNat + s.time.path
      let off : Int := s.ns - there
      let good := if -1000 ≤ off ∧ off ≤ 1000 then s.time.good + 1 else 0
      let old := s.time.locked
      let steer := s.ptpSteers
      let s := { s with time := { s.time with
        offs := BitVec.ofInt 64 off, good := min good 16, locked := old || decide (16 ≤ good), master := m.time
        syncAt := s.ns } }
      let s := if !steer then s
        else if off < -100000 then { s with time := { s.time with now := there.toNat * 2 ^ 32 } }
        else s.slew off
      if s.time.locked && !old then s.settleSource else s)

/-- PTP_DELAY_REQUEST: a Delay_Req leaves (R570). -/
def execPtpDelayRequest (s : State) : Host.Outcome State Fault Refusal :=
  .next (if s.ptpOn then ({ s with time := { s.time with reqAt := some s.ns } }).emit (.ptpReq (BitVec.ofNat 64 s.ns)) else s)

/-- PTP_DELAY_RESP: the mean of the two ways is the delay (R570). -/
def execPtpDelayResp (m : PtpMsg) (s : State) : Host.Outcome State Fault Refusal :=
  .next (match s.ptpHears m, s.time.reqAt with
    | true, some t3 =>
      let d : Int := ((s.time.syncAt : Int) - s.time.master.toNat + (m.time.toNat - t3)) / 2
      { s with time := { s.time with path := d, reqAt := none } }
    | _, _ => s)

/-- PTP_HOLDOVER: 3 s without a Sync (R570). -/
def execPtpHoldover (s : State) : Host.Outcome State Fault Refusal :=
  .next (if s.on && s.time.locked && decide (s.time.syncAt + 3 * 10 ^ 9 ≤ s.ns) then
      ({ s with time := { s.time with locked := false, good := 0 } }).settleSource
    else s)

/-- PPS_IN_EDGE: the edge is timestamped; with PPSIN_EN one within 1 µs of a second sets the phase: forward at once, backward
by slewing (R570, R571; log entry 52). -/
def execPpsInEdge (s : State) : Host.Outcome State Fault Refusal :=
  let r : Nat := s.ns % 10 ^ 9
  .next (if !s.on then s
    else
      let s := { s with time := { s.time with ppsin := BitVec.ofNat 64 s.ns } }
      if !s.timeCtl.testBit 22 then s
      else if r ≤ 1000 then s.slew (r : Int)
      else if 10 ^ 9 - 1000 ≤ r then { s with time := { s.time with now := (s.ns - r + 10 ^ 9) * 2 ^ 32 } }
      else s)

/-- PPSOUT allows a pulse (R571). -/
def State.ppsAllowed (s : State) : Bool :=
  match bitsOf s.timeCtl 20 2 with
  | 0 => false
  | 1 => s.timeState = 1
  | 2 => s.timeState = 1 || s.timeState = 2
  | _ => true

/-- PPS_OUT: the pin rises as the counter crosses a multiple of 10^9, and stays high for 100 ms, unless the pin is claimed
(R571, R592). -/
def execPpsOut (s : State) : Host.Outcome State Fault Refusal :=
  let r : Nat := s.ns % 10 ^ 9
  .next (if s.on && s.ppsAllowed && !s.sec.dbgTrig && !s.time.ppsOut && decide (r ≤ 2) then
      ({ s with time := { s.time with ppsOut := true, ppsEnd := s.ns - r + 10 ^ 8 } }).emit (.pps true)
    else s)

/-- COMPARE_FIRE: an armed unit whose value is reached. Units 0 to 6 clear ARM and write a record; unit 7 is the mill's quantum
and takes its next tick (R572; log entry 53). -/
def execCompareFire (u : BitVec 3) (s : State) : Host.Outcome State Fault Refusal :=
  let n := u.toNat
  let v := s.time.cmp.get n 0
  .next (if !s.on || !s.time.cmpctl.toNat.testBit n || decide (s.ns < v.toNat) then s
    else if n = 7 then
      let next := BitVec.ofNat 64 (s.ns + 1) + ((Config.freeBits s.free).truncate 32).zeroExtend 64
      { s with time := { s.time with cmp := s.time.cmp.set 7 next 0 }, free := s.free + 1 }
    else
      ({ s with time := { s.time with cmpctl := s.time.cmpctl &&& ~~~(1#32 <<< n) } }).baroWrite 0x0C 1 true
        [codeW 0 (8 + n) v.toNat])

end Sys2Proof.Machine
end

