-- ==== Sys2Proof/Machine/Update.lean ====
section
/-! DEFINITION. The update instructions (R418): issue; Machine/UpdRun.lean says what they do. -/

namespace Sys2Proof.Machine

/-- The bytes of an update descriptor that name descriptors the operation uses (R327, R398): PRES_D unless every block is
present, and FAC_D, RS_D and CS_D under FACT. -/
def updNested (d : Line) : List Nat :=
  if lineBytes d 0 0 ≠ 0x55 then []
  else [2, 3, 8] ++ (if lineBytes d 4 4 = 255 then [] else [4]) ++ (if lineBytes d 1 1 = 0 then [5, 6, 7] else [])

/-- What the issue of an UPD operation needs (R418). -/
def updIss (g : EForm) (ps : List Nat) : Iss :=
  { major := 0x19, form := g, bad := g.modf 0 14 ≠ 0, engine := .vector, descs := [g.desc.toNat]
    nested := updNested, params := ps, ve := true }

/-- UPD.STAT: issues the update of the factor block (R333, R340, R418). -/
def execUpdStat (w : Who) (f : EForm) (s : State) : Host.Outcome State Fault Refusal :=
  let g := f.op 24 2 0
  .next (s.issue w (.updStat w g) (updIss g []))

/-- UPD.APPLY: issues the update of a share of rows (R333, R337, R418). -/
def execUpdApply (w : Who) (f : EForm) (s : State) : Host.Outcome State Fault Refusal :=
  let g := f.op 24 2 1
  .next (s.issue w (.updApply w g) (updIss g [g.modf 19 5, g.modf 14 5]))

end Sys2Proof.Machine
end

