-- ==== Sys2Proof/Machine/Vector.lean ====
section
/-! DEFINITION. The vector engine instructions (R410 to R417): issue; Machine/VecRun.lean and Machine/ShutRun.lean say what they
do. -/

namespace Sys2Proof.Machine

/-- What the issue of an operation of MAJOR 0x14 needs (R410, R411): `b` where SRC_B is read, `tone` and `logout`
where those bits are allowed. -/
def veIss (g : EForm) (b tone logout : Bool) : Iss :=
  { major := 0x14, form := g, bad := (!tone && g.modf 25 1 = 1) || (!logout && g.modf 24 1 = 1), engine := .vector
    descs := [g.desc.toNat, g.modf 16 8] ++ (if b && !(tone && g.modf 25 1 = 1) then [g.modf 8 8] else []), ve := true }

/-- VE.ADD: issues the vector engine operation (R265, R411). -/
def execVeAdd (w : Who) (f : EForm) (s : State) : Host.Outcome State Fault Refusal :=
  let g := f.op 0 8 0
  .next (s.issue w (.veAdd w g) (veIss g true false false))

/-- VE.SUB: issues the vector engine operation (R265, R411). -/
def execVeSub (w : Who) (f : EForm) (s : State) : Host.Outcome State Fault Refusal :=
  let g := f.op 0 8 1
  .next (s.issue w (.veSub w g) (veIss g true false false))

/-- VE.MUL: issues the vector engine operation (R266, R411). -/
def execVeMul (w : Who) (f : EForm) (s : State) : Host.Outcome State Fault Refusal :=
  let g := f.op 0 8 2
  .next (s.issue w (.veMul w g) (veIss g true false false))

/-- VE.NEG: issues the vector engine operation (R265, R411). -/
def execVeNeg (w : Who) (f : EForm) (s : State) : Host.Outcome State Fault Refusal :=
  let g := f.op 0 8 3
  .next (s.issue w (.veNeg w g) (veIss g false false false))

/-- VE.ABS: issues the vector engine operation (R265, R411). -/
def execVeAbs (w : Who) (f : EForm) (s : State) : Host.Outcome State Fault Refusal :=
  let g := f.op 0 8 4
  .next (s.issue w (.veAbs w g) (veIss g false false false))

/-- VE.CMP.EQ: issues the vector engine operation (R265, R411). -/
def execVeCmpEq (w : Who) (f : EForm) (s : State) : Host.Outcome State Fault Refusal :=
  let g := f.op 0 8 5
  .next (s.issue w (.veCmpEq w g) (veIss g true false false))

/-- VE.CMP.LT: issues the vector engine operation (R265, R411). -/
def execVeCmpLt (w : Who) (f : EForm) (s : State) : Host.Outcome State Fault Refusal :=
  let g := f.op 0 8 6
  .next (s.issue w (.veCmpLt w g) (veIss g true false false))

/-- VE.CMP.LE: issues the vector engine operation (R265, R411). -/
def execVeCmpLe (w : Who) (f : EForm) (s : State) : Host.Outcome State Fault Refusal :=
  let g := f.op 0 8 7
  .next (s.issue w (.veCmpLe w g) (veIss g true false false))

/-- VE.SEL: issues the vector engine operation (R265, R411). -/
def execVeSel (w : Who) (f : EForm) (s : State) : Host.Outcome State Fault Refusal :=
  let g := f.op 0 8 8
  .next (s.issue w (.veSel w g) (veIss g true false false))

/-- VE.MAX: issues the vector engine operation (R270, R411). -/
def execVeMax (w : Who) (f : EForm) (s : State) : Host.Outcome State Fault Refusal :=
  let g := f.op 0 8 9
  .next (s.issue w (.veMax w g) (veIss g true false false))

/-- VE.MIN: issues the vector engine operation (R270, R411). -/
def execVeMin (w : Who) (f : EForm) (s : State) : Host.Outcome State Fault Refusal :=
  let g := f.op 0 8 10
  .next (s.issue w (.veMin w g) (veIss g true false false))

/-- VE.CVT: issues the vector engine operation (R58 to R64, R411). -/
def execVeCvt (w : Who) (f : EForm) (s : State) : Host.Outcome State Fault Refusal :=
  let g := f.op 0 8 11
  .next (s.issue w (.veCvt w g) (veIss g false false false))

/-- VE.RECIP: issues the vector engine operation (R268, R411). -/
def execVeRecip (w : Who) (f : EForm) (s : State) : Host.Outcome State Fault Refusal :=
  let g := f.op 0 8 16
  .next (s.issue w (.veRecip w g) (veIss g false false false))

/-- VE.SQRT: issues the vector engine operation (R268, R411). -/
def execVeSqrt (w : Who) (f : EForm) (s : State) : Host.Outcome State Fault Refusal :=
  let g := f.op 0 8 17
  .next (s.issue w (.veSqrt w g) (veIss g false false false))

/-- VE.RSQRT: issues the vector engine operation (R268, R411). -/
def execVeRsqrt (w : Who) (f : EForm) (s : State) : Host.Outcome State Fault Refusal :=
  let g := f.op 0 8 18
  .next (s.issue w (.veRsqrt w g) (veIss g false false false))

/-- VE.LOG2: issues the vector engine operation (R268, R411). -/
def execVeLog2 (w : Who) (f : EForm) (s : State) : Host.Outcome State Fault Refusal :=
  let g := f.op 0 8 19
  .next (s.issue w (.veLog2 w g) (veIss g false false false))

/-- VE.LN: issues the vector engine operation (R268, R411). -/
def execVeLn (w : Who) (f : EForm) (s : State) : Host.Outcome State Fault Refusal :=
  let g := f.op 0 8 20
  .next (s.issue w (.veLn w g) (veIss g false false false))

/-- VE.EXP: issues the vector engine operation (R98, R268, R411). -/
def execVeExp (w : Who) (f : EForm) (s : State) : Host.Outcome State Fault Refusal :=
  let g := f.op 0 8 21
  .next (s.issue w (.veExp w g) (veIss g true true false))

/-- VE.SIGMOID: issues the vector engine operation (R218, R411). -/
def execVeSigmoid (w : Who) (f : EForm) (s : State) : Host.Outcome State Fault Refusal :=
  let g := f.op 0 8 22
  .next (s.issue w (.veSigmoid w g) (veIss g false false false))

/-- VE.SUM: issues the vector engine operation (R271, R411). -/
def execVeSum (w : Who) (f : EForm) (s : State) : Host.Outcome State Fault Refusal :=
  let g := f.op 0 8 32
  .next (s.issue w (.veSum w g) (veIss g false false false))

/-- VE.SUMSQ: issues the vector engine operation (R271, R411). -/
def execVeSumsq (w : Who) (f : EForm) (s : State) : Host.Outcome State Fault Refusal :=
  let g := f.op 0 8 33
  .next (s.issue w (.veSumsq w g) (veIss g false false false))

/-- VE.LSUM: issues the vector engine operation (R272, R411). -/
def execVeLsum (w : Who) (f : EForm) (s : State) : Host.Outcome State Fault Refusal :=
  let g := f.op 0 8 34
  .next (s.issue w (.veLsum w g) (veIss g false false false))

/-- VE.LSE: issues the vector engine operation (R273, R411). -/
def execVeLse (w : Who) (f : EForm) (s : State) : Host.Outcome State Fault Refusal :=
  let g := f.op 0 8 35
  .next (s.issue w (.veLse w g) (veIss g true true false))

/-- VE.SOFTMAX: issues the vector engine operation (R273, R411). -/
def execVeSoftmax (w : Who) (f : EForm) (s : State) : Host.Outcome State Fault Refusal :=
  let g := f.op 0 8 36
  .next (s.issue w (.veSoftmax w g) (veIss g true true true))

/-- VE.MAXR: issues the vector engine operation (R270, R411). -/
def execVeMaxr (w : Who) (f : EForm) (s : State) : Host.Outcome State Fault Refusal :=
  let g := f.op 0 8 37
  .next (s.issue w (.veMaxr w g) (veIss g true false false))

/-- VE.MINR: issues the vector engine operation (R270, R411). -/
def execVeMinr (w : Who) (f : EForm) (s : State) : Host.Outcome State Fault Refusal :=
  let g := f.op 0 8 38
  .next (s.issue w (.veMinr w g) (veIss g true false false))

/-- VE.POW: issues the vector engine operation (R268, R413). -/
def execVePow (w : Who) (f : EForm) (s : State) : Host.Outcome State Fault Refusal :=
  let g := f
  .next (s.issue w (.vePow w g) 
    { major := 0x15, form := g, bad := g.modf 24 2 ≠ 0, engine := .vector, descs := [g.desc.toNat, g.modf 16 8], ve := true })

/-- What the issue of an operation of MAJOR 0x16 needs (R414). -/
def rankIss (g : EForm) : Iss :=
  { major := 0x16, form := g, bad := g.modf 24 2 ≠ 0 || g.modf 8 3 ≠ 0, engine := .vector
    descs := [g.desc.toNat, g.modf 16 8], params := [g.modf 11 5], ve := true }

/-- VE.TOPK: issues the vector engine operation (R275, R414). -/
def execVeTopk (w : Who) (f : EForm) (s : State) : Host.Outcome State Fault Refusal :=
  let g := f.op 0 8 0
  .next (s.issue w (.veTopk w g) (rankIss g))

/-- VE.TOPKMERGE: issues the vector engine operation (R277, R414). -/
def execVeTopkmerge (w : Who) (f : EForm) (s : State) : Host.Outcome State Fault Refusal :=
  let g := f.op 0 8 1
  .next (s.issue w (.veTopkmerge w g) (rankIss g))

/-- VE.COMBINE: issues the vector engine operation (R279, R414). -/
def execVeCombine (w : Who) (f : EForm) (s : State) : Host.Outcome State Fault Refusal :=
  let g := f.op 0 8 2
  .next (s.issue w (.veCombine w g) (rankIss g))

/-- VE.KLTOPK: issues the distillation loss and gradient (R305, R415). -/
def execVeKltopk (w : Who) (f : EForm) (s : State) : Host.Outcome State Fault Refusal :=
  let g := f
  .next (s.issue w (.veKltopk w g) 
    { major := 0x17, form := g, bad := g.modf 24 1 = 1, engine := .vector
      descs := [g.desc.toNat, g.modf 16 8, g.modf 8 8, g.modf 0 8], ve := true })

/-- What the issue of an operation of MAJOR 0x18 needs (R417). -/
def qzIss (g : EForm) : Iss :=
  { major := 0x18, form := g, bad := g.modf 0 16 ≠ 0, engine := .vector, descs := [g.desc.toNat, g.modf 16 8], ve := true }

/-- VE.QZ: issues the quantiser operation (R280, R417). -/
def execVeQz (w : Who) (f : EForm) (s : State) : Host.Outcome State Fault Refusal :=
  let g := f.op 24 2 0
  .next (s.issue w (.veQz w g) (qzIss g))

/-- VE.AMAX: issues the quantiser operation (R281, R417). -/
def execVeAmax (w : Who) (f : EForm) (s : State) : Host.Outcome State Fault Refusal :=
  let g := f.op 24 2 1
  .next (s.issue w (.veAmax w g) (qzIss g))

/-- VE.DQ: issues the quantiser operation (R282, R417). -/
def execVeDq (w : Who) (f : EForm) (s : State) : Host.Outcome State Fault Refusal :=
  let g := f.op 24 2 2
  .next (s.issue w (.veDq w g) (qzIss g))

/-- VE.XPOSE: issues the quantiser operation (R283, R417). -/
def execVeXpose (w : Who) (f : EForm) (s : State) : Host.Outcome State Fault Refusal :=
  let g := f.op 24 2 3
  .next (s.issue w (.veXpose w g) (qzIss g))

end Sys2Proof.Machine
end

