-- ==== Sys2Proof/Machine/Dispatch.lean ====
section
/-! DEFINITION. The dispatch of a command to its meaning: one arm for each row of the table. -/

namespace Sys2Proof.Machine

/-- The effect of a command on everything but the queue. -/
def exec (i : Instr) (s : State) : Host.Outcome State Fault Refusal :=
  match i with
  | .aluAdd w f => Sys2Proof.Machine.execAluAdd w f s
  | .aluSub w f => Sys2Proof.Machine.execAluSub w f s
  | .aluAnd w f => Sys2Proof.Machine.execAluAnd w f s
  | .aluOr w f => Sys2Proof.Machine.execAluOr w f s
  | .aluXor w f => Sys2Proof.Machine.execAluXor w f s
  | .aluSll w f => Sys2Proof.Machine.execAluSll w f s
  | .aluSrl w f => Sys2Proof.Machine.execAluSrl w f s
  | .aluSra w f => Sys2Proof.Machine.execAluSra w f s
  | .aluMin w f => Sys2Proof.Machine.execAluMin w f s
  | .aluMax w f => Sys2Proof.Machine.execAluMax w f s
  | .aluMinu w f => Sys2Proof.Machine.execAluMinu w f s
  | .aluMaxu w f => Sys2Proof.Machine.execAluMaxu w f s
  | .aluSlt w f => Sys2Proof.Machine.execAluSlt w f s
  | .aluSltu w f => Sys2Proof.Machine.execAluSltu w f s
  | .aluClz w f => Sys2Proof.Machine.execAluClz w f s
  | .aluPopc w f => Sys2Proof.Machine.execAluPopc w f s
  | .addi w f => Sys2Proof.Machine.execAddi w f s
  | .lih w f => Sys2Proof.Machine.execLih w f s
  | .ld w f => Sys2Proof.Machine.execLd w f s
  | .st w f => Sys2Proof.Machine.execSt w f s
  | .aadd w f => Sys2Proof.Machine.execAadd w f s
  | .amov w f => Sys2Proof.Machine.execAmov w f s
  | .aget w f => Sys2Proof.Machine.execAget w f s
  | .cmppEq w f => Sys2Proof.Machine.execCmppEq w f s
  | .cmppNe w f => Sys2Proof.Machine.execCmppNe w f s
  | .cmppLt w f => Sys2Proof.Machine.execCmppLt w f s
  | .cmppLtu w f => Sys2Proof.Machine.execCmppLtu w f s
  | .cmppLe w f => Sys2Proof.Machine.execCmppLe w f s
  | .cmppLeu w f => Sys2Proof.Machine.execCmppLeu w f s
  | .pand w f => Sys2Proof.Machine.execPand w f s
  | .por w f => Sys2Proof.Machine.execPor w f s
  | .pnot w f => Sys2Proof.Machine.execPnot w f s
  | .br w f => Sys2Proof.Machine.execBr w f s
  | .loop w f => Sys2Proof.Machine.execLoop w f s
  | .endl w f => Sys2Proof.Machine.execEndl w f s
  | .taskPush w f => Sys2Proof.Machine.execTaskPush w f s
  | .taskPop w f => Sys2Proof.Machine.execTaskPop w f s
  | .syncKwait w f => Sys2Proof.Machine.execSyncKwait w f s
  | .syncKjoin w f => Sys2Proof.Machine.execSyncKjoin w f s
  | .syncKread w f => Sys2Proof.Machine.execSyncKread w f s
  | .syncFence w f => Sys2Proof.Machine.execSyncFence w f s
  | .syncStep w f => Sys2Proof.Machine.execSyncStep w f s
  | .sysRd w f => Sys2Proof.Machine.execSysRd w f s
  | .sysWr w f => Sys2Proof.Machine.execSysWr w f s
  | .sysEnd w f => Sys2Proof.Machine.execSysEnd w f s
  | .sysNop w f => Sys2Proof.Machine.execSysNop w f s
  | .mxF w f => Sys2Proof.Machine.execMxF w f s
  | .mxH w f => Sys2Proof.Machine.execMxH w f s
  | .mxQ w f => Sys2Proof.Machine.execMxQ w f s
  | .mxRib32 w f => Sys2Proof.Machine.execMxRib32 w f s
  | .mxRib16 w f => Sys2Proof.Machine.execMxRib16 w f s
  | .accOpen w f => Sys2Proof.Machine.execAccOpen w f s
  | .accDrain w f => Sys2Proof.Machine.execAccDrain w f s
  | .veAdd w f => Sys2Proof.Machine.execVeAdd w f s
  | .veSub w f => Sys2Proof.Machine.execVeSub w f s
  | .veMul w f => Sys2Proof.Machine.execVeMul w f s
  | .veNeg w f => Sys2Proof.Machine.execVeNeg w f s
  | .veAbs w f => Sys2Proof.Machine.execVeAbs w f s
  | .veCmpEq w f => Sys2Proof.Machine.execVeCmpEq w f s
  | .veCmpLt w f => Sys2Proof.Machine.execVeCmpLt w f s
  | .veCmpLe w f => Sys2Proof.Machine.execVeCmpLe w f s
  | .veSel w f => Sys2Proof.Machine.execVeSel w f s
  | .veMax w f => Sys2Proof.Machine.execVeMax w f s
  | .veMin w f => Sys2Proof.Machine.execVeMin w f s
  | .veCvt w f => Sys2Proof.Machine.execVeCvt w f s
  | .veRecip w f => Sys2Proof.Machine.execVeRecip w f s
  | .veSqrt w f => Sys2Proof.Machine.execVeSqrt w f s
  | .veRsqrt w f => Sys2Proof.Machine.execVeRsqrt w f s
  | .veLog2 w f => Sys2Proof.Machine.execVeLog2 w f s
  | .veLn w f => Sys2Proof.Machine.execVeLn w f s
  | .veExp w f => Sys2Proof.Machine.execVeExp w f s
  | .veSigmoid w f => Sys2Proof.Machine.execVeSigmoid w f s
  | .veSum w f => Sys2Proof.Machine.execVeSum w f s
  | .veSumsq w f => Sys2Proof.Machine.execVeSumsq w f s
  | .veLsum w f => Sys2Proof.Machine.execVeLsum w f s
  | .veLse w f => Sys2Proof.Machine.execVeLse w f s
  | .veSoftmax w f => Sys2Proof.Machine.execVeSoftmax w f s
  | .veMaxr w f => Sys2Proof.Machine.execVeMaxr w f s
  | .veMinr w f => Sys2Proof.Machine.execVeMinr w f s
  | .vePow w f => Sys2Proof.Machine.execVePow w f s
  | .veTopk w f => Sys2Proof.Machine.execVeTopk w f s
  | .veTopkmerge w f => Sys2Proof.Machine.execVeTopkmerge w f s
  | .veCombine w f => Sys2Proof.Machine.execVeCombine w f s
  | .veKltopk w f => Sys2Proof.Machine.execVeKltopk w f s
  | .veQz w f => Sys2Proof.Machine.execVeQz w f s
  | .veAmax w f => Sys2Proof.Machine.execVeAmax w f s
  | .veDq w f => Sys2Proof.Machine.execVeDq w f s
  | .veXpose w f => Sys2Proof.Machine.execVeXpose w f s
  | .updStat w f => Sys2Proof.Machine.execUpdStat w f s
  | .updApply w f => Sys2Proof.Machine.execUpdApply w f s
  | .reelIn w f => Sys2Proof.Machine.execReelIn w f s
  | .reelOut w f => Sys2Proof.Machine.execReelOut w f s
  | .reelPsend w f => Sys2Proof.Machine.execReelPsend w f s
  | .syncPrecv w f => Sys2Proof.Machine.execSyncPrecv w f s
  | .twBits w f => Sys2Proof.Machine.execTwBits w f s
  | .twMask w f => Sys2Proof.Machine.execTwMask w f s
  | .twUnif w f => Sys2Proof.Machine.execTwUnif w f s
  | .shutScan w f => Sys2Proof.Machine.execShutScan w f s
  | .shutEmit w f => Sys2Proof.Machine.execShutEmit w f s
  | .shutTake w f => Sys2Proof.Machine.execShutTake w f s
  | .shutFree w f => Sys2Proof.Machine.execShutFree w f s
  | .operationStart w e held us => Sys2Proof.Machine.execOperationStart w e held us s
  | .knotSignal w e => Sys2Proof.Machine.execKnotSignal w e s
  | .levelInterval l work => Sys2Proof.Machine.execLevelInterval l work s
  | .drizzleGapExpiry l => Sys2Proof.Machine.execDrizzleGapExpiry l s
  | .stepCommit job u => Sys2Proof.Machine.execStepCommit job u s
  | .jobBoundary job u => Sys2Proof.Machine.execJobBoundary job u s
  | .stepReplay job => Sys2Proof.Machine.execStepReplay job s
  | .commandRingPoll client => Sys2Proof.Machine.execCommandRingPoll client s
  | .submit client ref entry => Sys2Proof.Machine.execSubmit client ref entry s
  | .stop client ref entry => Sys2Proof.Machine.execStop client ref entry s
  | .resume client ref entry => Sys2Proof.Machine.execResume client ref entry s
  | .abort client ref entry => Sys2Proof.Machine.execAbort client ref entry s
  | .jobPlace job => Sys2Proof.Machine.execJobPlace job s
  | .fillWaitLimit job => Sys2Proof.Machine.execFillWaitLimit job s
  | .jobSwitchOut job => Sys2Proof.Machine.execJobSwitchOut job s
  | .jobSwitchIn job => Sys2Proof.Machine.execJobSwitchIn job s
  | .pageMigrate job page => Sys2Proof.Machine.execPageMigrate job page s
  | .completionWrite client => Sys2Proof.Machine.execCompletionWrite client s
  | .jobRcfgWrite fn v => Sys2Proof.Machine.execJobRcfgWrite fn v s
  | .functionLevelReset fn => Sys2Proof.Machine.execFunctionLevelReset fn s
  | .busMasterEnableClear fn => Sys2Proof.Machine.execBusMasterEnableClear fn s
  | .remoteCommand src ref entry => Sys2Proof.Machine.execRemoteCommand src ref entry s
  | .registerWrite r v fails => Sys2Proof.Machine.execRegisterWrite r v fails s
  | .intakePoll job => Sys2Proof.Machine.execIntakePoll job s
  | .checkpointReport job => Sys2Proof.Machine.execCheckpointReport job s
  | .checkpointFail job => Sys2Proof.Machine.execCheckpointFail job s
  | .evaluation job toks => Sys2Proof.Machine.execEvaluation job toks s
  | .campaignEnd job => Sys2Proof.Machine.execCampaignEnd job s
  | .reportWrite job => Sys2Proof.Machine.execReportWrite job s
  | .shuttleRecord h slot => Sys2Proof.Machine.execShuttleRecord h slot s
  | .shuttleCredit h => Sys2Proof.Machine.execShuttleCredit h s
  | .creditReturn frame => Sys2Proof.Machine.execCreditReturn frame s
  | .shuttleRewind h => Sys2Proof.Machine.execShuttleRewind h s
  | .pipeMessage h data => Sys2Proof.Machine.execPipeMessage h data s
  | .pipeCommitNotice h => Sys2Proof.Machine.execPipeCommitNotice h s
  | .flitReceive link flit fixed => Sys2Proof.Machine.execFlitReceive link flit fixed s
  | .linkReplayRequest link fseq => Sys2Proof.Machine.execLinkReplayRequest link fseq s
  | .laneSpare link lane => Sys2Proof.Machine.execLaneSpare link lane s
  | .linkFail link => Sys2Proof.Machine.execLinkFail link s
  | .linkRetrain link trained => Sys2Proof.Machine.execLinkRetrain link trained s
  | .linkDiscovery link theirs nlink => Sys2Proof.Machine.execLinkDiscovery link theirs nlink s
  | .neighbourLost g => Sys2Proof.Machine.execNeighbourLost g s
  | .collectiveStart job entry u => Sys2Proof.Machine.execCollectiveStart job entry u s
  | .collectiveData h data => Sys2Proof.Machine.execCollectiveData h data s
  | .contributionDigest h dig u => Sys2Proof.Machine.execContributionDigest h dig u s
  | .collectiveAck h => Sys2Proof.Machine.execCollectiveAck h s
  | .resend h => Sys2Proof.Machine.execResend h s
  | .scatterAdd h data => Sys2Proof.Machine.execScatterAdd h data s
  | .collectiveEnd job entry => Sys2Proof.Machine.execCollectiveEnd job entry s
  | .fabricSyncSend => Sys2Proof.Machine.execFabricSyncSend s
  | .fabricSync link tag => Sys2Proof.Machine.execFabricSync link tag s
  | .delayMeasure => Sys2Proof.Machine.execDelayMeasure s
  | .delayReq link tag => Sys2Proof.Machine.execDelayReq link tag s
  | .delayResp link tag => Sys2Proof.Machine.execDelayResp link tag s
  | .fabricHoldover => Sys2Proof.Machine.execFabricHoldover s
  | .cxlPortLost port => Sys2Proof.Machine.execCxlPortLost port s
  | .cxlRetrain port trained ids => Sys2Proof.Machine.execCxlRetrain port trained ids s
  | .cxlGiveUp port => Sys2Proof.Machine.execCxlGiveUp port s
  | .hbmRequest stack unit store => Sys2Proof.Machine.execHbmRequest stack unit store s
  | .atomicFp32Add addr v => Sys2Proof.Machine.execAtomicFp32Add addr v s
  | .atomicFp32Max addr v => Sys2Proof.Machine.execAtomicFp32Max addr v s
  | .atomicU64Add addr v => Sys2Proof.Machine.execAtomicU64Add addr v s
  | .atomicByteOr addr v => Sys2Proof.Machine.execAtomicByteOr addr v s
  | .patrolScrub addr found => Sys2Proof.Machine.execPatrolScrub addr found s
  | .spotTestDue site => Sys2Proof.Machine.execSpotTestDue site s
  | .spotTestDeferExpiry site => Sys2Proof.Machine.execSpotTestDeferExpiry site s
  | .spotTestComplete site d1 d2 d3 => Sys2Proof.Machine.execSpotTestComplete site d1 d2 d3 s
  | .spotTestRetry site => Sys2Proof.Machine.execSpotTestRetry site s
  | .twinSampleCompare sample dig => Sys2Proof.Machine.execTwinSampleCompare sample dig s
  | .commandCoreFail core => Sys2Proof.Machine.execCommandCoreFail core s
  | .openReq from_ cred nc => Sys2Proof.Machine.execOpenReq from_ cred nc s
  | .openProof sid proof => Sys2Proof.Machine.execOpenProof sid proof s
  | .close m => Sys2Proof.Machine.execClose m s
  | .sessionChallengeExpiry sid => Sys2Proof.Machine.execSessionChallengeExpiry sid s
  | .sessionIdleTimeout sid => Sys2Proof.Machine.execSessionIdleTimeout sid s
  | .credentialBarExpiry cred => Sys2Proof.Machine.execCredentialBarExpiry cred s
  | .regRead m r => Sys2Proof.Machine.execRegRead m r s
  | .regWrite m r v fails => Sys2Proof.Machine.execRegWrite m r v fails s
  | .baroRead m seq => Sys2Proof.Machine.execBaroRead m seq s
  | .baroClear m seq => Sys2Proof.Machine.execBaroClear m seq s
  | .jobCmd m entry => Sys2Proof.Machine.execJobCmd m entry s
  | .jobDone m => Sys2Proof.Machine.execJobDone m s
  | .credSet m idx entry => Sys2Proof.Machine.execCredSet m idx entry s
  | .credDel m idx => Sys2Proof.Machine.execCredDel m idx s
  | .bind m client v => Sys2Proof.Machine.execBind m client v s
  | .fwWrite m image => Sys2Proof.Machine.execFwWrite m image s
  | .arbCommit m => Sys2Proof.Machine.execArbCommit m s
  | .measExtend m n d => Sys2Proof.Machine.execMeasExtend m n d s
  | .release m key sig => Sys2Proof.Machine.execRelease m key sig s
  | .claim t key cred sig => Sys2Proof.Machine.execClaim t key cred sig s
  | .provision key sig => Sys2Proof.Machine.execProvision key sig s
  | .revoke key sig => Sys2Proof.Machine.execRevoke key sig s
  | .getVersion p => Sys2Proof.Machine.execGetVersion p s
  | .getCapabilities p => Sys2Proof.Machine.execGetCapabilities p s
  | .negotiateAlgorithms p => Sys2Proof.Machine.execNegotiateAlgorithms p s
  | .getDigests p => Sys2Proof.Machine.execGetDigests p s
  | .getCertificate p slot off len => Sys2Proof.Machine.execGetCertificate p slot off len s
  | .challenge p slot nonce => Sys2Proof.Machine.execChallenge p slot nonce s
  | .getMeasurements p idx signed nonce => Sys2Proof.Machine.execGetMeasurements p idx signed nonce s
  | .entdaa da => Sys2Proof.Machine.execEntdaa da s
  | .rstdaa => Sys2Proof.Machine.execRstdaa s
  | .ethernetLinkUp => Sys2Proof.Machine.execEthernetLinkUp s
  | .ethernetLinkDown => Sys2Proof.Machine.execEthernetLinkDown s
  | .arpRequest target sender mac => Sys2Proof.Machine.execArpRequest target sender mac s
  | .icmpEcho dst src data => Sys2Proof.Machine.execIcmpEcho dst src data s
  | .bypass tdi => Sys2Proof.Machine.execBypass tdi s
  | .idcode => Sys2Proof.Machine.execIdcode s
  | .samplePreload preload => Sys2Proof.Machine.execSamplePreload preload s
  | .extest pins => Sys2Proof.Machine.execExtest pins s
  | .dbgNonce => Sys2Proof.Machine.execDbgNonce s
  | .dbgToken t => Sys2Proof.Machine.execDbgToken t s
  | .dbgTrigClaim => Sys2Proof.Machine.execDbgTrigClaim s
  | .dbgTrigRelease => Sys2Proof.Machine.execDbgTrigRelease s
  | .ptpSync m => Sys2Proof.Machine.execPtpSync m s
  | .ptpDelayResp m => Sys2Proof.Machine.execPtpDelayResp m s
  | .ptpHoldover => Sys2Proof.Machine.execPtpHoldover s
  | .ptpDelayRequest => Sys2Proof.Machine.execPtpDelayRequest s
  | .ppsInEdge => Sys2Proof.Machine.execPpsInEdge s
  | .ppsOut => Sys2Proof.Machine.execPpsOut s
  | .compareFire u => Sys2Proof.Machine.execCompareFire u s
  | .startUp => Sys2Proof.Machine.execStartUp s
  | .startUpAbort => Sys2Proof.Machine.execStartUpAbort s
  | .perstDeassert => Sys2Proof.Machine.execPerstDeassert s
  | .perstAssert => Sys2Proof.Machine.execPerstAssert s
  | .configRequest ask => Sys2Proof.Machine.execConfigRequest ask s
  | .moduleReset => Sys2Proof.Machine.execModuleReset s
  | .brownoutSave cause saveDecivolts => Sys2Proof.Machine.execBrownoutSave cause saveDecivolts s
  | .saveEnd allVerified vinGood => Sys2Proof.Machine.execSaveEnd allVerified vinGood s
  | .dvfsUpdate temps watts => Sys2Proof.Machine.execDvfsUpdate temps watts s
  | .dvfsStep frame => Sys2Proof.Machine.execDvfsStep frame s
  | .powerSample watts vin10mv tj hot saveDecivolts => Sys2Proof.Machine.execPowerSample watts vin10mv tj hot saveDecivolts s
  | .thermalEmergency => Sys2Proof.Machine.execThermalEmergency s
  | .thermalShutdown saveDecivolts => Sys2Proof.Machine.execThermalShutdown saveDecivolts s
  | .thermAlert tj => Sys2Proof.Machine.execThermAlert tj s
  | .vin48Removed => Sys2Proof.Machine.execVin48Removed s

end Sys2Proof.Machine
end

