-- ==== Sys2Proof/Machine/Tick.lean ====
section
/-! DEFINITION. One nanosecond of the time counter (R570), and what follows from it whatever is commanded: the stall count
of a waiting local producer (R297) and the end of a PPS_OUT pulse (R571). A step on an empty queue is one such tick (log
entry 2). -/

namespace Sys2Proof.Machine

/-- The counter advances by 1 ns and FREQ (R570). -/
def Time.advance (t : Time) : Time :=
  let f := t.freq.toInt
  { t with now := (t.now + 2 ^ 32 + f).toNat }

/-- The producer of frame f's shuttle waits for credits: a SHUT.EMIT on its spindle, on this module, or, as the fabric brings no word of
it, a free value where the producer is on another module (R297, R299; log entry 130). -/
def State.stalled (s : State) (f : Nat) : Bool :=
  let c := (s.frame f).shctl.toNat
  c.testBit 31 && if c.testBit 30 then Config.remoteWaits f s.ns else
    (s.spn (bitsOf c 8 8)).vectorQ.any fun q =>
      match q.op with
      | .shutEmit _ _ =>
        q.wait.done.isSome && (match emitCheck s q, s.job? q.job with
          | .ok e, some b => e.2.sframe = f && e.2.peer = s.coord && decide ((b.prods.get e.1 {}).credits < emitRows q)
          | _, _ => false)
      | _ => false

/-- Every frame's stall count after another 1 µs (R297). -/
def State.countStalls (s : State) : State :=
  (List.range 32).foldl (fun s f =>
    let x := s.frame f
    if s.stalled f ∧ x.stall ≠ 0xFFFF then s.setFrame f { x with stall := x.stall + 1 } else s) s

/-- The flits that took bytes up to now go out on every link (R456; log entry 16). -/
def State.flushLinks (s : State) : State := s.fabric.links.foldl (fun s l => s.flushLink l.1) s

/-- One nanosecond passes, once the clocks run. -/
def State.tick (s : State) : State :=
  match s.power.phase with
  | .starting | .recovery | .ready | .saving =>
    let s := s.flushLinks
    let t := { s with time := s.time.advance }
    let t := if s.ns / 1000 = t.ns / 1000 then t else t.countStalls
    if t.time.ppsOut ∧ t.time.ppsEnd ≤ t.ns then
      ({ t with time := { t.time with ppsOut := false } }).emit (.pps false)
    else t
  | _ => s

end Sys2Proof.Machine
end

