-- ==== Sys2Proof/Safety.lean ====
section
/-! DEFINITION. The invariant of the block that the claims use. -/

namespace Sys2Proof.Machine

/-- Memory is in its canonical form: keys strictly rising, and no byte listed that an unlisted key reads as. -/
def State.Inv (s : State) : Prop := Mem.wf s.mem = true

end Sys2Proof.Machine
end

