-- ==== Sys2Proof/Certificates/Slice0/Obligations.lean ====
section
/-! DEFINITION. The statements for the provers, family by family of the table, and the few predicates they share. -/

open Sys2Proof Sys2Proof.Machine

/-! ### Steps and reset -/

/-- A step takes the oldest waiting command and has its effect on the state with the rest of the queue. Readings of the
model: log entry 92. -/
def Obligations.StepRunsFront : Prop :=
  ∀ (s : State) (i : Instr), step { s with pending := i :: s.pending } = exec i s

/-- With no command waiting a step lets one nanosecond pass wherever the module is not off: the counter gains 1 ns and FREQ,
and the links send the flits that took bytes; off, or latched off after a thermal shutdown, nothing changes. That a step on
an empty queue is a tick is the model's choice (log entry 2). -/
def Obligations.EmptyQueueTicks : Prop :=
  ∀ s : State, s.pending = [] →
    (s.power.phase ≠ .off → s.power.phase ≠ .thermalOff → ∃ t, step s = .next t ∧
      t.time.now = (s.time.now + 2 ^ 32 + s.time.freq.toInt).toNat ∧ t.mem = s.mem ∧ t.spindles = s.spindles ∧
      t.mill = s.mill ∧ t.fabric = s.flushLinks.fabric ∧ t.baro = s.baro ∧ t.power = s.power ∧ t.sec = s.sec) ∧
    (s.power.phase = .off ∨ s.power.phase = .thermalOff → step s = .next s)

/-! ### The controller -/

namespace Sys2Proof.Claims

/-- The context that `w` names issues its next instruction, for job `b`: the module is ready, the context runs, its job is
resident, has no end decided, waits for no replay and is not being switched out, no spot test holds the spindle, and the page of the
program counter is executable. -/
def Issues (s : State) (w : Who) (b : Job) : Prop :=
  s.power.phase = .ready ∧ (s.who w).status = .running ∧ s.job? (s.who w).job = some b ∧ b.st = .resident ∧
  b.endWith = none ∧ b.fault = none ∧ b.stopping = false ∧ s.testing w.lspn.toNat = false ∧
  ∃ p, s.locate w.lspn.toNat w.ctx.toNat (s.who w).pc.toNat = some p ∧ p.ex = true

/-- The instruction leaves only the issuing context changed, to `x` with the program counter at the next instruction. -/
def Leaves (i : Instr) (s : State) (w : Who) (x : Ctx) : Prop :=
  exec i s = .next (s.setWho w x.next)

/-- The instruction writes one scalar register, by the operand values of SRC1 and SRC2. -/
def WritesS (i : Instr) (s : State) (w : Who) (f : SForm) (op : Word → Word → Word) : Prop :=
  Leaves i s w ((s.who w).setS f.dst.toNat (op ((s.who w).sreg f.src1.toNat) ((s.who w).sreg f.src2.toNat)))

/-- The instruction writes one predicate, by the scalars SRC1 and SRC2. -/
def WritesP (i : Instr) (s : State) (w : Who) (f : SForm) (op : Word → Word → Bool) : Prop :=
  Leaves i s w ((s.who w).setP f.dst.toNat (op ((s.who w).sreg f.src1.toNat) ((s.who w).sreg f.src2.toNat)))

end Sys2Proof.Claims

open Sys2Proof.Claims

/-- The fourteen two-operand ALU operations, bits [36:0] of IMM zero: s[DST] takes the result, shifts by s[SRC2][5:0], and
nothing but the context's DST and program counter changes. -/
def Obligations.AluTwoOperandResults : Prop :=
  ∀ (s : State) (w : Who) (b : Job) (f : SForm), Issues s w b → f.imm.extractLsb' 0 37 = 0 →
    WritesS (.aluAdd w f) s w f (fun a b => a + b) ∧
    WritesS (.aluSub w f) s w f (fun a b => a - b) ∧
    WritesS (.aluAnd w f) s w f (fun a b => a &&& b) ∧
    WritesS (.aluOr w f) s w f (fun a b => a ||| b) ∧
    WritesS (.aluXor w f) s w f (fun a b => a ^^^ b) ∧
    WritesS (.aluSll w f) s w f (fun a b => a <<< (b.toNat % 64)) ∧
    WritesS (.aluSrl w f) s w f (fun a b => a >>> (b.toNat % 64)) ∧
    WritesS (.aluSra w f) s w f (fun a b => a.sshiftRight (b.toNat % 64)) ∧
    WritesS (.aluMin w f) s w f (fun a b => if a.toInt < b.toInt then a else b) ∧
    WritesS (.aluMax w f) s w f (fun a b => if a.toInt < b.toInt then b else a) ∧
    WritesS (.aluMinu w f) s w f (fun a b => if a.toNat < b.toNat then a else b) ∧
    WritesS (.aluMaxu w f) s w f (fun a b => if a.toNat < b.toNat then b else a) ∧
    WritesS (.aluSlt w f) s w f (fun a b => if a.toInt < b.toInt then 1 else 0) ∧
    WritesS (.aluSltu w f) s w f (fun a b => if a.toNat < b.toNat then 1 else 0)

/-- CLZ, POPC, ADDI and LIH, and AADD, AMOV and AGET between the address and the scalar registers: what the destination
takes, and nothing else changes. The comparisons into a predicate, and the operations on predicates. -/
def Obligations.ScalarAddressAndPredicateResults : Prop :=
  (∀ (s : State) (w : Who) (b : Job) (f : SForm), Issues s w b →
     let x := s.who w
     (f.src2 = 0 → f.imm.extractLsb' 0 37 = 0 →
       WritesS (.aluClz w f) s w f (fun a _ => BitVec.ofNat 64 (clz a)) ∧
       WritesS (.aluPopc w f) s w f (fun a _ => BitVec.ofNat 64 (popc a))) ∧
     (f.src2 = 0 → WritesS (.addi w f) s w f (fun a _ => a + f.imm.signExtend 64)) ∧
     (f.src2 = 0 → f.imm.extractLsb' 21 22 = 0 →
       WritesS (.lih w f) s w f (fun a _ => f.imm.extractLsb' 0 21 ++ a.extractLsb' 0 43)) ∧
     (f.dst.toNat < 16 → f.src1.toNat < 16 →
       Leaves (.aadd w f) s w (x.setA f.dst.toNat (x.areg f.src1.toNat +
         (x.sreg f.src2.toNat).truncate 57 + (f.imm.extractLsb' 0 37).signExtend 57))) ∧
     (f.dst.toNat < 16 → f.src2 = 0 →
       Leaves (.amov w f) s w (x.setA f.dst.toNat
         ((x.sreg f.src1.toNat).truncate 57 + (f.imm.extractLsb' 0 37).signExtend 57))) ∧
     (f.src1.toNat < 16 → f.src2 = 0 → f.imm.extractLsb' 0 37 = 0 →
       Leaves (.aget w f) s w (x.setS f.dst.toNat ((x.areg f.src1.toNat).zeroExtend 64)))) ∧
  (∀ (s : State) (w : Who) (b : Job) (f : SForm), Issues s w b → f.dst.toNat < 8 → f.imm.extractLsb' 0 37 = 0 →
     WritesP (.cmppEq w f) s w f (fun a b => decide (a = b)) ∧
     WritesP (.cmppNe w f) s w f (fun a b => decide (a ≠ b)) ∧
     WritesP (.cmppLt w f) s w f (fun a b => decide (a.toInt < b.toInt)) ∧
     WritesP (.cmppLtu w f) s w f (fun a b => decide (a.toNat < b.toNat)) ∧
     WritesP (.cmppLe w f) s w f (fun a b => decide (a.toInt ≤ b.toInt)) ∧
     WritesP (.cmppLeu w f) s w f (fun a b => decide (a.toNat ≤ b.toNat)) ∧
     (f.src1.toNat < 8 → f.src2.toNat < 8 →
       Leaves (.pand w f) s w ((s.who w).setP f.dst.toNat ((s.who w).pred f.src1.toNat && (s.who w).pred f.src2.toNat)) ∧
       Leaves (.por w f) s w ((s.who w).setP f.dst.toNat ((s.who w).pred f.src1.toNat || (s.who w).pred f.src2.toNat))) ∧
     (f.src1.toNat < 8 → f.src2 = 0 →
       Leaves (.pnot w f) s w ((s.who w).setP f.dst.toNat (!(s.who w).pred f.src1.toNat))))

/-- s0 and p0 are hard-wired: s0 reads as 0, p0 as 1, and writes to them change nothing; every other predicate reads back
what was written and leaves the rest. -/
def Obligations.HardWiredRegisters : Prop :=
  ∀ x : Ctx, x.sreg 0 = 0 ∧ x.pred 0 = true ∧ (∀ v, x.setS 0 v = x) ∧ (∀ v, x.setP 0 v = x) ∧
    (∀ n v, 0 < n → n < 8 → (x.setP n v).pred n = v) ∧
    (∀ n m v, n < 8 → m < 8 → m ≠ n → (x.setP n v).pred m = x.pred m)

/-- LD reads the 8 bytes at the aligned bobbin-window offset, zero outside the partition. ST stores 8 bytes at the key that
the same function of the context computes: in a canonical memory those bytes then read as s[SRC2], every other byte reads as
before, and the word's poison goes; outside the partition nothing is stored. A store followed by a load of the same bytes
gives the value back. -/
def Obligations.LoadAndStoreBobbin : Prop :=
  (∀ (s : State) (w : Who) (b : Job) (f : SForm), Issues s w b → f.src1.toNat < 16 →
     (f.src2 = 0 →
       Leaves (.ld w f) s w ((s.who w).setS f.dst.toNat (match s.memKey w (s.who w) f with
         | some k => BitVec.ofNat 64 (s.natAt k 8)
         | none => 0))) ∧
     (f.dst = 0 → s.memKey w (s.who w) f = none → Leaves (.st w f) s w (s.who w)) ∧
     (f.dst = 0 → Mem.wf s.mem = true → ∀ k, s.memKey w (s.who w) f = some k → ∃ m,
       exec (.st w f) s = .next { s.setWho w (s.who w).next with
         mem := m
         poison := s.healedAt k 8 } ∧
       (∀ j, j < 8 → Mem.get m (k + j) = ((s.who w).sreg f.src2.toNat).extractLsb' (8 * j) 8) ∧
       (∀ a, a < k ∨ k + 8 ≤ a → Mem.get m a = Mem.get s.mem a))) ∧
  (∀ (m : List Host.Cell) (k n v : Nat), Mem.wf m = true → v < 256 ^ n → Mem.nat (Mem.setNat m k n v) k n = v)

/-! ### Branches, tasks, knots, steps and context registers -/

/-- BR, LOOP and ENDL: a taken branch goes to its target when that lies in the image's code region and is BRANCH_RANGE (code
0x02, with no other effect) when it does not; an untaken one is never checked. The loop counter is written either way. -/
def Obligations.BranchAndLoopTargets : Prop :=
  ∀ (s : State) (w : Who) (b : Job) (f : SForm), Issues s w b →
    let x := s.who w
    let dest := x.pc + f.imm.signExtend 57 * 8
    let inside := (dest - x.imgBase).toNat < x.codeSize.toNat
    (16 ≤ f.src1.toNat ∨ f.dst ≠ 0 ∨ f.src2 ≠ 0 → exec (.br w f) s = .next ((s.ctlFault w 1 (sWord 8 f)).reap)) ∧
    (f.src2 = 0 →
      (f.src1.toNat < 16 → f.dst = 0 →
        (x.pred (f.src1.toNat % 8) ≠ f.src1.toNat.testBit 3 →
          (inside → exec (.br w f) s = .next (s.setWho w { x with pc := dest })) ∧
          (¬inside → exec (.br w f) s = .next ((s.ctlFault w 2 (sWord 8 f)).reap))) ∧
        (x.pred (f.src1.toNat % 8) = f.src1.toNat.testBit 3 → Leaves (.br w f) s w x)) ∧
      (f.dst.toNat < 4 →
        ((x.sreg f.src1.toNat).toNat % 2 ^ 32 = 0 →
          (inside → exec (.loop w f) s = .next (s.setWho w { x.setLc f.dst.toNat 0 with pc := dest })) ∧
          (¬inside → exec (.loop w f) s = .next ((s.ctlFault w 2 (sWord 9 f)).reap))) ∧
        ((x.sreg f.src1.toNat).toNat % 2 ^ 32 ≠ 0 →
          Leaves (.loop w f) s w (x.setLc f.dst.toNat ((x.sreg f.src1.toNat).truncate 32))) ∧
        (f.src1 = 0 → x.lcReg f.dst.toNat ≠ 1 →
          (inside → exec (.endl w f) s = .next (s.setWho w
            { x.setLc f.dst.toNat (x.lcReg f.dst.toNat - 1) with pc := dest })) ∧
          (¬inside → exec (.endl w f) s = .next ((s.ctlFault w 2 (sWord 10 f)).reap))) ∧
        (f.src1 = 0 → x.lcReg f.dst.toNat = 1 → Leaves (.endl w f) s w (x.setLc f.dst.toNat 0))))

/-- A controller fault records SPN_CFAULT (valid, code, program counter) and SPN_CFINST where no fault is recorded yet,
stops the context with its program counter and registers as they were, and ends the job with the fault's code. -/
def Obligations.ControllerFaultRecords : Prop :=
  ∀ (s : State) (w : Who) (b : Job) (code : Nat) (inst : Word), s.job? (s.who w).job = some b → b.endWith = none →
    0 < code → code < 5 → (s.who w).cfault.toNat < 2 ^ 63 → (s.who w).status = .running →
    let t := s.ctlFault w code inst
    (t.who w).cfault = BitVec.ofNat 64 (2 ^ 63 + code * 2 ^ 57 + (s.who w).pc.toNat) ∧
    (t.who w).cfinst = inst ∧ (t.who w).status = .stopped ∧ (t.who w).pc = (s.who w).pc ∧ (t.who w).s = (s.who w).s ∧
    (t.who w).a = (s.who w).a ∧ (t.who w).p = (s.who w).p ∧
    (∃ b', t.job? (s.who w).job = some b' ∧ b'.endWith = some (BitVec.ofNat 8 code) ∧ b'.fpc = (s.who w).pc)

/-- TASK.PUSH appends a word to the spindle's deque of the job while it holds fewer than 1,024, and says in a predicate
whether it did; TASK.POP takes the newest of its own. Readings of the model: log entry 93. -/
def Obligations.TaskPushAndPopOwn : Prop :=
  ∀ (s : State) (w : Who) (b : Job) (f : SForm), Issues s w b → f.src2.toNat < 8 → f.imm.extractLsb' 0 37 = 0 →
    let x := s.who w
    let l := w.lspn.toNat
    let q := b.deques.get l []
    (f.dst = 0 → q.length < 1024 →
      exec (.taskPush w f) s = .next ((s.setWho w (x.setP f.src2.toNat true).next).setJob x.job
        { b with deques := b.deques.set l (q ++ [x.sreg f.src1.toNat]) [] })) ∧
    (f.dst = 0 → 1024 ≤ q.length → Leaves (.taskPush w f) s w (x.setP f.src2.toNat false)) ∧
    (f.src1 = 0 → ∀ v, q.getLast? = some v →
      exec (.taskPop w f) s = .next ((s.setWho w ((x.setS f.dst.toNat v).setP f.src2.toNat true).next).setJob x.job
        { b with deques := b.deques.set l q.dropLast [] })) ∧
    (f.src1 = 0 → s.popTask l b = none → Leaves (.taskPop w f) s w ((x.setS f.dst.toNat 0).setP f.src2.toNat false))

/-- SYNC.KWAIT, SYNC.KREAD and SYNC.FENCE go on when the knots they name have signalled and, for the fence, the context has
no operation in progress; until then nothing changes. SYNC.KJOIN waits while its own knot is pending; then it arms it and,
where a named knot is pending and no other join waits, leaves a join on what it captured. -/
def Obligations.KnotInstructionResults : Prop :=
  ∀ (s : State) (w : Who) (b : Job) (f : SForm), Issues s w b → f.src2 = 0 →
    let x := s.who w
    (f.dst = 0 → f.imm.extractLsb' 0 37 = 0 →
      ((∀ k, k < 64 → (x.sreg f.src1.toNat).getLsbD k = true → (x.knot k).pending = false) → Leaves (.syncKwait w f) s w x) ∧
      ((∃ k, k < 64 ∧ (x.sreg f.src1.toNat).getLsbD k = true ∧ (x.knot k).pending = true) →
        exec (.syncKwait w f) s = .next s)) ∧
    (f.src1 = 0 → f.imm.extractLsb' 6 31 = 0 →
      ((x.knot (f.imm.extractLsb' 0 6).toNat).pending = false →
        Leaves (.syncKread w f) s w (x.setS f.dst.toNat ((x.knot (f.imm.extractLsb' 0 6).toNat).code.zeroExtend 64))) ∧
      ((x.knot (f.imm.extractLsb' 0 6).toNat).pending = true → exec (.syncKread w f) s = .next s)) ∧
    (f.dst = 0 → f.src1 = 0 → f.imm.extractLsb' 0 37 = 0 →
      ((s.spn w.lspn.toNat).busy w.ctx.toNat = false → Leaves (.syncFence w f) s w x) ∧
      ((s.spn w.lspn.toNat).busy w.ctx.toNat = true → exec (.syncFence w f) s = .next s)) ∧
    (f.dst = 0 → f.imm.extractLsb' 6 31 = 0 →
      let k := (f.imm.extractLsb' 0 6).toNat
      ((x.knot k).pending = true → exec (.syncKjoin w f) s = .next s) ∧
      (k ≠ 0 → (x.knot k).pending = false → x.joins = [] →
        (∃ m, m < 64 ∧ (x.sreg f.src1.toNat).getLsbD m = true ∧ (x.knot m).pending = true) →
        Leaves (.syncKjoin w f) s w { x.armKnot k with
          joins := [{ kout := k
                      arm := (x.armKnot k).knot k |>.arm
                      waits := ((List.range 64).filter (x.sreg f.src1.toNat).toNat.testBit).map x.capture }] }))

/-- SYNC.STEP of a context with no operation in progress waits at the step boundary, or is STEP_OPEN where a tile of a job
that commits in steps is open; SYNC.END ends the context, and the job when it was the last of a job that commits in steps. -/
def Obligations.StepBoundaryAndEnd : Prop :=
  ∀ (s : State) (w : Who) (b : Job) (f : SForm), Issues s w b →
    f.dst = 0 → f.src1 = 0 → f.src2 = 0 → f.imm.extractLsb' 0 37 = 0 →
    let x := s.who w
    let t := s.setWho w { x.next with status := .ended }
    ((s.spn w.lspn.toNat).busy w.ctx.toNat = false →
      ((b.steps = false ∨ ∀ p ∈ x.tiles, p.2.st = .closed) → Leaves (.syncStep w f) s w { x with status := .atStep }) ∧
      (b.steps = true → (∃ p ∈ x.tiles, p.2.st ≠ .closed) →
        exec (.syncStep w f) s = .next ((s.ctlFault w 4 (sWord 0x21 (f.func 4))).reap))) ∧
    ((s.spn w.lspn.toNat).busyAll w.ctx.toNat = false →
      (b.steps = false ∨ (∃ c ∈ t.ctxsOf x.job, c.2.2.status ≠ .ended) → exec (.sysEnd w f) s = .next t) ∧
      (b.steps = true → (∀ c ∈ t.ctxsOf x.job, c.2.2.status = .ended) →
        exec (.sysEnd w f) s = .next ((t.endJob x.job 0).reap)))

/-- SYS.RD reads a context register, SYS.WR writes one, SYS.NOP does nothing but go on. A write to a read-only register
changes nothing; one to a flag register clears the bits named by ones; a reserved code leaves its own field; TWS_STEP is
written only outside jobs that commit in steps, and a new value restarts the operation ordinals. -/
def Obligations.ContextRegisterAccess : Prop :=
  ∀ (s : State) (w : Who) (b : Job) (f : SForm), Issues s w b → f.src2 = 0 →
    let x := s.who w
    let n := (f.imm.extractLsb' 0 8).toNat
    (f.src1 = 0 → f.imm.extractLsb' 8 29 = 0 → n < 10 → Leaves (.sysRd w f) s w (x.setS f.dst.toNat (s.ctxRead w x n))) ∧
    (f.dst = 0 → f.imm.extractLsb' 8 29 = 0 → n < 10 →
      Leaves (.sysWr w f) s w (x.write b.steps n (x.sreg f.src1.toNat))) ∧
    (f.dst = 0 → f.src1 = 0 → f.imm.extractLsb' 0 37 = 0 → Leaves (.sysNop w f) s w x) ∧
    ∀ v : Word, (∀ n, n = 6 ∨ n = 7 ∨ n = 9 → x.write b.steps n v = x) ∧
      x.write b.steps 1 v = { x with arithFlags := x.arithFlags &&& ~~~(v.truncate 32 &&& 0x3F) } ∧
      x.write b.steps 3 v = { x with qzFlags := x.qzFlags &&& ~~~(v.truncate 32 &&& 3) } ∧
      x.write b.steps 5 v = { x with updFlags := x.updFlags &&& ~~~(v.truncate 32 &&& 3) } ∧
      (127 < v.toNat % 256 → x.write b.steps 4 v = x) ∧
      (v.toNat % 256 ≤ 127 → (x.write b.steps 4 v).updCtl.toNat % 256 = v.toNat % 256) ∧
      x.write true 8 v = x ∧
      (v ≠ x.step → x.write false 8 v = { x with
        step := v
        veOrd := 0
        bufDrains := 0 })

/-- Where a controller instruction does not take effect: a context that does not run, whose module is not ready, whose job
ends, waits for a replay or is being switched out, or whose spindle a spot test holds (R534, as the model reads it) leaves
the state as it is; a program counter whose page is not mapped or not executable is FETCH (code 0x03); a reserved field that
is not zero is ILLEGAL (code 0x01), with the instruction's word. Readings of the model: log entries 81, 86, 91. -/
def Obligations.ControllerStallsAndFaults : Prop :=
  ∀ (s : State) (w : Who) (b : Job) (f : SForm) (g : EForm),
    ((s.power.phase ≠ .ready ∨ (s.who w).status ≠ .running ∨ (∀ b, s.job? (s.who w).job = some b →
          b.endWith.isSome = true ∨ b.fault.isSome = true ∨ b.stopping = true) ∨
        s.testing w.lspn.toNat = true) →
      exec (.aluAdd w f) s = .next s ∧ exec (.st w f) s = .next s ∧ exec (.br w f) s = .next s ∧
      exec (.taskPush w f) s = .next s ∧ exec (.syncStep w f) s = .next s ∧ exec (.sysWr w f) s = .next s ∧
      exec (.sysEnd w f) s = .next s ∧ exec (.mxF w g) s = .next s ∧ exec (.veAdd w g) s = .next s ∧
      exec (.reelIn w g) s = .next s ∧ exec (.updApply w g) s = .next s ∧ exec (.shutTake w g) s = .next s) ∧
    (s.power.phase = .ready → (s.who w).status = .running → s.job? (s.who w).job = some b → b.st = .resident →
      b.endWith = none → b.fault = none → b.stopping = false → s.testing w.lspn.toNat = false →
      (∀ p, s.locate w.lspn.toNat w.ctx.toNat (s.who w).pc.toNat = some p → p.ex = false) →
      exec (.sysNop w f) s = .next ((s.ctlFault w 3 0).reap) ∧ exec (.aluAdd w f) s = .next ((s.ctlFault w 3 0).reap)) ∧
    (Issues s w b →
      (f.imm.extractLsb' 0 37 ≠ 0 → exec (.aluAdd w f) s = .next ((s.ctlFault w 1 (sWord 1 (f.func 0))).reap)) ∧
      (f.src2 ≠ 0 → exec (.addi w f) s = .next ((s.ctlFault w 1 (sWord 2 f)).reap)) ∧
      (16 ≤ f.src1.toNat → exec (.ld w f) s = .next ((s.ctlFault w 1 (sWord 4 f)).reap)) ∧
      (8 ≤ f.dst.toNat → exec (.cmppEq w f) s = .next ((s.ctlFault w 1 (sWord 7 (f.func 0))).reap)) ∧
      (4 ≤ f.dst.toNat → exec (.loop w f) s = .next ((s.ctlFault w 1 (sWord 9 f)).reap)) ∧
      (9 < (f.imm.extractLsb' 0 8).toNat → exec (.sysRd w f) s = .next ((s.ctlFault w 1 (sWord 0x22 (f.func 0))).reap)) ∧
      (g.mod.toNat % 2 ^ 26 ≠ 0 → exec (.accDrain w g) s = .next ((s.ctlFault w 1 (eWord 0x12 g)).reap)))

/-- What no controller instruction but ST touches, whether it has its effect, waits or faults: every byte outside the
persistent bank (where a fault's record may go) and outside the 64 FLOG counts of a job of a client beyond 31 (which its
completion writes), the host's functions, time, sessions, power, CXL ports, poison and spare rows. -/
def Obligations.ControllerInstructionsFrame : Prop :=
  ∀ (s t : State) (i : Instr) (c : Who × Word), s.Inv → encode i = some c → (∀ w f, i ≠ .st w f) → exec i s = .next t →
    (∀ a, spaceOf a ≠ 6 → (∀ p ∈ s.mill.jobs, 32 ≤ p.2.client → p.2.flog ≠ 0 →
        a < s.clientKey p.2.client p.2.flog ∨ s.clientKey p.2.client p.2.flog + 256 ≤ a) → Mem.get t.mem a = Mem.get s.mem a) ∧
    ((∀ p ∈ s.mill.jobs, p.2.client < 32 ∨ p.2.flog = 0) → t.poison = s.poison) ∧ t.host = s.host ∧ t.time = s.time ∧
    t.sec = s.sec ∧ t.power = s.power ∧ t.ports = s.ports ∧ t.rowErr = s.rowErr ∧ t.spares = s.spares ∧
    t.retired = s.retired ∧ t.pending = s.pending ∧ t.mill.nextJid = s.mill.nextJid

/-! ### The issue of engine instructions -/

namespace Sys2Proof.Claims

/-- A descriptor as the context that `w` names captures it: of a unit that an operation still running writes, the old or the new
contents (log entry 3). -/
def captured (s : State) (w : Who) (n : Nat) : Line :=
  (s.fileView w.lspn.toNat w.ctx.toNat).descOf w.lspn.toNat w.ctx.toNat n

/-- The engine of a reel instruction: the outbound one where the captured descriptor is a reel descriptor whose DIR is 1. -/
def reelEngine (s : State) (w : Who) (f : EForm) : Engine :=
  let d := captured s w f.desc.toNat
  if d.extractLsb' 0 8 = 0x11 ∧ d.getLsbD 8 = true then .outReel else .inReel

/-- The rows of the E format: the issuing context, the fields, the engine, and whether every reserved field of the word is
zero and every code of it defined. -/
def engineRow (s : State) : Instr → Option (Who × EForm × Engine × Bool)
  | .mxF w f | .mxH w f | .mxQ w f | .mxRib32 w f | .mxRib16 w f =>
    some (w, f, .array, f.modf 24 2 = 0 && f.modf 4 2 ≠ 3 && f.modf 2 2 ≠ 3 && f.modf 0 2 = 0)
  | .accOpen w f => some (w, f, .array, f.modf 24 2 ≠ 3 && f.modf 7 3 < 5 && f.modf 5 2 ≠ 3 && f.modf 0 5 = 0)
  | .accDrain w f => some (w, f, .array, f.modf 0 26 = 0)
  | .veExp w f | .veLse w f => some (w, f, .vector, f.modf 24 1 = 0)
  | .veSoftmax w f => some (w, f, .vector, true)
  | .veAdd w f | .veSub w f | .veMul w f | .veNeg w f | .veAbs w f | .veCmpEq w f | .veCmpLt w f | .veCmpLe w f
  | .veSel w f | .veMax w f | .veMin w f | .veCvt w f | .veRecip w f | .veSqrt w f | .veRsqrt w f | .veLog2 w f
  | .veLn w f | .veSigmoid w f | .veSum w f | .veSumsq w f | .veLsum w f | .veMaxr w f | .veMinr w f | .vePow w f =>
    some (w, f, .vector, f.modf 24 2 = 0)
  | .veTopk w f | .veTopkmerge w f | .veCombine w f => some (w, f, .vector, f.modf 24 2 = 0 && f.modf 8 3 = 0)
  | .veKltopk w f => some (w, f, .vector, f.modf 24 1 = 0)
  | .veQz w f | .veAmax w f | .veDq w f | .veXpose w f => some (w, f, .vector, f.modf 0 16 = 0)
  | .updStat w f | .updApply w f => some (w, f, .vector, f.modf 0 14 = 0)
  | .reelIn w f | .reelOut w f => some (w, f, reelEngine s w f, f.modf 0 26 = 0)
  | .reelPsend w f => some (w, f, .outReel, f.modf 24 2 = 0 && f.modf 0 14 = 0)
  | .syncPrecv w f => some (w, f, .inReel, f.modf 24 2 = 0 && f.modf 0 14 = 0)
  | .twBits w f | .twMask w f | .twUnif w f => 
    some (w, f, .twist, f.modf 0 9 = 0 && f.modf 14 5 ≠ 0 && f.modf 14 5 ≠ 31)
  | .shutScan w f | .shutEmit w f => some (w, f, .vector, f.modf 0 11 = 0)
  | .shutTake w f | .shutFree w f => some (w, f, .vector, f.modf 11 13 = 0)
  | _ => none

end Sys2Proof.Claims

namespace Sys2Proof.Claims

/-- The issuing context after an engine instruction: its knot armed, the program counter at the next instruction, its counters on. -/
def IssuedCtx (x : Ctx) (k : Nat) (ve : Bool) (d : Nat) : Ctx :=
  { (x.armKnot k).next with
    seq := x.seq + 1
    veOrd := if ve then x.veOrd + 1 else x.veOrd
    bufDrains := d }

/-- The outcome of an engine instruction, well formed, that executes, whose knot is not pending and whose queue has an entry: the operation `op` stands, with the fields `f`, at the end of the queue of engine
`e`, with the descriptors `ds` (where no operation that runs has a write to show: as memory holds them), the scalars `ps`, its wait, its control registers, its step and, where it counts as a vector engine
operation (`ve`), its ordinal as they stand; its knot is armed, the program counter goes on, and nothing else changes. A program
call that drains a buffer counts its own ordinals. -/
def Queues (out : Host.Outcome State Fault Refusal) (op : Instr) (s : State) (w : Who) (f : EForm) (e : Engine) (ve : Bool)
    (ds ps : List Nat) : Prop :=
  let x := s.who w
  let l := w.lspn.toNat
  op.wf = true → (x.knot f.kout.toNat).pending = false → x.executes f = true →
  (s.spn l).room e w.ctx.toNat = true →
  ∃ (o : QOp) (d : Nat),
    let t := s.setWho w (IssuedCtx x f.kout.toNat ve d)
    out = .next (t.setSpn l ((t.spn l).setQueue e ((t.spn l).queue e ++ [o]))) ∧
    o.op = op ∧ o.form = f ∧ o.lspn = l ∧ o.ctx = w.ctx.toNat ∧ o.job = x.job ∧ o.seq = x.seq ∧
    o.kout = f.kout.toNat ∧ o.karm = ((x.armKnot f.kout.toNat).knot f.kout.toNat).arm ∧
    o.wait = x.capture f.kwait.toNat ∧ o.arith = x.arithCtl ∧ o.qz = x.qzCtl ∧ o.upd = x.updCtl ∧ o.step = x.step ∧
    o.params = ps.map x.sreg ∧ (∀ n ∈ ds, (n, captured s w n) ∈ o.descs) ∧
    (∀ p ∈ o.descs, p.2 = captured s w p.1) ∧
    ((∀ r ∈ s.runs, r.writes = []) → ∀ p ∈ o.descs, p.2 = s.descOf l w.ctx.toNat p.1) ∧
    (o.isDrain = false → d = x.bufDrains ∧ o.ord = x.veOrd)

end Sys2Proof.Claims

/-- MX.F, MX.H, MX.Q, MX.RIB32, MX.RIB16, ACC.OPEN and ACC.DRAIN; VE.ADD, SUB, MUL, NEG, ABS, CMP.EQ, CMP.LT, CMP.LE, SEL,
MAX, MIN, CVT, RECIP, SQRT, RSQRT, LOG2, LN, EXP, SIGMOID, SUM, SUMSQ, LSUM, LSE, SOFTMAX, MAXR, MINR, POW, TOPK, TOPKMERGE,
COMBINE, KLTOPK, QZ, AMAX, DQ and XPOSE; UPD.STAT and UPD.APPLY; REEL.IN, REEL.OUT, REEL.PSEND and SYNC.PRECV; TW.BITS,
TW.MASK and TW.UNIF; SHUT.SCAN, SHUT.EMIT, SHUT.TAKE and SHUT.FREE: each, well formed and with its reserved fields zero,
where it executes, its knot is not pending and its engine's queue has an entry for the context, completes at the controller:
the operation is queued at the end of its engine's queue with the descriptors it captures, its scalars, its wait, its
control registers and its step as they stand; its knot is armed, the program counter goes on, and nothing else changes.
Readings of the model: log entry 10. -/
def Obligations.EngineInstructionsIssue : Prop :=
  ∀ (s : State) (w : Who) (b : Job) (f : EForm), Issues s w b →
    let dst := f.desc.toNat
    let srcA := f.modf 16 8
    let srcB := f.modf 8 8
    (f.modf 24 2 = 0 → f.modf 4 2 ≠ 3 → f.modf 2 2 ≠ 3 → f.modf 0 2 = 0 →
      Queues (exec (.mxF w f) s) (.mxF w f) s w f .array false [dst, srcA] [f.modf 11 5] ∧
      Queues (exec (.mxH w f) s) (.mxH w f) s w f .array false [dst, srcA] [f.modf 11 5] ∧
      Queues (exec (.mxQ w f) s) (.mxQ w f) s w f .array false [dst, srcA] [f.modf 11 5] ∧
      Queues (exec (.mxRib32 w f) s) (.mxRib32 w f) s w f .array false [dst, srcA] [f.modf 11 5] ∧
      Queues (exec (.mxRib16 w f) s) (.mxRib16 w f) s w f .array false [dst, srcA] [f.modf 11 5]) ∧
    (f.modf 24 2 ≠ 3 → f.modf 7 3 < 5 → f.modf 5 2 ≠ 3 → f.modf 0 5 = 0 →
      Queues (exec (.accOpen w f) s) (.accOpen w f) s w f .array false
        (if f.modf 5 2 = 0 ∧ (s.who w).sreg (f.modf 19 5) = 0 then [] else [dst]) [f.modf 19 5]) ∧
    (f.modf 0 26 = 0 → Queues (exec (.accDrain w f) s) (.accDrain w f) s w f .array false [dst] []) ∧
    (f.modf 24 2 = 0 →
      Queues (exec (.veAdd w f) s) (.veAdd w f) s w f .vector true [dst, srcA, srcB] [] ∧
      Queues (exec (.veSub w f) s) (.veSub w f) s w f .vector true [dst, srcA, srcB] [] ∧
      Queues (exec (.veMul w f) s) (.veMul w f) s w f .vector true [dst, srcA, srcB] [] ∧
      Queues (exec (.veNeg w f) s) (.veNeg w f) s w f .vector true [dst, srcA] [] ∧
      Queues (exec (.veAbs w f) s) (.veAbs w f) s w f .vector true [dst, srcA] [] ∧
      Queues (exec (.veCmpEq w f) s) (.veCmpEq w f) s w f .vector true [dst, srcA, srcB] [] ∧
      Queues (exec (.veCmpLt w f) s) (.veCmpLt w f) s w f .vector true [dst, srcA, srcB] [] ∧
      Queues (exec (.veCmpLe w f) s) (.veCmpLe w f) s w f .vector true [dst, srcA, srcB] [] ∧
      Queues (exec (.veSel w f) s) (.veSel w f) s w f .vector true [dst, srcA, srcB] [] ∧
      Queues (exec (.veMax w f) s) (.veMax w f) s w f .vector true [dst, srcA, srcB] [] ∧
      Queues (exec (.veMin w f) s) (.veMin w f) s w f .vector true [dst, srcA, srcB] [] ∧
      Queues (exec (.veCvt w f) s) (.veCvt w f) s w f .vector true [dst, srcA] [] ∧
      Queues (exec (.veRecip w f) s) (.veRecip w f) s w f .vector true [dst, srcA] [] ∧
      Queues (exec (.veSqrt w f) s) (.veSqrt w f) s w f .vector true [dst, srcA] [] ∧
      Queues (exec (.veRsqrt w f) s) (.veRsqrt w f) s w f .vector true [dst, srcA] [] ∧
      Queues (exec (.veLog2 w f) s) (.veLog2 w f) s w f .vector true [dst, srcA] [] ∧
      Queues (exec (.veLn w f) s) (.veLn w f) s w f .vector true [dst, srcA] [] ∧
      Queues (exec (.veSigmoid w f) s) (.veSigmoid w f) s w f .vector true [dst, srcA] [] ∧
      Queues (exec (.veSum w f) s) (.veSum w f) s w f .vector true [dst, srcA] [] ∧
      Queues (exec (.veSumsq w f) s) (.veSumsq w f) s w f .vector true [dst, srcA] [] ∧
      Queues (exec (.veLsum w f) s) (.veLsum w f) s w f .vector true [dst, srcA] [] ∧
      Queues (exec (.veMaxr w f) s) (.veMaxr w f) s w f .vector true [dst, srcA, srcB] [] ∧
      Queues (exec (.veMinr w f) s) (.veMinr w f) s w f .vector true [dst, srcA, srcB] [] ∧
      Queues (exec (.vePow w f) s) (.vePow w f) s w f .vector true [dst, srcA] []) ∧
    (f.modf 24 1 = 0 →
      let ds := if f.modf 25 1 = 1 then [dst, srcA] else [dst, srcA, srcB]
      Queues (exec (.veExp w f) s) (.veExp w f) s w f .vector true ds [] ∧
      Queues (exec (.veLse w f) s) (.veLse w f) s w f .vector true ds [] ∧
      Queues (exec (.veKltopk w f) s) (.veKltopk w f) s w f .vector true [dst, srcA, srcB, f.modf 0 8] []) ∧
    Queues (exec (.veSoftmax w f) s) (.veSoftmax w f) s w f .vector true
      (if f.modf 25 1 = 1 then [dst, srcA] else [dst, srcA, srcB]) [] ∧
    (f.modf 24 2 = 0 → f.modf 8 3 = 0 →
      Queues (exec (.veTopk w f) s) (.veTopk w f) s w f .vector true [dst, srcA] [f.modf 11 5] ∧
      Queues (exec (.veTopkmerge w f) s) (.veTopkmerge w f) s w f .vector true [dst, srcA] [f.modf 11 5] ∧
      Queues (exec (.veCombine w f) s) (.veCombine w f) s w f .vector true [dst, srcA] [f.modf 11 5]) ∧
    (f.modf 0 16 = 0 →
      Queues (exec (.veQz w f) s) (.veQz w f) s w f .vector true [dst, srcA] [] ∧
      Queues (exec (.veAmax w f) s) (.veAmax w f) s w f .vector true [dst, srcA] [] ∧
      Queues (exec (.veDq w f) s) (.veDq w f) s w f .vector true [dst, srcA] [] ∧
      Queues (exec (.veXpose w f) s) (.veXpose w f) s w f .vector true [dst, srcA] []) ∧
    (f.modf 0 14 = 0 →
      Queues (exec (.updStat w f) s) (.updStat w f) s w f .vector true [dst] [] ∧
      Queues (exec (.updApply w f) s) (.updApply w f) s w f .vector true [dst]
        [f.modf 19 5, f.modf 14 5]) ∧
    (f.modf 0 26 = 0 →
      Queues (exec (.reelIn w f) s) (.reelIn w f) s w f (reelEngine s w f) false [dst] [] ∧
      Queues (exec (.reelOut w f) s) (.reelOut w f) s w f (reelEngine s w f) false [dst] []) ∧
    (f.modf 24 2 = 0 → f.modf 0 14 = 0 →
      Queues (exec (.reelPsend w f) s) (.reelPsend w f) s w f .outReel false [dst] [f.modf 14 5] ∧
      Queues (exec (.syncPrecv w f) s) (.syncPrecv w f) s w f .inReel false [] [f.modf 14 5]) ∧
    (f.modf 0 9 = 0 → f.modf 14 5 ≠ 0 → f.modf 14 5 ≠ 31 →
      let ps := [f.modf 19 5, f.modf 14 5, f.modf 14 5 + 1, f.modf 9 5]
      Queues (exec (.twBits w f) s) (.twBits w f) s w f .twist false [dst] ps ∧
      Queues (exec (.twMask w f) s) (.twMask w f) s w f .twist false [dst] ps ∧
      Queues (exec (.twUnif w f) s) (.twUnif w f) s w f .twist false [dst] ps) ∧
    (f.modf 0 11 = 0 →
      Queues (exec (.shutScan w f) s) (.shutScan w f) s w f .vector true [dst, srcA] [f.modf 11 5] ∧
      Queues (exec (.shutEmit w f) s) (.shutEmit w f) s w f .vector true [dst, srcA] [f.modf 11 5]) ∧
    (f.modf 11 13 = 0 →
      Queues (exec (.shutTake w f) s) (.shutTake w f) s w f .vector true [] [] ∧
      Queues (exec (.shutFree w f) s) (.shutFree w f) s w f .vector true [] [])

/-- Where an instruction of the E format does not enter a queue: it waits while its knot is pending; one that does not
execute arms its knot and signals it with code 0 and goes on; one that executes waits while its queue has no entry for the
context. -/
def Obligations.EngineInstructionsWaitOrSkip : Prop :=
  ∀ (s : State) (i : Instr) (w : Who) (b : Job) (f : EForm) (e : Engine), i.wf = true → Issues s w b →
    engineRow s i = some (w, f, e, true) →
    let x := s.who w
    let k := f.kout.toNat
    ((x.knot k).pending = true → exec i s = .next s) ∧
    ((x.knot k).pending = false → x.executes f = false →
      exec i s = .next (s.setWho w ((x.armKnot k).setKnot k
        { (x.armKnot k).knot k with
          pending := false
          code := 0
          bad := false }).next)) ∧
    ((x.knot k).pending = false → x.executes f = true → (s.spn w.lspn.toNat).room e w.ctx.toNat = false →
      exec i s = .next s)

/-! ### Engines and the array limiter -/

/-- OPERATION_START of the context whose turn it is, which no upset meets: the picked operation leaves its queue, what it
passes over is held aside, the next turn starts after the context, and the operation runs with what its run gives; where
nothing else runs, one whose run leaves the rest alone and that is no array operation changes nothing else. A critical
context's turn comes before a fill context's. Out of turn, or with nothing to start, nothing happens. Readings of the model:
log entry 10. -/
def Obligations.OperationStartRuns : Prop :=
  (∀ (s : State) (w : Who) (e : Engine) (held : Bool) (q : QOp), s.power.phase = .ready →
    s.pick w.lspn.toNat w.ctx.toNat e held = some q →
    (s.turnOf w.lspn.toNat e ≠ some w.ctx.toNat → exec (.operationStart w e held []) s = .next s) ∧
    (s.turnOf w.lspn.toNat e = some w.ctx.toNat →
      let v := (s.passOver e q).served w.lspn.toNat e w.ctx.toNat
      let u := v.setSpn q.lspn ((v.spn q.lspn).setQueue e (((v.spn q.lspn).queue e).erase q))
      u.runs = [] → q.shape = none → q.isOpen = false → q.isDrain = false → (runOp u q).1 = u →
      ∃ r : ROp, exec (.operationStart w e held []) s = .next (u.setSpn q.lspn
        { u.spn q.lspn with running := (u.spn q.lspn).running ++ [(e, r)] }) ∧
        r.q = q ∧ r.code = (runOp u q).2.code ∧ r.flags = (runOp u q).2.flags ∧
        r.writes = (rop u q (runOp u q).2).writes ∧ r.residue = none)) ∧
  (∀ (s : State) (l c d : Nat) (e : Engine), c < 4 → s.startable l e c = true → s.critical (s.ctx l c).job = true →
    s.turnOf l e = some d → s.critical (s.ctx l d).job = true) ∧
  (∀ (s : State) (w : Who) (e : Engine) (held : Bool) (us : List Upset), s.pick w.lspn.toNat w.ctx.toNat e held = none →
    exec (.operationStart w e held us) s = .next s)

namespace Sys2Proof.Claims

/-- A table lists no number twice, in rising order. -/
def Rising {α : Type} (t : Table α) : Prop := t.Pairwise (fun a b => a.1 < b.1)

/-- The tables on the way to a context's knots have no repeats. -/
def Knotted (s : State) (l c : Nat) : Prop := Rising s.spindles ∧ Rising (s.spn l).ctxs ∧ Rising (s.ctx l c).knots

/-- A knot after one arming of it is signalled: a pending knot of that arming takes the code, any other stays. -/
def signalled (v : Knot) (arm : Nat) (code : Byte) : Knot :=
  if v.pending = true ∧ v.arm = arm then { v with
    pending := false
    code := code
    bad := decide (dispOf code ≠ .go) } else v

/-- The queued operations of a spindle after an arming of a knot of context `c` is signalled: a captured wait on it is done. -/
def resolved (ops : List QOp) (c k arm : Nat) (code : Byte) : List QOp :=
  ops.map fun o => if o.ctx = c then { o with wait := o.wait.resolve k arm code (decide (dispOf code ≠ .go)) } else o

end Sys2Proof.Claims

/-- KNOT_SIGNAL of an operation without a fault and without atomic operations, where no commit waits for an update and no
job ends: memory takes exactly its writes; in a context without joins the operation's knot takes code 0 where it is still
pending for the operation's arming, every other knot stays, and the queued operations whose captured waits name that arming
see it done. Nothing happens where no operation runs on the engine. One arming of a knot. In tables without repeats: setting
and arming a knot, and what a wait captures of it; k0 never changes; a captured wait is done by the signal of its own arming
alone. Signalling an arming of a knot: a pending knot of that arming takes the code, a knot re-armed since stays pending; in
a context without joins every queued operation's captured wait on that arming is done; no join is left that is ready, a join
that is not ready stays, and one that the signal makes ready signals its own knot, if that is still pending for it, with its
code. Readings of the model: log entries 3, 10. -/
def Obligations.KnotSignalling : Prop :=
  (∀ (s : State) (w : Who) (e : Engine), s.power.phase = .ready →
     ((s.spn w.lspn.toNat).running.find? (fun r => r.1 = e) = none → (∀ p ∈ s.mill.jobs, p.2.tail = none) →
       exec (.knotSignal w e) s = .next s) ∧
     (∀ r : ROp, (s.spn w.lspn.toNat).running.find? (fun r => r.1 = e) = some (e, r) → r.code = 0 → r.atoms = [] →
       (∀ p ∈ s.mill.jobs, p.2.tail = none ∧ p.2.endWith = none) → ∃ t, exec (.knotSignal w e) s = .next t ∧
         t.mem = Mem.setAll s.mem r.writes ∧ t.poison = s.healed r.writes ∧ t.time = s.time ∧ t.power = s.power ∧
         t.baro = s.baro ∧ t.sec = s.sec ∧
         let l := w.lspn.toNat
         let x := s.ctx l r.q.ctx
         (Knotted s l r.q.ctx → x.joins = [] →
           (∀ k, (t.ctx l r.q.ctx).knot k = if k = r.q.kout ∧ k ≠ 0 then signalled (x.knot k) r.q.karm 0 else x.knot k) ∧
           ∀ g, (t.spn l).queue g = if r.q.kout = 0 then (s.spn l).queue g
             else resolved ((s.spn l).queue g) r.q.ctx r.q.kout r.q.karm 0))) ∧
  ((∀ (x : Ctx) (k : Nat) (v : Knot), Rising x.knots →
     (x.setKnot 0 v = x) ∧ x.knot 0 = {} ∧
     (k ≠ 0 → (x.setKnot k v).knot k = v) ∧
     (k ≠ 0 → (x.armKnot k).knot k = { x.knot k with
       pending := true
       arm := (x.knot k).arm + 1 }) ∧
     (∀ j, j ≠ k → (x.setKnot k v).knot j = x.knot j) ∧
     ((x.knot k).pending = false → x.capture k = { knot := k, arm := (x.knot k).arm, done := some (x.knot k).code, bad := (x.knot k).bad }) ∧
     ((x.knot k).pending = true → (x.capture k).done = none)) ∧
   (∀ (w : Wait) (arm : Nat) (c : Byte) (bad : Bool),
     (w.done = none → w.resolve w.knot w.arm c bad = { w with
       done := some c
       bad := bad }) ∧
     (∀ k, w.done ≠ none ∨ w.knot ≠ k ∨ w.arm ≠ arm → w.resolve k arm c bad = w)) ∧
   (∀ (s : State) (l c k arm : Nat) (code : Byte), Knotted s l c → k ≠ 0 →
     let x := s.ctx l c
     let t := s.signalKnot l c k arm code
     let bad := decide (dispOf code ≠ .go)
     ((x.knot k).pending = true → (x.knot k).arm = arm → (t.ctx l c).knot k = signalled (x.knot k) arm code) ∧
     ((x.knot k).pending = true → (x.knot k).arm ≠ arm → (∀ j ∈ x.joins, j.kout ≠ k) → (t.ctx l c).knot k = x.knot k) ∧
     (x.joins = [] → ∀ g, (t.spn l).queue g = resolved ((s.spn l).queue g) c k arm code) ∧
     (∀ j ∈ (t.ctx l c).joins, j.ready = false) ∧
     (∀ j, x.joins = [j] → j.kout ≠ k → j.kout ≠ 0 →
       let ws := j.waits.map fun w => w.resolve k arm code bad
       let j' : Join := { j with waits := ws }
       (j'.ready = false → (t.ctx l c).joins = [j'] ∧ (t.ctx l c).knot j.kout = x.knot j.kout) ∧
       (j'.ready = true → (t.ctx l c).joins = [] ∧
         (t.ctx l c).knot j.kout = if (x.knot j.kout).pending = true ∧ (x.knot j.kout).arm = j.arm then { x.knot j.kout with
           pending := false
           code := j'.code
           bad := ws.any (·.bad) } else x.knot j.kout))))

/-- LEVEL_INTERVAL and DRIZZLE_GAP_EXPIRY by the limiter's mode in force: off, the level is the real work; work at or above
the level raises it one sixteenth; in a gap, mode always drizzles, mode auto drizzles and, once the level falls, lowers it
by one sixteenth each interval. The level is set once in an interval of 125 ns. -/
def Obligations.LimiterLevels : Prop :=
  ∀ (s : State) (l : BitVec 8) (work : BitVec 5), s.power.phase = .ready → work.toNat ≤ 16 →
    let x := s.spn l.toNat
    let n := work.toNat
    let becomes (level : Nat) (falling drizzle : Bool) : Prop := exec (.levelInterval l work) s = .next (s.setSpn l.toNat
      { x with
        level := level
        falling := falling
        drizzle := drizzle
        levelAt := s.ns / 125 })
    (s.ns / 125 ≤ x.levelAt → exec (.levelInterval l work) s = .next s) ∧
    (x.levelAt < s.ns / 125 →
      (s.limMode l.toNat = 0 → becomes n false false) ∧
      (s.limMode l.toNat ≠ 0 → x.level ≤ n → becomes (min n (x.level + 1)) false false) ∧
      (s.limMode l.toNat = 2 → n < x.level → becomes x.level false true) ∧
      (s.limMode l.toNat = 1 → n < x.level → x.falling = false → becomes x.level false true) ∧
      (s.limMode l.toNat = 1 → n < x.level → x.falling = true →
        becomes (x.level - 1) (decide (n < x.level - 1)) (decide (n < x.level - 1)))) ∧
    (s.limMode l.toNat = 1 → x.drizzle = true →
      exec (.drizzleGapExpiry l) s = .next (s.setSpn l.toNat { x with falling := true })) ∧
    (s.limMode l.toNat ≠ 1 ∨ x.drizzle = false → exec (.drizzleGapExpiry l) s = .next s)

/-! ### Steps -/

namespace Sys2Proof.Claims

/-- What the steps, the placing and the switching of jobs leave alone: the time unit, management, power, the CXL ports, the
host's functions, and the error counts, spare rows and retired places of memory. -/
def Outside (t s : State) : Prop :=
  t.time = s.time ∧ t.sec = s.sec ∧ t.power = s.power ∧ t.ports = s.ports ∧ t.host = s.host ∧ t.rowErr = s.rowErr ∧
  t.spares = s.spares ∧ t.retired = s.retired

end Sys2Proof.Claims

/-- STEP_COMMIT of a job whose step is complete, without scale trouble, campaign or stop, whose staging rows pass their
checks: one more step is committed, the replay count, the task deques, the staging and the record list start anew, and every
context that waited runs on with its knots signalled, its ordinals restarted and a snapshot taken. A job whose step is not
complete does not commit. With nothing staged, no record updated and no job ending, memory stays. Readings of the model: log
entry 23. -/
def Obligations.StepCommitAdvances : Prop :=
  ∀ (s : State) (j : Nat) (b : Job), s.power.phase = .ready → s.job? j = some b →
    (s.mayCommit j b = false → exec (.stepCommit j .none) s = .next s) ∧
    (s.mayCommit j b = true → (∀ r ∈ b.records, s.inTrouble (s.scaleCtl j) r.1 = false) → b.camp = none → b.stopAt = false →
      s.stagingFails j .none = false → ∃ t b', exec (.stepCommit j .none) s = .next t ∧ t.job? j = some b' ∧
        b'.committed = b.committed + 1 ∧ b'.replays = 0 ∧ b'.seen = [] ∧ b'.causes = [] ∧ b'.deques = [] ∧ b'.staging = [] ∧ b'.records = [] ∧
        b'.pages = b.pages ∧ b'.endWith = none ∧
        (∀ p ∈ t.spindles, ∀ q ∈ p.2.ctxs, q.2.of j = true →
          q.2.status ≠ .atStep ∧ (∀ k, (q.2.knot k).pending = false ∧ (q.2.knot k).code = 0) ∧ q.2.joins = [] ∧ q.2.veOrd = 0 ∧ q.2.bufDrains = 0 ∧
          (q.2.status ≠ .ended → q.2.snap.isSome = true)) ∧
        (b.staging = [] → b.records = [] → (∀ p ∈ s.mill.jobs, p.2.endWith = none) → t.mem = s.mem) ∧ Outside t s ∧ t.baro = s.baro)

/-- JOB_BOUNDARY of a job that does not commit in steps, is not to stop and has nothing staged, whose contexts have all
reported and some wait: they run on, and the job's count of committed steps stays. A job that commits in steps, or whose
contexts have not all reported, has none. -/
def Obligations.JobBoundaryReleases : Prop :=
  ∀ (s : State) (j : Nat) (b : Job), s.power.phase = .ready → s.job? j = some b →
    (b.steps = true ∨ s.allReported j = false → exec (.jobBoundary j .none) s = .next s) ∧
    (b.steps = false → b.st = .resident → b.endWith = none → s.allReported j = true → s.someReported j = true →
      b.stopAt = false → b.staging = [] → b.records = [] →
      ∃ t b', exec (.jobBoundary j .none) s = .next t ∧ t.job? j = some b' ∧ b'.committed = b.committed ∧ b'.endWith = none ∧
        (∀ p ∈ t.spindles, ∀ q ∈ p.2.ctxs, q.2.of j = true → q.2.status ≠ .atStep) ∧
        t.mem = s.mem ∧ t.fabric = s.fabric ∧ t.baro = s.baro ∧ t.out = s.out ∧ Outside t s)

/-- STEP_REPLAY of a job that needs one, has none of its operations running and waits for no test: within MAXREP every
context goes back to its snapshot, with its knots signalled and its tiles closed, every cause of the attempt is remembered,
and the step count stays; beyond MAXREP the job ends with the fault's code, the model's choice being RESIDUE where the cause
is 0. Without command core 0 nothing is replayed (R123). Readings of the model: log entry 71. -/
def Obligations.StepReplayRestores : Prop :=
  ∀ (s : State) (j : Nat) (b : Job) (f : Byte × Nat), s.power.phase = .ready → s.job? j = some b → b.fault = some f →
    b.st = .resident → b.endWith = none → s.started j = false → (∀ t ∈ s.mill.spots, t.job ≠ some j) → (∀ t ∈ s.mill.twinTests, t.2.2 ≠ j) →
    (s.core0 = true → b.replays + 1 ≤ s.maxrep → ∃ t b', exec (.stepReplay j) s = .next t ∧ t.job? j = some b' ∧
      b'.fault = none ∧ b'.replays = b.replays + 1 ∧ b'.seen = b.seen ++ b.causes ∧ b'.causes = [] ∧ b'.committed = b.committed ∧
      b'.deques = [] ∧ b'.staging = [] ∧ b'.records = [] ∧
      (∀ p ∈ t.spindles, ∀ q ∈ p.2.ctxs, q.2.of j = true → ∀ v, q.2.snap = some v →
        q.2.s = v.s ∧ q.2.a = v.a ∧ q.2.p = v.p ∧ q.2.lc = v.lc ∧ q.2.pc = v.pc ∧ q.2.arithCtl = v.arith ∧
        q.2.qzCtl = v.qz ∧ q.2.updCtl = v.upd ∧ q.2.arithFlags = v.aflags ∧ q.2.qzFlags = v.qflags ∧
        q.2.updFlags = v.uflags ∧ (∀ k, (q.2.knot k).pending = false ∧ (q.2.knot k).code = 0) ∧ q.2.tiles = [] ∧
        q.2.status = (if b.atBoundary then .atStep else .running)) ∧
      (s.weak = [] → t.baro.next = s.baro.next + 1) ∧ Outside t s) ∧
    (s.core0 = false → exec (.stepReplay j) s = .next s) ∧
    (s.core0 = true → s.maxrep < b.replays + 1 →
      exec (.stepReplay j) s = .next ((s.endJob j (if f.1 = 0 then 0x40 else f.1)).reap))

/-! ### Jobs and the host -/

/-- SUBMIT of a job that passes the checks counts it as submitted and puts it, waiting, at the end of its class's queue; one
that fails a check is completed at once with the check's STATUS and counted as ended, its fault-count area named by the
descriptor. -/
def Obligations.SubmitQueuesOrRefuses : Prop :=
  ∀ (s : State) (client : BitVec 8) (ref : Word) (entry : Line), s.power.phase = .ready → s.mill.accepting = true →
    entryBad (withOp entry 1) = false →
    let e := withOp entry 1
    let c := client.toNat
    let u := s.countSubmit c
    let read := u.readJob c ref (BitVec.ofNat 64 (lineBytes e 15 8)) ((lineBytes e 1 1).testBit 0) (lineBytes e 2 2) (lineBytes e 23 16)
    (∀ b, read = .ok b → exec (.submit client ref entry) s = .next { u with
      mill := { u.mill with
        nextJid := u.mill.nextJid + 1
        jobs := u.mill.jobs.put u.mill.nextJid { b with jid := u.mill.nextJid }
        critQ := if b.crit then u.mill.critQ ++ [u.mill.nextJid] else u.mill.critQ
        fillQ := if b.crit then u.mill.fillQ else u.mill.fillQ ++ [u.mill.nextJid] } }) ∧
    (∀ st, read = .error st → exec (.submit client ref entry) s = .next ((u.countEnd c).complete
      { client := c
        kind := 1
        status := st
        tag := BitVec.ofNat 64 (lineBytes e 15 8)
        ref := ref
        irq := (lineBytes e 1 1).testBit 0
        vec := lineBytes e 2 2
        flog := u.fieldAt (u.clientKey c (lineBytes e 23 16)) 136 8 }))

/-- STOP, RESUME and ABORT complete their own entry first: with NO_JOB (0x6B) where the client has no such job; with OK and
the stop noted for a job that commits in steps or is a campaign; with OK and the campaign going on for a paused one; with OK
and the job taken away for an abort. REMOTE_COMMAND acts for the client that the sender's coordinate is bound to, as that
client's own entry would, and is refused with a record where no client is bound to it. COMMAND_RING_POLL of a function that
is there and enabled, with one new entry, acts on it and advances CONSUMER; with none it changes nothing; an overrun clears
EN, and its JOB_CFG completion waits for the ring. Readings of the model: log entries 66, 67, 68. -/
def Obligations.JobControlCommands : Prop :=
  (∀ (s : State) (client : BitVec 8) (ref : Word) (entry : Line), s.power.phase = .ready →
     entryBad (withOp entry 2) = false → entryBad (withOp entry 3) = false → entryBad (withOp entry 4) = false →
     let c := client.toNat
     let name := lineBytes entry 31 24
     let said (e : Line) (st : Byte) := s.cmdDone c (BitVec.ofNat 64 name) e st
     (s.jobRef c name = none →
       exec (.stop client ref entry) s = .next (said (withOp entry 2) 0x6B) ∧
       exec (.resume client ref entry) s = .next (said (withOp entry 3) 0x6B) ∧
       exec (.abort client ref entry) s = .next (said (withOp entry 4) 0x6B)) ∧
     (∀ j b, s.jobRef c name = some (j, b) →
       (b.steps = true ∨ b.camp.isSome = true → exec (.stop client ref entry) s =
         .next ((said (withOp entry 2) 0).modJob j fun b => { b with stopAt := true })) ∧
       (b.steps = false → b.camp = none → exec (.stop client ref entry) s = .next ((said (withOp entry 2) 0).dropJob j b 0x6A)) ∧
       (∀ p, b.camp = some p → p.paused = true → exec (.resume client ref entry) s =
         .next ((said (withOp entry 3) 0).modCamp j fun p => { p with paused := false })) ∧
       (b.camp = none → exec (.resume client ref entry) s = .next (said (withOp entry 3) 0x60)) ∧
       exec (.abort client ref entry) s = .next ((said (withOp entry 4) 0).dropJob j b 0x69))) ∧
  (∀ (s : State), s.power.phase = .ready →
     (∀ (src : Coord) (ref : Word) (entry : Line),
       (∀ c, (List.range 256).find? (fun c => s.binding c = some src) = some c →
         exec (.remoteCommand src ref entry) s = .next (s.command c ref entry)) ∧
       ((∀ c, c < 256 → s.binding c ≠ some src) →
         exec (.remoteCommand src ref entry) s =
           .next (s.baroWrite 0x10 0 false [locW .coord src.toNat, codeW 0 0 0]))) ∧
     (∀ client : BitVec 8, client.toNat < 32 →
       let f := client.toNat
       let prod := s.natAt (s.cmdKey f 0) 8
       let cons := s.natAt (s.cmdKey f 8) 8
       let e : Line := BitVec.ofNat 512 (s.natAt (s.cmdKey f (64 + cons % 2 ^ (s.fn f).live.rlog * 64)) 64)
       let u := s.command f (BitVec.ofNat 64 cons) e
       ((s.fn f).rcfg.msb = false ∨ prod = cons ∨ s.fnThere f = false → exec (.commandRingPoll client) s = .next s) ∧
       (s.fnThere f = true → (s.fn f).rcfg.msb = true → prod = cons + 1 → s.accepts e = true →
         exec (.commandRingPoll client) s = .next (u.putAt (u.cmdKey f 8) (leBytes 8 (cons + 1)))) ∧
       (s.fnThere f = true → (s.fn f).rcfg.msb = true → cons ≤ prod → 2 ^ (s.fn f).live.rlog < prod - cons →
         ∃ t, exec (.commandRingPoll client) s = .next t ∧
           t.host.fns = s.host.fns.set f { s.fn f with rcfg := (s.fn f).rcfg &&& 0x7FFFFFFFFFFFFFFF } {} ∧
           ∃ c : Compl, c.client = f ∧ c.status = 0x60 ∧ c.last = true ∧ t.mill.held = s.mill.held ++ [c])))

/-- COMPLETION_WRITE writes the client's oldest held completion into the next slot of its completion ring, then PRODUCER,
and sends the MSI-X message it asked for, or marks it pending where the vector is masked (log entry 6); it waits while the
ring is full or the client disabled, but for the completion of an overrun, which is the client's last. Readings of the
model: log entry 6. -/
def Obligations.CompletionWrites : Prop :=
  ∀ (s : State) (client : BitVec 8) (c : Compl), s.power.phase = .ready →
    s.mill.held.find? (fun c => c.client = client.toNat) = some c →
    let f := client.toNat
    let prod := s.natAt (s.cplKey f 0) 8
    let cons := s.natAt (s.cplKey f 8) 8
    let u : State := { s with mill := { s.mill with held := s.mill.held.erase c } }
    let v := u.putAt (u.cplKey f (64 + prod % 2 ^ (s.fn f).live.clog * 64)) c.bytes
    let t := v.putAt (v.cplKey f 0) (leBytes 8 (prod + 1))
    (s.fnThere f = true → (s.fn f).rcfg.msb = true ∨ c.last = true → cons ≤ prod → prod < 2 ^ 64 → prod - cons < 2 ^ (s.fn f).live.clog →
      c.flog = 0 →
      (c.irq = false → exec (.completionWrite client) s = .next t) ∧
      (c.irq = true → (s.fn f).masked c.vec = false → exec (.completionWrite client) s = .next (t.emit (.msix f c.vec))) ∧
      (c.irq = true → (s.fn f).masked c.vec = true → exec (.completionWrite client) s =
        .next (t.setFn f { s.fn f with pba := (s.fn f).pba ||| (1#64 <<< c.vec) }))) ∧
    (((s.fn f).rcfg.msb = false ∧ c.last = false) ∨ s.fnThere f = false ∨ (cons ≤ prod ∧ prod < 2 ^ 64 ∧ 2 ^ (s.fn f).live.clog ≤ prod - cons) →
      exec (.completionWrite client) s = .next s)

/-- JOB_RCFG_WRITE of a function that is there stores the writable fields, a reserved log size leaving its own field; the
ring settings come into force only when EN rises. A FUNCTION_LEVEL_RESET of a VF, or BUS_MASTER_ENABLE_CLEAR, returns its
JOB_RCFG to the reset value and ends every job of its client without a completion entry; a FUNCTION_LEVEL_RESET of the PF
does so for every function that is there, and disables the VFs. A function that is not there has none. Readings of the
model: log entry 6. -/
def Obligations.RingConfigurationAndFunctionResets : Prop :=
  (∀ (s : State) (fn : BitVec 5) (v : Word), s.power.phase = .ready →
     let x := s.fn fn.toNat
     let n := putFields rcfgFields v.toNat x.rcfg.toNat
     let y : Fn := { x with rcfg := BitVec.ofNat 64 n }
     (s.fnThere fn.toNat = false → exec (.jobRcfgWrite fn v) s = .next s) ∧
     (s.fnThere fn.toNat = true → x.rcfg.msb = true ∨ v.msb = false → exec (.jobRcfgWrite fn v) s = .next (s.setFn fn.toNat y)) ∧
     (s.fnThere fn.toNat = true → x.rcfg.msb = false → v.msb = true → ∃ r : Rings,
       exec (.jobRcfgWrite fn v) s = .next (s.setFn fn.toNat { y with live := r }) ∧
       r.rbase = x.rbase ∧ r.cbase = x.cbase ∧ r.rspace = v.getLsbD 62 ∧ r.cspace = v.getLsbD 61 ∧
       (4 ≤ v.toNat / 2 ^ 20 % 16 → r.rlog = v.toNat / 2 ^ 20 % 16) ∧
       (v.toNat / 2 ^ 20 % 16 < 4 → r.rlog = x.rcfg.toNat / 2 ^ 20 % 16) ∧
       (4 ≤ v.toNat / 2 ^ 16 % 16 → r.clog = v.toNat / 2 ^ 16 % 16) ∧
       (v.toNat / 2 ^ 16 % 16 < 4 → r.clog = x.rcfg.toNat / 2 ^ 16 % 16))) ∧
  (∀ (s : State) (fn : BitVec 5), s.power.phase = .ready → Rising s.host.fns → Rising s.mill.jobs →
     (s.fnThere fn.toNat = false → exec (.busMasterEnableClear fn) s = .next s ∧ exec (.functionLevelReset fn) s = .next s) ∧
     (s.fnThere fn.toNat = true → ∃ t, exec (.busMasterEnableClear fn) s = .next t ∧ (t.fn fn.toNat).rcfg = 0x0004000000440000 ∧
       (∀ p ∈ t.mill.jobs, p.2.client = fn.toNat → p.2.endWith.isSome = true ∧ p.2.quiet = true) ∧
       (fn ≠ 0 → exec (.functionLevelReset fn) s = .next t)) ∧
     (∃ t, exec (.functionLevelReset 0) s = .next t ∧ t.host.vfs = 0 ∧
       (∀ f, f < 32 → f ≤ s.host.vfs → (t.fn f).rcfg = 0x0004000000440000) ∧
       (∀ p ∈ t.mill.jobs, p.2.client < 32 → p.2.client ≤ s.host.vfs → p.2.endWith.isSome = true ∧ p.2.quiet = true)))

/-- JOB_PLACE of the waiting job whose turn it is, that fits and whose pages can be placed: it becomes resident with those
pages and leaves its queue. A job whose turn it is not, or that does not fit, keeps waiting. Readings of the model: log
entries 20, 21, 85. -/
def Obligations.JobPlacement : Prop :=
  ∀ (s : State) (j : Nat) (b : Job), s.power.phase = .ready → s.job? j = some b →
    (b.st ≠ .waiting ∨ s.turn j b = false ∨ s.fits j b = false → exec (.jobPlace j) s = .next s) ∧
    (b.st = .waiting → s.turn j b = true → s.fits j b = true → (b.regions.any (s.namesHeld b)) = false →
      ∀ p, (s.openShuttles b).placeAll b.regions ((b.lspnList.map s.hframe).min?.getD 0 / 8) = some p →
        ∃ t b', exec (.jobPlace j) s = .next t ∧ t.job? j = some b' ∧ b'.st = .resident ∧ b'.pages = p.pages ∧
          b'.creelMap = p.creel ∧ j ∉ t.mill.critQ ∧ j ∉ t.mill.fillQ ∧ t.fabric = s.fabric ∧ t.baro = s.baro ∧ Outside t s) ∧
    (b.st = .waiting → s.turn j b = true → s.fits j b = true → (b.regions.any (s.namesHeld b)) = false →
      (s.openShuttles b).placeAll b.regions ((b.lspnList.map s.hframe).min?.getD 0 / 8) = none →
      exec (.jobPlace j) s = .next (s.removeJob j 0x62))

/-- JOB_SWITCH_OUT of the fill job that the head of the critical queue displaces, which has no update pending, no record in
a shuttle and no collective entry open: while an operation of it runs it stops issuing and starting; then, where its save
area finds pages (their number and what they show are the model's choice), it leaves its spindles, keeps its contexts and
goes to the head of the fill queue, and where it finds none it ends with MEM_FULL. Any other job stays. JOB_SWITCH_IN makes
it resident again when its turn comes; FILL_WAIT_LIMIT marks a fill job that has waited 100 ms. PAGE_MIGRATE copies a
spilled page of a switched-out job to the page of a higher tier that placement finds, its poison with it, rewrites its page
entry, and what is under way follows the page; a job that is not switched out keeps its pages. Readings of the model: log
entry 110. -/
def Obligations.JobSwitchingAndMigration : Prop :=
  (∀ (s : State) (j : Nat) (b : Job), s.power.phase = .ready → s.job? j = some b →
     let begins := b.stopping = true ∨ (s.victim = some j ∧ s.updPending j = false ∧ s.shuttlesEmpty b = true ∧
       ∀ f ∈ b.flights, f.done = true)
     (begins → s.started j = true → exec (.jobSwitchOut j) s = .next (s.setJob j { b with stopping := true })) ∧
     (begins → s.started j = false → ∀ area, s.savePagesOf b = some area →
       ∃ t b', exec (.jobSwitchOut j) s = .next t ∧ t.job? j = some b' ∧ b'.st = .out ∧ b'.savePages = area ∧ b'.deques = [] ∧
         b'.aged = false ∧ b'.stopping = false ∧ b'.saved.length = (s.ctxsOf j).length ∧ t.mill.fillQ = j :: s.mill.fillQ ∧
         t.mem = s.mem ∧ Outside t s) ∧
     (begins → s.started j = false → s.savePagesOf b = none → exec (.jobSwitchOut j) s = .next ((s.endJob j 0x62).reap)) ∧
     (¬begins → exec (.jobSwitchOut j) s = .next s) ∧
     (b.st = .out → s.turn j b = true → s.fits j b = true →
       ∃ t b', exec (.jobSwitchIn j) s = .next t ∧ t.job? j = some b' ∧ b'.st = .resident ∧ b'.saved = [] ∧
         b'.pages = b.pages ∧ j ∉ t.mill.fillQ ∧ Outside t s) ∧
     (b.st ≠ .out ∨ s.turn j b = false ∨ s.fits j b = false → exec (.jobSwitchIn j) s = .next s) ∧
     (b.crit = false → b.st ≠ .resident → b.since + 100000000 ≤ s.ns →
       exec (.fillWaitLimit j) s = .next (s.setJob j { b with aged := true })) ∧
     (b.crit = true ∨ b.st = .resident ∨ s.ns < b.since + 100000000 → exec (.fillWaitLimit j) s = .next s)) ∧
  (∀ (s : State) (j page : Nat) (b : Job) (r : Region) (i tier ppn : Nat) (old new : Loc), s.power.phase = .ready →
     s.job? j = some b →
     (b.st ≠ .out → exec (.pageMigrate j page) s = .next s) ∧
     (b.st = .out → page < 2 ^ 35 → b.regionOf page = some (r, i) → s.pageLoc (b.pages.get page 0) 0 = some old →
       s.placePage s.used r ((b.lspnList.map s.hframe).min?.getD 0 / 8) i = some (tier, ppn) → r.fix = false → tier ≠ 0 →
       r.tier ≤ tier → tier < entTier (b.pages.get page 0) → s.pageLoc (entryOf r tier ppn) 0 = some new →
       let u : State := { s with
         mem := Mem.setBytes s.mem new.key (s.bytesAt old.key (2 ^ 21))
         poison := s.poisonMoved old.key new.key (2 ^ 21) }
       exec (.pageMigrate j page) s =
         .next ((u.setJob j { b with pages := b.pages.set page (entryOf r tier ppn) 0 }).retarget j old.key new.key)))

/-! ### Registers -/

/-- REGISTER_WRITE by access code: a register kept in the bank takes its writable fields into its word of WPREG; read-only
registers keep what they hold; FRM_PWRCTL, the ring bases and the compare values take the value; TIME_CMP7 and the control
bit of compare unit 7 cannot be written; before the module is ready nothing is written, the model's reading. Readings of the
model: log entry 91. -/
def Obligations.RegisterWritesByAccess : Prop :=
  ∀ (s : State) (v : Word),
    (s.power.phase ≠ .ready → ∀ r fails, exec (.registerWrite r v fails) s = .next s) ∧
    (s.power.phase = .ready →
      (∀ r n fs, r.wpFields = some (n, fs) → exec (.registerWrite r v false) s =
        .next (s.bankWord (wpBase + 8 * n) (BitVec.ofNat 64 (putFields fs v.toNat (s.wp n).toNat)).toNat)) ∧
      (∀ n p m c f l w g u, exec (.registerWrite (.millSpmap n) v false) s = .next s ∧
        exec (.registerWrite (.millSite p) v false) s = .next s ∧ exec (.registerWrite (.millSitet p) v false) s = .next s ∧
        exec (.registerWrite (.millRstat m) v false) s = .next s ∧ exec (.registerWrite (.jobCnt c) v false) s = .next s ∧
        exec (.registerWrite (.frmShptr f) v false) s = .next s ∧ exec (.registerWrite (.frmShtake f) v false) s = .next s ∧
        exec (.registerWrite (.frmDvfs f) v false) s = .next s ∧ exec (.registerWrite (.arrLimstat c) v false) s = .next s ∧
        exec (.registerWrite (.sknLstat l) v false) s = .next s ∧ exec (.registerWrite (.spnBpart w) v false) s = .next s ∧
        exec (.registerWrite (.spnCfault w) v false) s = .next s ∧ exec (.registerWrite (.spnCfinst w) v false) s = .next s ∧
        exec (.registerWrite .secStat v false) s = .next s ∧ exec (.registerWrite (.secMeas g) v false) s = .next s ∧
        exec (.registerWrite .sknCinuse v false) s = .next s ∧ exec (.registerWrite .timeNow v false) s = .next s ∧
        exec (.registerWrite .baroNext v false) s = .next s ∧ exec (.registerWrite (.pbWear u) v false) s = .next s ∧
        exec (.registerWrite .pwrStat v false) s = .next s) ∧
      (∀ f : BitVec 5, exec (.registerWrite (.frmPwrctl f) v false) s = .next (s.setFrame f.toNat
        { s.frame f.toNat with pwrctl := BitVec.ofNat 32 (v.toNat % 2) })) ∧
      (∀ f : BitVec 5, exec (.registerWrite (.jobRbase f) v false) s = .next (s.setFn f.toNat { s.fn f.toNat with rbase := v }) ∧
        exec (.registerWrite (.jobCbase f) v false) s = .next (s.setFn f.toNat { s.fn f.toNat with cbase := v })) ∧
      (∀ u : BitVec 3, (u ≠ 7 → exec (.registerWrite (.timeCmp u) v false) s =
          .next { s with time := { s.time with cmp := s.time.cmp.set u.toNat v 0 } }) ∧
        exec (.registerWrite (.timeCmp 7) v false) s = .next s ∧
        (v.getLsbD 7 = true → exec (.registerWrite .timeCmpctl v false) s = .next s)))

/-- A write to a WP register whose word has not reached the endurance of the configuration region, and which verifies,
counts one write of that word, stores the writable fields and leaves every other byte and counter; at its endurance the word
is read-only: nothing is stored and the write is recorded as type 0x0D, with the bank page and the word. -/
def Obligations.WpWritesWearTheirWord : Prop :=
  ∀ (s : State) (r : Reg) (v : Word) (n : Nat) (fs : List Fld), s.power.phase = .ready → s.core0 = true → s.Inv →
    r.wpFields = some (n, fs) →
    let w := wpBase / 8 + n
    (s.wearOf w < 10 ^ 9 → w ∉ s.weak → ∃ t, exec (.registerWrite r v false) s = .next t ∧ t.wearOf w = s.wearOf w + 1 ∧
      t.wp n = BitVec.ofNat 64 (putFields fs v.toNat (s.wp n).toNat) ∧ t.baro = s.baro ∧
      (∀ u, u ≠ w → t.wearOf u = s.wearOf u) ∧
      (∀ a, a < keyOf 6 (8 * w) ∨ keyOf 6 (8 * w) + 8 ≤ a → Mem.get t.mem a = Mem.get s.mem a)) ∧
    (10 ^ 9 ≤ s.wearOf w → ∀ fails, exec (.registerWrite r v fails) s =
      .next (s.baroWrite 0x0D 1 true [locW .bankPage ((wpBase + 8 * n) / 256), codeW 0 0 (8 * w)]))

/-! ### Campaigns -/

/-- INTAKE_POLL at a boundary with nothing left to do reads PRODUCER of the intake; with the step's entries there the next
step starts, the time waited is counted in microseconds and every waiting context runs, without them the boundary goes on
waiting from when it began. CHECKPOINT_REPORT, CHECKPOINT_FAIL, EVALUATION, REPORT_WRITE and CAMPAIGN_END each do their
stage of a boundary: a report of its type is queued and the stage is no longer due; a failed checkpoint pauses the campaign;
a report goes to the ring and PRODUCER advances; an evaluation counts one token for each that its entries hold; the end
writes the STOPPED report and ends the job with its cause. Readings of the model: log entries 25, 27, 28, 70. -/
def Obligations.CampaignBoundaries : Prop :=
  (∀ (s : State) (j : Nat) (b : Job) (c : Camp), s.camp? j = some (b, c) → c.ckDue = false → c.evDue = false → c.ending = none →
     b.stopAt = false → c.paused = false → c.reports = [] → (s.jobKey b c.inring).isSome = true →
     let p := s.jobNat b c.inring 8
     (b.perStep ≤ (p + 2 ^ 64 - c.consumed) % 2 ^ 64 → ∃ t b' c', exec (.intakePoll j) s = .next t ∧ t.job? j = some b' ∧
       b'.camp = some c' ∧ c'.avail = p ∧ c'.boundary = false ∧ c'.consumed = c.consumed ∧ c'.waitFrom = none ∧
       c'.waited = c.waited + (match c.waitFrom with
         | some since => (s.ns - since) / 1000
         | none => 0) ∧
       (∀ q ∈ t.spindles, ∀ x ∈ q.2.ctxs, x.2.of j = true → x.2.status ≠ .atStep) ∧ t.mem = s.mem) ∧
     ((p + 2 ^ 64 - c.consumed) % 2 ^ 64 < b.perStep → ∃ t b' c', exec (.intakePoll j) s = .next t ∧ t.job? j = some b' ∧
       b'.camp = some c' ∧ c'.avail = p ∧ c'.boundary = true ∧ c'.waitFrom = some (c.waitFrom.getD s.ns) ∧
       t.spindles = s.spindles ∧ t.mem = s.mem)) ∧
  (∀ (s : State) (j : Nat) (b : Job) (c : Camp), s.camp? j = some (b, c) → c.paused = false →
     let slot := b.lastStep / c.ckstep % 2
     (c.ckDue = true → s.slotReach b c slot = true → ∃ t b' c', exec (.checkpointReport j) s = .next t ∧
       t.job? j = some b' ∧ b'.camp = some c' ∧ c'.ckDue = false ∧ c'.lastSlot = some slot ∧ c'.lastCk = b.lastStep ∧
       c'.reports = c.reports ++ [reportBytes b c 1 (leBytes 8 (c.ckpt + slot * c.cksize) ++ leBytes 1 slot)] ∧
       c'.paused = false ∧ t.spindles = s.spindles) ∧
     (c.ckDue = true ∨ c.finalCk = true → ∃ t b' c', exec (.checkpointFail j) s = .next t ∧
       t.job? j = some b' ∧ b'.camp = some c' ∧ c'.paused = true ∧ c'.reports = c.reports ++ [reportBytes b c 4 [0x68]] ∧
       t.spindles = s.spindles ∧ t.ports = s.ports) ∧
     (∀ toks, toks.length ≠ s.evalTokens b c → exec (.evaluation j toks) s = .next s) ∧
     (∀ toks, c.evDue = true → c.ckDue = false → c.evbatch ≤ (c.evAvail + 2 ^ 64 - c.evDone) % 2 ^ 64 →
       (s.jobKey b c.evring).isSome = true →
       toks.length = s.evalTokens b c → ∃ t b' c' body, exec (.evaluation j toks) s = .next t ∧ t.job? j = some b' ∧ b'.camp = some c' ∧ c'.evDue = false ∧
         c'.evDone = c.evDone + c.evbatch ∧ c'.reports = c.reports ++ [reportBytes b c 2 body] ∧
         (body.drop 4).take 4 = leBytes 4 toks.length ∧ t.spindles = s.spindles) ∧
     (∀ r rest, c.reports = r :: rest → s.reportRoom b c = true → ∃ t b' c', exec (.reportWrite j) s = .next t ∧
       t.job? j = some b' ∧ b'.camp = some c' ∧ c'.reports = rest ∧ c'.produced = c.produced + 1 ∧ t.spindles = s.spindles) ∧
     (∀ cause, c.ending = some cause → c.ckDue = false → c.evDue = false → c.reports = [] → c.finalCk = false →
       s.reportRoom b c = true → exec (.campaignEnd j) s =
         .next (((s.putReport j b c (reportBytes b (s.campNow c) 3 (leBytes 1 cause))).endJob j (BitVec.ofNat 8 cause)).reap)))

/-! ### Shuttles and pipelines over the fabric -/

/-- Arriving shuttle packets of a job the module knows. SHUTTLE_RECORD: a record goes to its slot and becomes visible in SQN
order, one below PROD is discarded. SHUTTLE_CREDIT gives the producer FREED. SHUTTLE_REWIND for the step the job is in makes
it replay that step. CREDIT_RETURN sends the consumer's FREED count to the producer's module, once per change. Readings of
the model: log entry 29. -/
def Obligations.ShuttleArrivalsAndCredits : Prop :=
  (∀ (s : State) (h : PHdr) (j : Nat) (b : Job), s.power.phase = .ready → s.fjob? h = some (j, b) →
     let f := h.xt.toNat
     let x := s.frame f
     let sqn := h.tag.toNat % 2 ^ 32
     (∀ slot : List Byte, f < 32 → s.remoteShuttle b f = true → slot.length = 384 →
       (x.prod.toNat = sqn % 2 ^ 16 → exec (.shuttleRecord h slot) s =
         .next ((s.putAt (slotKey f sqn) slot).setFrame f { x with prod := x.prod + 1 })) ∧
       (0 < (sqn + 2 ^ 16 - x.prod.toNat) % 2 ^ 16 → (sqn + 2 ^ 16 - x.prod.toNat) % 2 ^ 16 < 2 ^ 15 →
         exec (.shuttleRecord h slot) s = .next (s.putAt (slotKey f sqn) slot)) ∧
       (2 ^ 15 ≤ (sqn + 2 ^ 16 - x.prod.toNat) % 2 ^ 16 → exec (.shuttleRecord h slot) s = .next s)) ∧
     (∀ i, producing b h = some i → exec (.shuttleCredit h) s = .next (s.setJob j { b with
       prods := b.prods.set i { b.prods.get i {} with freed := BitVec.ofNat 16 sqn } {} })) ∧
     (∀ i, producing b h = some i → s.remoteShuttle b f = false → b.steps = true → b.fault = none →
       s.job? j = some b → h.tag.toNat / 2 ^ 32 = b.step % 2 ^ 32 → exec (.shuttleRewind h) s =
         .next (s.setJob j { b with
           fault := some (0, h.src.toNat % 2 ^ 14 + 1)
           causes := b.causes ++ [(0, h.src.toNat % 2 ^ 14 + 1)] })) ∧
     (h.tag.toNat / 2 ^ 32 ≠ b.step % 2 ^ 32 → exec (.shuttleRewind h) s = .next s)) ∧
  (∀ (s : State) (frame : BitVec 5) (p : Nat × Job), s.power.phase = .ready →
     List.find? (fun p => s.remoteShuttle p.2 frame.toNat && decide (p.2.st ≠ .waiting)) s.mill.jobs = some p →
     let x := s.frame frame.toNat
     (x.freed = x.reported → exec (.creditReturn frame) s = .next s) ∧
     (x.freed ≠ x.reported → exec (.creditReturn frame) s = .next
       ((s.setFrame frame.toNat { x with reported := x.freed }).send
         { dst := x.shctl.extractLsb' 16 14
           tc := 2
           type := 1
           fjob := p.2.fjob
           xt := frame.toNat
           tag := x.freed.toNat + p.2.step % 2 ^ 32 * 2 ^ 32 })))

/-- A packet for a job that the module does not know (SHUTTLE_RECORD, SHUTTLE_CREDIT, SHUTTLE_REWIND, PIPE_MESSAGE,
PIPE_COMMIT_NOTICE) is discarded with a record. PIPE_MESSAGE: a pipeline message in one packet, of the step and direction
the channel expects, goes to its slot and counts as arrived; a message of another step or one that has arrived is discarded.
PIPE_COMMIT_NOTICE counts its step. Readings of the model: log entry 17. -/
def Obligations.PipelineArrivalsAndUnknownJobs : Prop :=
  (∀ (s : State) (h : PHdr) (data : List Byte), s.power.phase = .ready → s.fjob? h = none →
     let t := s.baroWrite 0x10 0 false [locW .coord h.src.toNat, codeW 0 2 0]
     exec (.shuttleRecord h data) s = .next t ∧ exec (.shuttleCredit h) s = .next t ∧ exec (.shuttleRewind h) s = .next t ∧
     exec (.pipeMessage h data) s = .next t ∧ exec (.pipeCommitNotice h) s = .next t) ∧
  (∀ (s : State) (h : PHdr) (j n : Nat) (b : Job) (c : Chan) (data : List Byte), s.power.phase = .ready →
     s.fjob? h = some (j, b) → s.job? j = some b → h.xt.toNat = n → b.chans[n]? = some c →
     let mb := h.tag.toNat / 2 ^ 32 % 2 ^ 10
     let now := h.tag.toNat % 2 ^ 32 = b.step % 2 ^ 32
     (now → (h.type = 0 ↔ c.down = true) → mb < c.nmb → mb ∉ c.arrived → h.tag.toNat / 2 ^ 42 % 2 ^ 18 = 0 →
       data.length ≤ c.slotsz → data ≠ [] → h.last = true → c.parts = [] → ∃ c', exec (.pipeMessage h data) s = .next
         ((s.jobPut b (c.ring + mb * c.slotsz) data).setJob j { b with chans := b.chans.set n c' }) ∧
         c'.arrived = c.arrived ++ [mb] ∧ c'.sent = c.sent ∧ c'.rcvd = c.rcvd ∧ c'.noticed = c.noticed) ∧
     (¬now ∨ mb ∈ c.arrived → exec (.pipeMessage h data) s = .next s) ∧
     exec (.pipeCommitNotice h) s = .next (s.setJob j { b with
       chans := b.chans.set n { c with
         noticed := max c.noticed ((h.tag.toNat + 2 ^ 32 - b.firstStep.toNat % 2 ^ 32) % 2 ^ 32 + 1) } }))

/-! ### Skein links -/

/-- FLIT_RECEIVE: a flit whose CRC is wrong is counted and asked for again, and nothing of it is taken; while it is awaited
every other flit is discarded, whatever it says; else one that is not the next in order only acknowledges; the next one in
order is taken, one of FTYPE 2 as link control. Corrected bytes are counted. LINK_REPLAY_REQUEST sends the kept flits again
from the named one on, in order, and changes nothing else. Readings of the model: log entries 16, 72, 112. -/
def Obligations.FlitsCheckedAndReplayed : Prop :=
  ∀ (s : State) (link : BitVec 6), s.power.phase = .ready →
    let n := link.toNat
    let l := s.link n
    (∀ (flit : List Byte) (fixed : List Nat),
      let seen := s.countFixes n fixed
      let f (o : Nat) : Nat := leNat ((flit.drop o).take 2)
      let ok := crc32 (flit.take 260) = leNat ((flit.drop 260).take 4)
      (l.up = false ∨ flit.length ≠ 272 → exec (.flitReceive link flit fixed) s = .next s) ∧
      (l.up = true → flit.length = 272 → ¬ok → exec (.flitReceive link flit fixed) s = .next (seen.badFlit n)) ∧
      (l.up = true → flit.length = 272 → ok →
        let l1 := seen.link n
        let s1 := seen.setLink n { l1 with unacked := l1.unacked.filter fun u => (BitVec.ofNat 12 (f 258) - u.1).msb }
        let inOrder := (f 256 / 2 ^ 12 = 0 ∨ f 256 / 2 ^ 12 = 2) ∧ BitVec.ofNat 12 (f 256) = l1.nextSeq
        (l1.awaiting = true → ¬inOrder → exec (.flitReceive link flit fixed) s = .next seen) ∧
        (l1.awaiting = false → ¬inOrder → exec (.flitReceive link flit fixed) s = .next s1) ∧
        (inOrder → f 256 / 2 ^ 12 = 2 → exec (.flitReceive link flit fixed) s = .next (s1.controlFlit n (flit.take 256))) ∧
        (inOrder → f 256 / 2 ^ 12 = 0 → exec (.flitReceive link flit fixed) s = .next (s1.goodFlit n (flit.take 256))))) ∧
    (∀ fseq : BitVec 12,
      (l.up = false → exec (.linkReplayRequest link fseq) s = .next s) ∧
      (l.up = true →
        let u := s.flushLink n
        exec (.linkReplayRequest link fseq) s = .next { u with
          out := u.out ++ ((u.link n).replay.dropWhile fun f => f.1 ≠ fseq).map fun f =>
            .linkFlit n (flitBytes (if f.2.1 = true then 2 else 0) f.1 ((u.link n).nextSeq - 1) f.2.2) }))

/-- LINK_FAIL, LANE_SPARE, LINK_RETRAIN and LINK_DISCOVERY by the state of the link: an UP link that fails goes DOWN with a
record, its flows go to the lowest UP link of its group, and what it had not delivered goes out there again in order, or,
where the group has no UP link, waits for the reroute; a lane whose corrections pass the threshold is spared, from a flit on
that a link-control flit names, a second one fails the link; a failed link is retrained once, or retired when its failures
within 24 hours reach RETIRE; discovery, in phase 7 of start-up as well, brings a link UP, on its spare lane where one of
its lanes is spared, or marks it MISWIRED. NEIGHBOUR_LOST of a direction that has no UP link marks the direction lost, so
that routes go the other way round, and what waited for it leaves; a job that uses the fabric and commits in steps then
needs a replay of its step, or ends with FABRIC_DOWN where a second break of the ring cuts its traffic off; one that does
not commit in steps ends. A direction with an UP link, or one already lost, changes nothing. Readings of the model: log
entries 7, 30, 72, 112. -/
def Obligations.LinkStateChanges : Prop :=
  ((∀ (s : State) (link : BitVec 6), s.power.phase = .ready →
     let n := link.toNat
     let l := s.link n
     (l.up = false → l.state ≠ 1 → exec (.linkFail link) s = .next s) ∧
     (l.up = true →
       let t := (s.setLink n { l.stopped 5 with
         fails := l.fails ++ [s.ns]
         tried := false }).linkRec (locW .link n) l.ncoord 1
       (t.upLinks (n / 6) = [] → exec (.linkFail link) s = .next { t with fabric := { t.fabric with
         stranded := t.fabric.stranded ++ (l.unacked.map (fun p => (p.2.1, p.2.2, none)) ++
           l.waiting.map fun x => (x.1, x.2.1, x.2.2.map (·.1))) } }) ∧
       (∀ m rest, t.upLinks (n / 6) = m :: rest →
         let u : State := { t with fabric := { t.fabric with
           via := t.fabric.via.map fun v => if v.2 = n + 1 then (v.1, m + 1) else v } }
         let sent := l.unacked.foldl (fun s p => s.transmit m p.2.1 p.2.2 none) u
         exec (.linkFail link) s = .next (l.waiting.foldl (fun s x => s.transmit m x.1 x.2.1 x.2.2) sent))) ∧
     (∀ lane : BitVec 3,
       (s.laneBad n lane.toNat = true → l.state = 2 → ∃ t, exec (.laneSpare link lane) s = .next t ∧ (t.link n).state = 3 ∧
         (t.link n).lstat.toNat / 2 ^ 25 % 16 = lane.toNat ∧
         .laneSwitch n lane.toNat (((s.flushLink n).link n).txSeq + 1) ∈ t.out ∧ t.mill.jobs = s.mill.jobs) ∧
       (s.laneBad n lane.toNat = false → exec (.laneSpare link lane) s = .next s) ∧
       (s.laneBad n lane.toNat = true → l.state = 3 → exec (.laneSpare link lane) s = exec (.linkFail link) s) ∧
       (l.state ≠ 2 → l.state ≠ 3 → exec (.laneSpare link lane) s = .next s)) ∧
     (∀ trained : Bool,
       (l.state ≠ 5 ∨ l.tried = true → exec (.linkRetrain link trained) s = .next s) ∧
       (l.state = 5 → l.tried = false → s.recentFails n < s.fabric.lcfg.toNat % 256 →
         exec (.linkRetrain link true) s = .next ((s.setLink n (l.setState 1)).linkRec (locW .link n) l.ncoord 3) ∧
         exec (.linkRetrain link false) s = .next (s.setLink n { l with tried := true })) ∧
       (l.state = 5 → l.tried = false → s.fabric.lcfg.toNat % 256 ≤ s.recentFails n →
         exec (.linkRetrain link trained) s = .next (((s.setLink n (l.setState 6)).repairNote (locW .link n)).baroWrite 0x06 3 true
           [locW .link n, codeW 0x09 (((s.setLink n (l.setState 6)).repairNote (locW .link n)).recentFails n) 0])))) ∧
   (∀ (s : State) (link : BitVec 6) (theirs : BitVec 32) (nlink : BitVec 6),
     s.power.phase = .ready ∨ (s.power.phase = .starting ∧ s.power.reached = 7) →
       let n := link.toNat
       let l := s.link n
       (l.state ≠ 1 → exec (.linkDiscovery link theirs nlink) s = .next s) ∧
       (l.state = 1 → ∃ (l' : Link) (t : State), exec (.linkDiscovery link theirs nlink) s = .next t ∧
         l'.lstat = (l.lstat &&& 0xFF00000F) ||| BitVec.ofNat 32 (theirs.toNat % 2 ^ 14 * 2 ^ 10 + nlink.toNat * 2 ^ 4) ∧
         t.out.take (s.out.length + 1) = s.out ++ [.linkCtl n s.fabric.cinuse n] ∧
         (s.wired n theirs.toNat nlink.toNat = true → s.fabric.stranded = [] →
           t.fabric.links = s.fabric.links.set n (l'.setState (if l.lstat.toNat / 2 ^ 25 % 16 = 15 then 2 else 3)) {} ∧
           t.fabric.lost = s.fabric.lost &&& ~~~(1#8 <<< (n / 6)) ∧
           t.fabric.via = s.fabric.via.filter (fun v => (v.2 - 1) / 6 ≠ n / 6) ∧ t.mem = s.mem) ∧
         (s.wired n theirs.toNat nlink.toNat = false → t.fabric.links = s.fabric.links.set n (l'.setState 4) {} ∧
           t.fabric.lost = s.fabric.lost)))) ∧
  (∀ (s : State) (g : BitVec 3) (other : Option Nat), s.power.phase = .ready → 1 < sizeIn s.fabric.cinuse.toNat (g.toNat / 2) →
     (s.upLinks g.toNat ≠ [] ∨ s.fabric.lost.getLsbD g.toNat = true → exec (.neighbourLost ⟨g, other⟩) s = .next s) ∧
     (s.upLinks g.toNat = [] → s.fabric.lost.getLsbD g.toNat = false →
       let lost := s.fabric.lost ||| (1#8 <<< g.toNat)
       let u := State.release { s with fabric := { s.fabric with lost := lost } }
       ((∀ p ∈ u.mill.jobs, p.2.fjob = 0) → exec (.neighbourLost ⟨g, other⟩) s = .next u) ∧
       (∀ j b, u.mill.jobs = [(j, b)] → b.fjob ≠ 0 → b.st = .resident → b.endWith = none →
         (b.steps = true → b.fault = none → lost.getLsbD (g.toNat ^^^ 1) = false → other = none →
           exec (.neighbourLost ⟨g, other⟩) s = .next (u.setJob j { b with
             fault := some (0x66, 0)
             causes := b.causes ++ [(0x66, 0)] })) ∧
         (∀ k, other = some k → u.cutOff b (g.toNat / 2) (u.breakOf g.toNat) k = true →
           exec (.neighbourLost ⟨g, other⟩) s = .next (u.fabricDown j b)) ∧
         (b.steps = false → exec (.neighbourLost ⟨g, other⟩) s = .next (u.fabricDown j b)))))

/-! ### Collectives -/

/-- COLLECTIVE_START begins the flight of an entry that may start with the codes of SRC, opens its first phase and goes as
far as the accepted contributions let it; an entry that may not start, or that the job does not have, changes nothing.
COLLECTIVE_END of a flight whose phases are done and whose contributions are acknowledged writes what the entry gives this
module into DST and ends the flight. Readings of the model: log entry 33. -/
def Obligations.CollectiveFlights : Prop :=
  ∀ (s : State) (j : Nat) (b : Job) (entry : BitVec 6), s.power.phase = .ready → s.job? j = some b →
    let e := entry.toNat
    (b.cols.length ≤ e → exec (.collectiveStart j entry .none) s = .next s) ∧
    (∀ c, b.cols[e]? = some c → (∀ f ∈ b.flights, f.adding = false) →
      let gs := s.colStages c
      let f : Flight :=
        { entry := e
          step := if c.post then b.step - 1 else b.step
          buf := startBuf c gs (s.srcCodes b c)
          adding := decide (c.op = 4) }
      let u := s.setJob j { b with flights := b.flights ++ [f] }
      (s.mayStart j b e c = false → exec (.collectiveStart j entry .none) s = .next s) ∧
      (s.mayStart j b e c = true → c.op ≠ 4 →
        exec (.collectiveStart j entry .none) s = .next ((u.openPhase j c gs f).advance j e ringFuel)) ∧
      (s.mayStart j b e c = true → c.op = 4 → exec (.collectiveStart j entry .none) s = .next (u.scatter b c gs f))) ∧
    (∀ c f, b.cols[e]? = some c → b.flights.find? (fun f => f.entry = e && !f.done) = some f → f.adding = false →
      (colPhases c.op (s.colStages c).length).length ≤ f.phase →
      (∀ x ∈ b.sent, bitsOf x.tag 32 6 = e → x.acked = true) → c.hdr = 0 →
      exec (.collectiveEnd j entry) s = .next (((s.jobPuts b ((colWrites c (s.colStages c) f).map fun i =>
        (c.dst + c.code * i, leBytes c.code (f.buf.getD i 0)))).setJob j (b.setFlight { f with
          done := true
          buf := [] })).reap)) ∧
    (∀ c f, b.cols[e]? = some c → b.flights.find? (fun f => f.entry = e && !f.done) = some f →
      f.phase < (colPhases c.op (s.colStages c).length).length → exec (.collectiveEnd j entry) s = .next s)

/-- Arriving contributions of a job the module knows. COLLECTIVE_DATA: a data packet is kept by its offset.
CONTRIBUTION_DIGEST: a digest that agrees accepts the contribution and acknowledges it, one that does not discards its data
and asks for it again; what is already accepted is discarded. COLLECTIVE_ACK marks acknowledged the contribution that its
tag names, by the job's low ten bits and the contribution's name, sent to the module that answers; the first RESEND of one
sends it again unchanged; SCATTER_ADD: a unit of a scatter-add is added into DST; each changes nothing where it names
nothing. Readings of the model: log entries 32, 33, 36. -/
def Obligations.ContributionsCheckedByDigest : Prop :=
  (∀ (s : State) (h : PHdr) (j : Nat) (b : Job) (data : List Byte) (dig : BitVec 128), s.power.phase = .ready →
     s.fjob? h = some (j, b) →
     (b.open_ h = false → exec (.collectiveData h data) s = .next s ∧ exec (.contributionDigest h dig .none) s = .next s) ∧
     (b.open_ h = true →
       let c := b.con h
       exec (.collectiveData h data) s = .next (s.setJob j (b.setCon { c with
         src := h.src.toNat
         data := c.data.set (h.tag.toNat / 2 ^ 46) data [] })) ∧
       (conDigest c.tag h.src.toNat (c.data.flatMap (·.2)) = dig → exec (.contributionDigest h dig .none) s =
         .next (((s.setJob j (b.setCon { c with
           src := h.src.toNat
           accepted := true })).answerCon b h 1).advance j (h.tag.toNat / 2 ^ 32 % 2 ^ 6) ringFuel)) ∧
       (conDigest c.tag h.src.toNat (c.data.flatMap (·.2)) ≠ dig → c.fails = 0 → exec (.contributionDigest h dig .none) s =
         .next ((s.setJob j (b.setCon { c with
           data := []
           fails := 1 })).answerCon b h 2)))) ∧
  (∀ (s : State) (h : PHdr), s.power.phase = .ready →
     (s.named h = none → exec (.collectiveAck h) s = .next s ∧ exec (.resend h) s = .next s) ∧
     (∀ j b c, s.named h = some (j, b, c) →
       (b.fjob ≠ 0 ∧ b.fjob % 2 ^ 10 = h.tag.toNat / 2 ^ 54 ∧ c ∈ b.sent ∧ c.tag = h.tag.toNat / 2 ^ 8 % 2 ^ 46 ∧
         c.peer.toNat = h.src.toNat % 2 ^ 14) ∧
       exec (.collectiveAck h) s = .next (s.setJob j { b with
         sent := b.sent.map fun x => if x.tag = c.tag then { x with acked := true } else x }) ∧
       (c.acked = true → exec (.resend h) s = .next s) ∧
       (c.acked = false → c.fails = 0 →
         let u := s.setJob j { b with sent := b.sent.map fun x => if x.tag = c.tag then { x with fails := 1 } else x }
         exec (.resend h) s =
           .next ((conPackets c.peer b.fjob u.coord.toNat c.tag c.data).foldl (fun s x => s.sendDir c.dir x) u))) ∧
     (∀ j b, s.fjob? h = some (j, b) →
       (∀ (data : List Byte) c, b.cols[h.tag.toNat / 2 ^ 32 % 2 ^ 6]? = some c → c.op = 4 → data.length = 64 →
         b.wants (h.tag.toNat % 2 ^ 38) = true → exec (.scatterAdd h data) s =
           .next (s.addUnit b c (h.tag.toNat / 2 ^ 38 % 2 ^ 26) (codesOf 4 16 data))) ∧
       (∀ (data : List Byte) c, b.cols[h.tag.toNat / 2 ^ 32 % 2 ^ 6]? = some c → c.op ≠ 4 ∨ data.length ≠ 64 →
         exec (.scatterAdd h data) s = .next s)))

/-! ### Fabric time -/

/-- FABRIC_SYNC: a module that takes fabric time follows the UP link with the smallest DIST, one further from the root than
its parent; a SYNC on another link is only kept. FABRIC_HOLDOVER is taken when no link advertises a root. DELAY_MEASURE asks
the parent, a DELAY_REQ is answered with the time of its arrival, a DELAY_RESP sets the delay, and FABRIC_SYNC_SEND sends
one SYNC on each UP link. Readings of the model: log entry 31. -/
def Obligations.FabricTimeFollowsParent : Prop :=
  ∀ (s : State) (link : BitVec 6) (tag : Word), s.power.phase = .ready →
    let n := link.toNat
    let l := s.link n
    let late := diff56 s.ns (tag.toNat % 2 ^ 56)
    let u := s.setLink n { l with sync := some (tag.toNat / 2 ^ 56, late) }
    (l.up = false → exec (.fabricSync link tag) s = .next s ∧ exec (.delayReq link tag) s = .next s) ∧
    (l.up = true → s.takesFabric = false → exec (.fabricSync link tag) s = .next u) ∧
    (l.up = true → s.takesFabric = true → ∀ p, u.parent = some p →
      (p.1 ≠ n → exec (.fabricSync link tag) s = .next (u.setSource 1 (min 255 (p.2 + 1)) p.1)) ∧
      (p.1 = n → exec (.fabricSync link tag) s =
        .next ((u.setSource 1 (min 255 (p.2 + 1)) n).slew (late - (l.delay : Int))))) ∧
    (l.up = true → exec (.delayReq link tag) s = .next (s.timePacket n 2 s.ns)) ∧
    (∀ x, l.up = true → l.sync = some x → exec (.delayResp link tag) s =
      .next (s.setLink n { l with delay := ((x.2 + diff56 tag.toNat l.reqAt) / 2).toNat })) ∧
    (l.up = false ∨ l.sync = none → exec (.delayResp link tag) s = .next s) ∧
    (∀ p, s.takesFabric = true → s.parent = some p → exec .delayMeasure s =
      .next ((s.setLink p.1 { s.link p.1 with reqAt := s.ns }).timePacket p.1 1 s.ns)) ∧
    (s.takesFabric = false ∨ s.parent = none → exec .delayMeasure s = .next s) ∧
    (s.takesFabric = true → s.timeState = 1 → s.parent = none → exec .fabricHoldover s = .next (s.setSource 2 255 s.plink)) ∧
    (s.takesFabric = false ∨ s.timeState ≠ 1 ∨ s.parent.isSome = true → exec .fabricHoldover s = .next s) ∧
    exec .fabricSyncSend s = .next (((List.range 48).filter fun n => (s.link n).up).foldl
      (fun t n => t.timePacket n 0 (s.dist * 2 ^ 56 + s.ns % 2 ^ 56)) s)

/-! ### Memory -/

/-- HBM_REQUEST of a unit that the stack holds: a store writes its 64 bytes and no other byte of a canonical memory, and
heals the poison it covers; a load hands the unit out and changes nothing else. A unit beyond the stack does nothing.
ATOMIC_FP32_ADD, ATOMIC_FP32_MAX (of non-negative values), ATOMIC_U64_ADD (modulo 2^64) and ATOMIC_BYTE_OR at an aligned
place of a memory that performs them: only the operand's bytes change; a misaligned operand changes nothing, nor does a
place in host memory. Readings of the model: log entries 39, 87. -/
def Obligations.MemoryRequestsServed : Prop :=
  (∀ (s : State) (stack : BitVec 4) (unit : BitVec 30), s.power.phase = .ready →
     let k := keyOf 1 (stack.toNat * 2 ^ 36 + unit.toNat * 64)
     (22888 * 32768 ≤ unit.toNat → ∀ st, exec (.hbmRequest stack unit st) s = .next s) ∧
     (unit.toNat < 22888 * 32768 →
       (exec (.hbmRequest stack unit none) s = .next (s.emit
         (.rowData k (BitVec.ofNat 512 (s.natAt k 64)) (s.poison.any fun u => u / 64 = k / 64)))) ∧
       (∀ v : Line, Mem.wf s.mem = true → ∃ m, exec (.hbmRequest stack unit (some v)) s = .next { s with
           mem := m
           poison := s.healedAt k 64 } ∧
         (∀ j, j < 64 → Mem.get m (k + j) = v.extractLsb' (8 * j) 8) ∧
         (∀ a, a < k ∨ k + 64 ≤ a → Mem.get m a = Mem.get s.mem a)))) ∧
  (∀ (s : State) (a : Nat), Mem.wf s.mem = true →
     (∀ v : BitVec 32, s.atomicPlace a 4 = true → Mem.nat s.mem a 4 ≤ 0x7F800000 → v.toNat ≤ 0x7F800000 →
       exec (.atomicFp32Max a v) s = .next { s with
         mem := Mem.setNat s.mem a 4 (max (Mem.nat s.mem a 4) v.toNat) }) ∧
     (∀ v : BitVec 32, s.atomicPlace a 4 = true → exec (.atomicFp32Add a v) s = .next { s with
         mem := Mem.setNat s.mem a 4 (f32Add (BitVec.ofNat 32 (Mem.nat s.mem a 4)) v).toNat }) ∧
     (∀ v : Word, s.atomicPlace a 8 = true → exec (.atomicU64Add a v) s = .next { s with
         mem := Mem.setNat s.mem a 8 ((Mem.nat s.mem a 8 + v.toNat) % 2 ^ 64) }) ∧
     (∀ v : Byte, s.atomicPlace a 1 = true → ∃ t, exec (.atomicByteOr a v) s = .next t ∧
       Mem.get t.mem a = Mem.get s.mem a ||| v ∧ ∀ b, b ≠ a → Mem.get t.mem b = Mem.get s.mem b) ∧
     (∀ (v : BitVec 32) (x : Word) (y : Byte), (a % 4 ≠ 0 → exec (.atomicFp32Add a v) s = .next s ∧ exec (.atomicFp32Max a v) s = .next s) ∧
       (a % 8 ≠ 0 → exec (.atomicU64Add a x) s = .next s) ∧
       (spaceOf a = 0 → exec (.atomicByteOr a y) s = .next s ∧ exec (.atomicU64Add a x) s = .next s)))

/-- A residue check finds an error in a value, a shift or a log add exactly when it is no multiple of 7; a group that fails
once is formed again, and fails for good where that error is found too; an error in the residue bits is found. Of a store
word, one flipped bit is corrected, two are found, and what passes beyond that has an error that its carried residue agrees
with. PATROL_SCRUB of a clean word changes nothing; a corrected error is counted for its row, and nothing else happens
before the third within 24 hours; an uncorrectable one poisons its unit and takes a spare row, with a record. Of CXL memory
it hears a poison indication alone (log entry 111). CXL_PORT_LOST: a port that is lost is recorded, and a started operation
that reads it gets poisoned data (log entry 87). CXL_RETRAIN: the port returns only when retraining finds every expander
again with its serial number and capacity, and is given up where another serial number appears. CXL_GIVE_UP: it is given up
after 600 s, where no page lies on it with nothing but the record. A port given up stays so. Readings of the model: log
entries 37, 38, 87, 111. -/
def Obligations.ScrubbingAndCxlPorts : Prop :=
  ((∀ v d : Int, mismatch v d = true ↔ d % 7 ≠ 0) ∧
   (∀ (at_ len : Nat) (d again v : Int), groupFails (.value at_ len d again) v =
     if d % 7 = 0 then 0 else if again % 7 = 0 then 1 else 2) ∧
   (∀ (at_ len m : Nat) (x y cut v : Int) (again : Bool), groupFails (.shift at_ len x y cut m again) v =
     if (y * 2 ^ m + cut - x) % 7 = 0 then 0 else if again then 2 else 1) ∧
   (∀ (at_ len : Nat) (larger w slope sum v : Int) (again : Bool), groupFails (.logAdd at_ len larger w slope sum again) v =
     if (sum - (larger + w + slope)) % 7 = 0 then 0 else if again then 2 else 1) ∧
   (∀ (again : Bool) (v : Int), groupFails (.bits again) v = if again then 2 else 1) ∧
   (∀ (w : BitVec 19) (e flips : Nat) (d v : Int) (res : BitVec 3) (again : Bool),
     let u := Upset.store w e flips d res again
     (flips = 1 → storeOutcome u v = (0, 0) ∧ storeCorrects u = some w.toNat) ∧
     (flips ≠ 1 → storeCorrects u = none) ∧
     (flips = 2 → storeOutcome u v = (if again then 2 else 1, 0)) ∧
     (3 ≤ flips → storeOutcome u v = if (d - res.toNat) % 7 = 0 then (0, d) else (if again then 2 else 1, 0)))) ∧
  (∀ (s : State) (a : Nat), s.power.phase = .ready →
     let row := a / 64 * 64
     let live := (s.rowErr.filter fun r => s.ns < r.2 + dayNs) ++ [(row, s.ns)]
     let here := spaceOf a = 1 ∨ spaceOf a = 3 ∨ spaceOf a = 4
     exec (.patrolScrub a .clean) s = .next s ∧
     (spaceOf a = 2 → exec (.patrolScrub a .corrected) s = .next s ∧ ∃ t, exec (.patrolScrub a .uncorrectable) s = .next t ∧
       (poisonUnit a).1 ∈ t.poison ∧ t.mem = s.mem ∧ t.spares = s.spares ∧ t.mill = s.mill) ∧
     (here → (live.filter fun r => r.1 = row).length < 3 →
       exec (.patrolScrub a .corrected) s = .next { s with rowErr := live }) ∧
     (here → s.spares.get (sparesOf a).1 0 < (sparesOf a).2 → ∃ t, exec (.patrolScrub a .uncorrectable) s = .next t ∧
       (poisonUnit a).1 ∈ t.poison ∧ t.spares = s.spares.set (sparesOf a).1 (s.spares.get (sparesOf a).1 0 + 1) 0 ∧
       (∀ r ∈ t.rowErr, r.1 ≠ row) ∧ t.spindles = s.spindles ∧ t.mill.jobs = s.mill.jobs ∧ t.retired = s.retired ∧
       (s.core0 = true → s.weak = [] → t.baro.next = s.baro.next + 1 ∨ t.baro.next = s.baro.next + 2))) ∧
  (∀ (s : State) (port : Bool) (ids : List (Word × Word)), s.power.phase = .ready →
     let p := if port then 1 else 0
     let x := s.port p
     (x.ids ≠ [] → x.lost = false → x.givenUp = false →
       let u := s.mapSpns fun _ y => { y with running := y.running.map fun r => (r.1, s.portFault p r.2) }
       exec (.cxlPortLost port) s = .next ((u.setPort p { x with
         lost := true
         since := s.ns
         triedAt := s.ns }).portRec p 4)) ∧
     (∀ (r : ROp) (b : Job), s.job? r.q.job = some b →
       (s.readsPort b p r.q = none → s.portFault p r = r) ∧
       (∀ a, r.code = 0 → s.readsPort b p r.q = some a →
         (s.portFault p r).code = 0x40 ∧ (s.portFault p r).writes = [] ∧ (s.portFault p r).addr = a)) ∧
     (x.lost = true ∨ x.givenUp = true → exec (.cxlPortLost port) s = .next s) ∧
     (x.lost = true → x.givenUp = false → x.triedAt + 10 ^ 10 ≤ s.ns →
       exec (.cxlRetrain port false ids) s = .next (s.setPort p { x with triedAt := s.ns }) ∧
       (ids = x.ids → ids ≠ [] → ∃ t, exec (.cxlRetrain port true ids) s = .next t ∧ t.spindles = s.spindles ∧ t.mill.jobs = s.mill.jobs ∧
         (t.port p).lost = false ∧ (t.port p).ids = x.ids) ∧
       (ids ≠ x.ids → (∀ i ∈ ids, i.1 ∈ x.ids.map (·.1)) →
         exec (.cxlRetrain port true ids) s = .next (s.setPort p { x with triedAt := s.ns })) ∧
       (∀ i ∈ ids, i.1 ∉ x.ids.map (·.1) → ∃ t, exec (.cxlRetrain port true ids) s = .next t ∧ (t.port p).givenUp = true)) ∧
     (x.lost = false ∨ x.givenUp = true ∨ s.ns < x.triedAt + 10 ^ 10 → exec (.cxlRetrain port true ids) s = .next s) ∧
     (x.lost = true → x.givenUp = false → x.since + 600 * 10 ^ 9 ≤ s.ns →
       (∀ q ∈ s.mill.jobs, ∀ e ∈ q.2.pages ++ q.2.creelMap, onPort p e.2 = false) →
       exec (.cxlGiveUp port) s = .next ((s.setPort p { x with givenUp := true }).portRec p 6)) ∧
     (x.lost = false ∨ x.givenUp = true ∨ s.ns < x.since + 600 * 10 ^ 9 → exec (.cxlGiveUp port) s = .next s))

/-! ### Reliability -/

/-- SPOT_TEST_DUE: a test that is due starts at a pass boundary where a twin is there, else it waits and the time is noted;
SPOT_TEST_DEFER_EXPIRY: after DEFER a waiting one is forced; SPOT_TEST_RETRY: a retry starts once its time has come; a site
that is not testable is left alone. A test that starts is counted and entered, and its site waits no more. Readings of the
model: log entries 41, 86. -/
def Obligations.SpotTestsStart : Prop :=
  ∀ (s : State) (site : BitVec 9), s.power.phase = .ready → site.toNat < 288 →
    let p := site.toNat
    (s.testable p = false ∨ s.testDue p = false → exec (.spotTestDue site) s = .next s) ∧
    (s.testable p = true → s.testDue p = true →
      (∀ q, s.boundary p = true → s.twinOf p false = some q →
        exec (.spotTestDue site) s = .next (s.startTest { site := p, twin := q, start := s.ns })) ∧
      (s.boundary p = false ∨ s.twinOf p false = none → (∀ d ∈ s.mill.due, d.1 ≠ p) →
        exec (.spotTestDue site) s = .next { s with mill := { s.mill with due := s.mill.due ++ [(p, s.ns)] } })) ∧
    (s.testable p = true → s.mill.due.any (fun d => d.1 = p && decide (d.2 + s.spotTimes.2 ≤ s.ns)) = true →
      s.seated p = none → ∀ q, s.twinOf p true = some q →
      exec (.spotTestDeferExpiry site) s = .next (s.startTest { site := p, twin := q, start := s.ns })) ∧
    (s.testable p = true → s.mill.due.any (fun d => d.1 = p && decide (d.2 + s.spotTimes.2 ≤ s.ns)) = true →
      s.quietSite p = false → (∃ x, s.forcedTest p = some x) →
      exec (.spotTestDeferExpiry site) s = .next { s with mill := { s.mill with holds := p :: s.mill.holds.filter (· ≠ p) } }) ∧
    (∀ l, s.workSite l ∈ s.mill.holds → s.testing l = true) ∧
    (s.mill.due.any (fun d => d.1 = p && decide (d.2 + s.spotTimes.2 ≤ s.ns)) = false →
      exec (.spotTestDeferExpiry site) s = .next s) ∧
    (s.testable p = true → s.mill.retests.any (fun r => r.1 = p && decide (r.2 ≤ s.ns)) = true → ∀ q, s.boundary p = true →
      s.twinOf p false = some q →
      exec (.spotTestRetry site) s = .next (s.startTest { site := p, twin := q, start := s.ns })) ∧
    (s.mill.retests.any (fun r => r.1 = p && decide (r.2 ≤ s.ns)) = false → exec (.spotTestRetry site) s = .next s) ∧
    (∀ t : Spot, (s.startTest t).mill.spots = s.mill.spots ++ [t] ∧ (s.startTest t).mill.spotCount = s.mill.spotCount + 1 ∧
      (∀ d ∈ (s.startTest t).mill.due, d.1 ≠ t.site) ∧ (∀ q ∈ (s.startTest t).mill.holds, q ≠ t.site) ∧ (s.startTest t).mem = s.mem ∧ (s.startTest t).spindles = s.spindles)

/-- SPOT_TEST_COMPLETE: before 4 ms nothing; each round is counted, and counted again where its digests differ; two digests
that agree pass the test; two that differ call a third site, and where none is free no site has lost; in a vote the site
whose digest stands alone loses, and no site loses when all differ. The tests that a twin mismatch asked for come after it.
TWIN_SAMPLE_COMPARE takes the sample away: one whose units have changed is abandoned and counted so, one that agrees is
counted, and one that differs is a mismatch. Readings of the model: log entries 40, 41. -/
def Obligations.VotesAndTwinSamples : Prop :=
  ((∀ (s : State) (site : BitVec 9) (t : Spot) (d1 d2 d3 : BitVec 128), s.power.phase = .ready →
     s.mill.spots.find? (fun t => t.site = site.toNat) = some t →
     (s.ns < t.start + 4000000 → exec (.spotTestComplete site d1 d2 d3) s = .next s) ∧
     (t.start + 4000000 ≤ s.ns → (t.sites ++ t.loan.toList).all s.quietSite = true →
       let u : State := { s with mill := { s.mill with rstat1 := countUp s.mill.rstat1 true } }
       let v : State := { u with mill := { u.mill with rstat1 := countUp u.mill.rstat1 false } }
       (t.third = none → d1 = d2 → exec (.spotTestComplete site d1 d2 d3) s = .next ((u.endTest t).passTest t).startTwinTests) ∧
       (t.third = none → d1 ≠ d2 →
         (v.thirdSite t = none → exec (.spotTestComplete site d1 d2 d3) s = .next ((v.endTest t).noLoser t noLoc).startTwinTests) ∧
         (∀ r, v.thirdSite t = some r → s.mill.twinTests = [] → ∃ x, exec (.spotTestComplete site d1 d2 d3) s = .next x ∧
           x.mill.spotCount = s.mill.spotCount + 1 ∧ x.mill.rstat1 = v.mill.rstat1 ∧
           x.mill.spots = s.mill.spots.erase t ++ [{ t with
             third := some r
             start := s.ns }])) ∧
       (∀ r, t.third = some r → exec (.spotTestComplete site d1 d2 d3) s =
         .next ((if d1 = d2 ∧ d2 = d3 then u else v).vote t r d1 d2 d3).startTwinTests))) ∧
   (∀ s : State, s.mill.twinTests = [] → s.startTwinTests = s) ∧
   (∀ (t : Spot) (r : Nat) (a b : BitVec 128), a ≠ b →
     voteLoser t r a a b = some r ∧ voteLoser t r a b a = some t.twin ∧ voteLoser t r b a a = some t.site ∧
     voteLoser t r a a a = none ∧ (∀ c, c ≠ a → c ≠ b → voteLoser t r a b c = none))) ∧
  (∀ (s : State) (n : Nat) (t : Twin) (dig : BitVec 128), s.power.phase = .ready →
     s.mill.twins.find? (fun t => t.num = n) = some t →
     let u (kept : Bool) : State := { s with
       mill := { s.mill with
         twins := s.mill.twins.erase t
         rstat2 := countUp s.mill.rstat2 kept } }
     (s.unchanged t = false → exec (.twinSampleCompare n dig) s = .next (u false)) ∧
     (s.unchanged t = true → dig = t.dig → exec (.twinSampleCompare n dig) s = .next (u true)) ∧
     (s.unchanged t = true → dig ≠ t.dig → exec (.twinSampleCompare n dig) s = .next ((u true).twinMismatch t)))

/-- COMMAND_CORE_FAIL takes the core out of service; the failure of core 0 leaves no core that writes records or the bank,
and the mill accepts no job from then on; a core already gone changes nothing. -/
def Obligations.CommandCoreLoss : Prop :=
  ∀ (s : State) (core : BitVec 3), s.power.phase = .ready →
    (s.mill.cores.getLsbD core.toNat = false → exec (.commandCoreFail core) s = .next s) ∧
    (s.mill.cores.getLsbD core.toNat = true → ∃ t, exec (.commandCoreFail core) s = .next t ∧
      t.mill.cores = s.mill.cores &&& ~~~(1#8 <<< core.toNat) ∧ t.spindles = s.spindles ∧ t.mill.jobs = s.mill.jobs ∧
      (core = 0 → t.mill.accepting = false ∧ t.baro = s.baro ∧ t.mem = s.mem ∧ t.out = s.out ++ [.mgmtFail 0]) ∧
      (core ≠ 0 → t.mill.accepting = s.mill.accepting ∧ t.out = s.out)) ∧
    (s.mill.accepting = false → ∀ (client : BitVec 8) (ref : Word) (entry : Line),
      exec (.submit client ref entry) s = .next s)

/-! ### Sessions -/

/-- OPEN_REQ is answered with a challenge that draws a new identifier and nonce, with BUSY while eight sessions are open,
and turned away for an empty or barred credential (log entry 54). OPEN_PROOF spends its challenge: the right proof opens a
session with the session key, a wrong one is counted, and over Ethernet one from another address or port has no effect
(R566). SESSION_CHALLENGE_EXPIRY ends a challenge after 5 s, SESSION_IDLE_TIMEOUT an idle session after 300 s,
CREDENTIAL_BAR_EXPIRY a bar at its time. -/
def Obligations.SessionsOpenAndExpire : Prop :=
  (∀ (s : State) (p : Peer) (cred : BitVec 8) (nc : BitVec 256),
    (s.carries p.tr = false → exec (.openReq p cred nc) s = .next s) ∧
    (s.carries p.tr = true → 8 ≤ s.sec.sessions.length → exec (.openReq p cred nc) s = .next (s.respond p (.busy p.tr))) ∧
    (s.carries p.tr = true → s.sec.sessions.length < 8 → s.credRole cred.toNat = 0 ∨ s.barred cred.toNat = true →
      exec (.openReq p cred nc) s = .next (s.respond p (.denied p.tr))) ∧
    (s.carries p.tr = true → s.sec.sessions.length < 8 → s.credRole cred.toNat ≠ 0 → s.barred cred.toNat = false →
      let u := s.newSid.2.draw.2
      let c : Chal := { sid := s.newSid.1, cred := cred.toNat, nc := nc, nd := s.newSid.2.draw.1.truncate 256, tr := p.tr, src := p.src, at_ := s.ns }
      exec (.openReq p cred nc) s = .next
        (({ u with sec := { u.sec with chals := u.sec.chals ++ [c] } }).respond p
          (.chal p.tr c.sid c.nd (s.credSalt cred.toNat).1 (s.credSalt cred.toNat).2)))) ∧
  (∀ (s : State) (sid : BitVec 32) (mac : BitVec 512) (a : Src) (c : Chal), s.sec.chals.find? (fun c => c.sid = sid) = some c →
    s.carries c.tr = true →
    let u : State := { s with sec := { s.sec with chals := s.sec.chals.erase c } }
    let k := s.credKey c.cred
    let x : Session :=
      { sid := sid, cred := c.cred, role := s.credRole c.cred, key := BitVec.ofNat 512 (leNat (hmac512 k (c.msg skeyLabel)))
        tr := c.tr, src := a, rxSeq := none, txSeq := 0, last := s.ns }
    (c.tr = .ethernet → a.ip ≠ c.src.ip ∨ a.port ≠ c.src.port → exec (.openProof sid ⟨mac, a⟩) s = .next s) ∧
    (c.at_ + 5 * 10 ^ 9 ≤ s.ns → exec (.openProof sid ⟨mac, a⟩) s = .next s) ∧
    ((c.tr = .ethernet → a.ip = c.src.ip ∧ a.port = c.src.port) → s.ns < c.at_ + 5 * 10 ^ 9 → s.credRole c.cred ≠ 0 → s.barred c.cred = false →
      (hmac512 k (c.msg openLabel) ≠ leBytes 64 mac.toNat →
        exec (.openProof sid ⟨mac, a⟩) s = .next ((u.wrongProof c).respond ⟨c.tr, a⟩ (.denied c.tr))) ∧
      (hmac512 k (c.msg openLabel) = leBytes 64 mac.toNat → s.sec.sessions.length < 8 →
        exec (.openProof sid ⟨mac, a⟩) s = .next (({ u with sec := { u.sec with sessions := u.sec.sessions ++ [x] } }).respond ⟨c.tr, a⟩
          (.ack c.tr sid (hmac512 k (c.msg ackLabel)) x.role))))) ∧
  (∀ (s : State) (sid : BitVec 32) (cred : BitVec 8), ∃ a b d,
    exec (.sessionChallengeExpiry sid) s = .next a ∧ exec (.sessionIdleTimeout sid) s = .next b ∧
    exec (.credentialBarExpiry cred) s = .next d ∧
    (∀ c, c ∈ a.sec.chals ↔ c ∈ s.sec.chals ∧ (c.sid = sid → s.ns < c.at_ + 5 * 10 ^ 9)) ∧ a.sec.sessions = s.sec.sessions ∧
    (∀ x, x ∈ b.sec.sessions ↔ x ∈ s.sec.sessions ∧ (x.sid = sid → s.ns < x.last + 300 * 10 ^ 9)) ∧
    b.sec.chals = s.sec.chals ∧
    (∀ w, w ∈ d.sec.bars ↔ w ∈ s.sec.bars ∧ (w.1 = cred.toNat → s.ns < w.2)) ∧ d.sec.sessions = s.sec.sessions)

/-- A message of an open session whose tag is right, whose sequence number rises and whose body is its code and what it
carries, has its effect and one answer under the next sequence number of the module, if its role allows it; else it is
answered DENIED: REG_READ and BARO_READ for every role, BARO_CLEAR for the auditor, JOB_CMD and JOB_DONE for operator and
owner, REG_WRITE, CRED_SET, CRED_DEL, BIND, MEAS_EXTEND and ARB_COMMIT for the owner. A message of no open session, or whose
body says something else, changes nothing. CLOSE ends the session. Readings of the model: log entries 42, 43, 44. -/
def Obligations.SessionMessagesTakeEffect : Prop :=
  ∀ (s : State) (m : Msg), s.power.phase = .ready →
    let spells (code : Nat) (ops : List Byte) : Prop := m.body = BitVec.ofNat 8 code :: ops
    (∀ r v fails, s.session? m = none ∨ ¬ spells 0x11 (regName r ++ leBytes 8 v.toNat) → exec (.regWrite m r v fails) s = .next s) ∧
    (∀ r, s.session? m = none ∨ ¬ spells 0x10 (regName r) → exec (.regRead m r) s = .next s) ∧
    (∀ v : Word, (s.session? m = none ∨ ¬ spells 0x12 (leBytes 8 v.toNat) → exec (.baroRead m v) s = .next s) ∧
      (s.session? m = none ∨ ¬ spells 0x13 (leBytes 8 v.toNat) → exec (.baroClear m v) s = .next s)) ∧
    (∀ e : Line, s.session? m = none ∨ ¬ spells 0x20 (leBytes 64 e.toNat) → exec (.jobCmd m e) s = .next s) ∧
    (∀ (i : BitVec 8) (e : BitVec 1024) (v : Word),
      (s.session? m = none ∨ ¬ spells 0x30 (leBytes 1 i.toNat ++ leBytes 128 e.toNat) → exec (.credSet m i e) s = .next s) ∧
      (s.session? m = none ∨ ¬ spells 0x31 (leBytes 1 i.toNat) → exec (.credDel m i) s = .next s) ∧
      (s.session? m = none ∨ ¬ spells 0x32 (leBytes 1 i.toNat ++ leBytes 8 v.toNat) → exec (.bind m i v) s = .next s)) ∧
    (∀ (n : BitVec 4) (d : BitVec 512), s.session? m = none ∨ ¬ spells 0x42 (leBytes 1 n.toNat ++ leBytes 64 d.toNat) →
      exec (.measExtend m n d) s = .next s) ∧
    (s.session? m = none ∨ ¬ spells 0x01 [] → exec (.close m) s = .next s) ∧
    (s.session? m = none ∨ ¬ spells 0x21 [] → exec (.jobDone m) s = .next s) ∧
    (s.session? m = none ∨ ¬ spells 0x41 [] → exec (.arbCommit m) s = .next s) ∧
    (∀ x0, s.session? m = some x0 →
      let x : Session := { x0 with rxSeq := some m.seq, last := s.ns, src := m.src }
      let u := s.setSession x
      let denied := Host.Outcome.next (u.answer x .denied)
      (spells 0x01 [] →
        exec (.close m) s = .next { s with sec := { s.sec with sessions := s.sec.sessions.filter fun y => y.sid ≠ x0.sid } }) ∧
      (∀ r, spells 0x10 (regName r) → x0.role = 1 ∨ x0.role = 2 ∨ x0.role = 3 →
        exec (.regRead m r) s = .next (u.answer x (if r.readable then .done (u.regBytes r) else .denied))) ∧
      (∀ r v fails, spells 0x11 (regName r ++ leBytes 8 v.toNat) →
        (x0.role ≠ 3 ∨ ownerWrites r = false → exec (.regWrite m r v fails) s = denied) ∧
        (x0.role = 3 → ownerWrites r = true →
          (∀ w, u.regWriteChecked r v fails = some w → exec (.regWrite m r v fails) s = .next (w.answer x (.done []))) ∧
          (u.regWriteChecked r v fails = none → exec (.regWrite m r v fails) s = .next (u.answer x .held)))) ∧
      (∀ seq : Word, spells 0x12 (leBytes 8 seq.toNat) → x0.role = 1 ∨ x0.role = 2 ∨ x0.role = 3 →
        (∀ r, u.baro.find seq = some r →
          exec (.baroRead m seq) s = .next (u.answer x (.done (r.words.flatMap fun w => leBytes 8 w.toNat)))) ∧
        (u.baro.find seq = none → exec (.baroRead m seq) s = .next (u.answer x .notHeld))) ∧
      (∀ seq : Word, spells 0x13 (leBytes 8 seq.toNat) →
        (x0.role ≠ 2 → exec (.baroClear m seq) s = denied) ∧
        (x0.role = 2 → exec (.baroClear m seq) s = .next ((({ u with baro := u.baro.clear seq }).baroWrite 0x11 1 true
          [locW .session x0.sid.toNat, u.baro.first, seq]).answer x (.done [])))) ∧
      (∀ entry : Line, spells 0x20 (leBytes 64 entry.toNat) →
        (x0.role ≠ 1 → x0.role ≠ 3 → exec (.jobCmd m entry) s = denied) ∧
        (x0.role = 1 ∨ x0.role = 3 → exec (.jobCmd m entry) s =
          .next ((({ u with mill := { u.mill with refs32 := u.mill.refs32 + 1 } }).command 32 u.mill.refs32 entry).answer x
            (.done (leBytes 8 u.mill.refs32.toNat))))) ∧
      (spells 0x21 [] →
        (x0.role ≠ 1 → x0.role ≠ 3 → exec (.jobDone m) s = denied) ∧
        (x0.role = 1 ∨ x0.role = 3 → (u.mill.ring32 = [] → exec (.jobDone m) s = .next (u.answer x (.done []))) ∧
          (∀ c r, u.mill.ring32 = c :: r → exec (.jobDone m) s =
            .next (({ u with mill := { u.mill with ring32 := r } }).answer x (.done c))))) ∧
      (∀ (i : BitVec 8) (e : BitVec 1024), spells 0x30 (leBytes 1 i.toNat ++ leBytes 128 e.toNat) →
        (x0.role ≠ 3 → exec (.credSet m i e) s = denied) ∧
        (x0.role = 3 → i.toNat < 16 → credOk e.toNat = true →
          exec (.credSet m i e) s = .next ((u.setCred i.toNat e.toNat).answer x (.done [])))) ∧
      (∀ i : BitVec 8, spells 0x31 (leBytes 1 i.toNat) →
        (x0.role ≠ 3 → exec (.credDel m i) s = denied) ∧
        (x0.role = 3 → i.toNat < 16 → exec (.credDel m i) s = .next ((u.setCred i.toNat 0).answer x (.done [])))) ∧
      (∀ (i : BitVec 8) (v : Word), spells 0x32 (leBytes 1 i.toNat ++ leBytes 8 v.toNat) →
        (x0.role ≠ 3 → exec (.bind m i v) s = denied) ∧
        (x0.role = 3 → 33 ≤ i.toNat → exec (.bind m i v) s =
          .next ((u.bankWord (bindBase + 8 * i.toNat) (v &&& 0x8000000000003FFF).toNat).answer x (.done [])))) ∧
      (∀ (n : BitVec 4) (d : BitVec 512), spells 0x42 (leBytes 1 n.toNat ++ leBytes 64 d.toNat) →
        (x0.role ≠ 3 ∨ n.toNat < 10 → exec (.measExtend m n d) s = denied) ∧
        (x0.role = 3 → 10 ≤ n.toNat →
          exec (.measExtend m n d) s = .next ((u.extend n.toNat (leBytes 64 d.toNat)).answer x (.done [])))) ∧
      (spells 0x41 [] →
        (x0.role ≠ 3 → exec (.arbCommit m) s = denied) ∧
        (x0.role = 3 → u.arb < u.sec.version.toNat → exec (.arbCommit m) s =
          .next ((u.identityBytes 16 (leBytes 8 u.sec.version.toNat)).answer x (.done [])))))

/-- Ownership: CLAIM gives a module without an owner its key and first credential; RELEASE takes owner, credentials and
binds away; PROVISION makes the identity key, once; REVOKE revokes the older vendor root; each is done only under a right
signature. FW_WRITE writes the slot that does not run, and prefers it once it verifies. Readings of the model: log entries
43, 55, 60. -/
def Obligations.OwnershipAndFirmware : Prop :=
  ∀ (s : State) (key sig : BitVec 4096) (m : Msg), s.power.phase = .ready →
    (∀ cred : BitVec 1024, s.carries .i3c = true → s.owned = false →
      let right := pssVerify key.toNat sig.toNat (Config.signedBytes 1 (keyBytes key ++ leBytes 128 cred.toNat)) = true ∧
        credOk cred.toNat = true ∧ cred.toNat % 256 = 3
      let u := (s.identityBytes 24 (keyHash key)).setCred 0 cred.toNat
      exec (.claim .i3c key cred sig) s = .next (if right then u.setIdflags (u.bank 8 8 ||| 2) else s.respond ⟨.i3c, ⟨0, 0, 0⟩⟩ (.denied .i3c))) ∧
    (s.owned = true → ∀ t cred, exec (.claim t key cred sig) s = .next s) ∧
    (∀ x0, s.session? m = some x0 → x0.role = 3 →
      let x : Session := { x0 with rxSeq := some m.seq, last := s.ns, src := m.src }
      let u := s.setSession x
      let w := (((List.range 16).foldl (fun s i => s.setCred i 0) u).bankBytes bindBase (List.replicate 2048 0)).identityBytes 24
        (List.replicate 64 0)
      (m.body = 0x43 :: (keyBytes key ++ leBytes 512 sig.toNat) → exec (.release m key sig) s = .next (
        if u.ownerKey key = true ∧ pssVerify key.toNat sig.toNat (Config.signedBytes 0 (keyBytes key)) = true then
          (w.setIdflags (w.bank 8 8 / 4 * 4 + w.bank 8 8 % 2)).answer x (.done [])
        else u.answer x .bad)) ∧
      (∀ image, m.body = 0x40 :: image → let n := 1 - bitsOf s.sec.stat.toNat 30 1
        let f := u.flashSlot n image
        exec (.fwWrite (some m) image) s =
          .next (if f.slotFault n = 0 then (f.bankWord bootPref n).answer x (.done []) else f.answer x .bad))) ∧
    (let right := s.vendorKey key = true ∧ pssVerify key.toNat sig.toNat (Config.signedBytes 2 (keyBytes key)) = true
      let k := Config.identityPrimes (BitVec.ofNat 512 (leNat (sha512 (leBytes 64 s.draw.1.toNat))))
      let modulus := BitVec.ofNat 4096 (k.1.toNat * k.2.toNat)
      let u := s.draw.2.identityBytes 88 (keyBytes modulus ++ privBytes k.1.toNat k.2.toNat)
      (s.prov = true → exec (.provision key sig) s = .next s) ∧
      (s.prov = false → exec (.provision key sig) s =
        .next (if right then (u.setIdflags (u.bank 8 8 ||| 1)).emit (.idPub modulus) else s))) ∧
    exec (.revoke key sig) s = .next (
      if s.vendorKey key = true ∧ pssVerify key.toNat sig.toNat (Config.signedBytes 3 (keyBytes key)) = true then
        s.setIdflags (s.bank 8 8 ||| 4)
      else s)

/-! ### Attestation, transports and debug -/

/-- GET_VERSION, GET_CAPABILITIES and NEGOTIATE_ALGORITHMS take a connection forward, each in its turn; GET_DIGESTS,
GET_CERTIFICATE, CHALLENGE and GET_MEASUREMENTS need all three, and a request out of order is answered ERROR. GET_DIGESTS
gives slot 0's digest, GET_CERTIFICATE a part of its chain, CHALLENGE and a signed GET_MEASUREMENTS a signature by the
identity key. The bytes of the responses are DSP0274's (log entry 56). ENTDAA gives an address to a target without one,
which shows its identity, and RSTDAA takes it away with the sessions over I3C; ETHERNET_LINK_UP and ETHERNET_LINK_DOWN close
the sessions over Ethernet, and a link that comes up takes MGT_NETCFG into use; ARP_REQUEST and ICMP_ECHO are answered for
the port's own address alone, ICMP_ECHO not in recovery. Readings of the model: log entries 56, 60. -/
def Obligations.AttestationAndTransports : Prop :=
  (∀ (s : State) (p : Peer),
     (s.spdmOn p.tr = false → ∀ slot off len idx signed nonce, exec (.getVersion p) s = .next s ∧ exec (.getCapabilities p) s = .next s ∧
       exec (.negotiateAlgorithms p) s = .next s ∧ exec (.getDigests p) s = .next s ∧
       exec (.getCertificate p slot off len) s = .next s ∧ exec (.challenge p slot nonce) s = .next s ∧
       exec (.getMeasurements p idx signed nonce) s = .next s) ∧
     (s.spdmOn p.tr = true →
       let sealed (nonce : BitVec 256) (data : List Byte) : List Byte :=
         data ++ s.sign (Config.transcript (leBytes 32 nonce.toNat) data)
       let own := leBytes 32 (s.draw.1.toNat % 2 ^ 256)
       exec (.getVersion p) s = .next ((s.setSpdm p.tr 1).spdm p 0x04 [0, 0, 0, 1, 0x00, 0x12]) ∧
       exec (.getCapabilities p) s = .next (if s.spdmAt p.tr = 1 then (s.setSpdm p.tr 2).spdm p 0x61 capabilities else s.spdmErr p) ∧
       exec (.negotiateAlgorithms p) s = .next (if s.spdmAt p.tr = 2 then (s.setSpdm p.tr 3).spdm p 0x63 algorithms else s.spdmErr p) ∧
       (s.spdmAt p.tr ≠ 3 → ∀ slot off len idx signed nonce, exec (.getDigests p) s = .next (s.spdmErr p) ∧
         exec (.getCertificate p slot off len) s = .next (s.spdmErr p) ∧ exec (.challenge p slot nonce) s = .next (s.spdmErr p) ∧
         exec (.getMeasurements p idx signed nonce) s = .next (s.spdmErr p)) ∧
       (s.spdmAt p.tr = 3 → s.sec.certOk = true → ∀ (off len : BitVec 16) (nonce : BitVec 256),
         let part := (s.certArea.drop off.toNat).take len.toNat
         exec (.getDigests p) s = .next (s.spdm p 0x01 (0 :: 1 :: sha512 s.certArea)) ∧
         exec (.getCertificate p 0 off len) s = .next (s.spdm p 0x02
           ([0, 0] ++ leBytes 2 part.length ++ leBytes 2 (65536 - off.toNat - part.length) ++ part)) ∧
         exec (.challenge p 0 nonce) s = .next (s.draw.2.spdm p 0x03 (sealed nonce
           ([0, 1] ++ sha512 s.certArea ++ own ++ sha512 (s.measBlocks 255).flatten ++ [0, 0]))) ∧
         (∀ slot : BitVec 4, slot ≠ 0 → exec (.challenge p slot nonce) s = .next (s.spdmErr p) ∧
           exec (.getCertificate p slot off len) s = .next (s.spdmErr p))) ∧
       (s.spdmAt p.tr = 3 → s.sec.certOk = false → ∀ slot nonce off len, exec (.getDigests p) s = .next (s.spdm p 0x01 [0, 0]) ∧
         exec (.challenge p slot nonce) s = .next (s.spdmErr p) ∧ exec (.getCertificate p slot off len) s = .next (s.spdmErr p)) ∧
       (s.spdmAt p.tr = 3 → ∀ (idx : BitVec 8) (nonce : BitVec 256),
         let bs := s.measBlocks idx.toNat
         let data := [if idx.toNat = 0 then 16 else 0, 0] ++ leBytes 1 bs.length ++ leBytes 3 bs.flatten.length ++ bs.flatten ++ own ++ [0, 0]
         (idx.toNat ≤ 16 ∨ idx.toNat = 255 →
           exec (.getMeasurements p idx false nonce) s = .next (s.draw.2.spdm p 0x60 data) ∧
           (s.prov = true → exec (.getMeasurements p idx true nonce) s = .next (s.draw.2.spdm p 0x60 (sealed nonce data)))) ∧
         (s.prov = false → exec (.getMeasurements p idx true nonce) s = .next (s.spdmErr p))))) ∧
  (∀ (s : State), s.managed = true → Rising s.sec.spdm →
     (∀ da, exec (.entdaa da) s = .next (if s.sec.da = 0 then
       ({ s with sec := { s.sec with da := da } }).emit (.entdaa s.sec.pid 0x06 0x00) else s)) ∧
     (∃ t, exec .rstdaa s = .next t ∧ t.sec.da = 0 ∧ t.spdmAt .i3c = 0 ∧ (∀ r, r ≠ .i3c → t.spdmAt r = s.spdmAt r) ∧
       t.sec.sessions = s.sec.sessions.filter (fun x => x.tr ≠ .i3c)) ∧
     (∃ t, exec .ethernetLinkUp s = .next t ∧ t.sec.ethUp = true ∧ t.sec.netUse = s.wp 4 ∧ t.spdmAt .ethernet = 0 ∧
       t.sec.sessions = s.sec.sessions.filter (fun x => x.tr ≠ .ethernet)) ∧
     (∃ t, exec .ethernetLinkDown s = .next t ∧ t.sec.ethUp = false ∧ t.sec.netUse = s.sec.netUse ∧ t.spdmAt .ethernet = 0 ∧
       t.sec.sessions = s.sec.sessions.filter (fun x => x.tr ≠ .ethernet)) ∧
     (∀ target sender mac dst src data,
       exec (.arpRequest target sender mac) s = .next (if s.sec.ethUp = true ∧ target = s.ipAddr then s.emit (.arp mac sender) else s) ∧
       exec (.icmpEcho dst src data) s = .next (if s.on = true ∧ s.sec.ethUp = true ∧ dst = s.ipAddr then
         s.emit (.echo src.mac src.ip data) else s)))

/-- The TAP: BYPASS is one flip-flop between TDI and TDO, IDCODE gives its 32 bits, SAMPLE_PRELOAD and, under scope 2 with
no job resident, EXTEST load the boundary cells and give the pins; EXTEST elsewhere is BYPASS. DBG_NONCE gives the nonce.
DBG_TOKEN: a token that passes the checks extends SEC_MEAS9 and unlocks its scope, a wider one that is unlocked staying so;
every token changes the nonce. DBG_TRIG_CLAIM and DBG_TRIG_RELEASE claim and release the land under scope 2 alone. Readings
of the model: log entries 8, 60. -/
def Obligations.DebugPort : Prop :=
  ∀ (s : State) (bits : List Bool) (k : Token),
    let pass := ({ s with sec := { s.sec with tap := .bypass } }).emit (.tdo (false :: bits.dropLast))
    let scan (t : Tap) : State := ({ s with
      sec := { s.sec with tap := t, pins := bits }
      free := s.free + (bits.length + 63) / 64 }).emit (.tdo (s.sampled bits.length))
    (s.tapOn = false → exec (.bypass bits) s = .next s ∧ exec .idcode s = .next s ∧ exec (.dbgToken k) s = .next s) ∧
    (s.tapOn = true →
      exec (.bypass bits) s = .next pass ∧
      exec .idcode s = .next (({ s with sec := { s.sec with tap := .idcode } }).emit (.tdo (bitsOut Config.idcode.toNat 32))) ∧
      exec (.samplePreload bits) s = .next (scan .sample) ∧
      exec (.extest bits) s = .next (if s.scope = 2 ∧ s.anyResident = false then scan .extest else pass) ∧
      exec .dbgNonce s = .next (s.emit (.tdo (bitsOut s.sec.nonce.toNat 64))) ∧
      (∃ t, exec (.dbgToken k) s = .next t ∧ t.sec.nonce = s.draw.1.truncate 64 ∧ t.mill = s.mill ∧ t.mem = s.mem ∧
        t.scope = (if s.tokenOk k = true then max s.scope k.scope.toNat else s.scope) ∧
        t.sec.meas = (if s.tokenOk k = true then (s.extend 9 (sha512 (tokenBytes k ++ leBytes 512 k.sig.toNat))).sec.meas
          else s.sec.meas)) ∧
      (s.scope ≠ 2 → exec .dbgTrigClaim s = .next (s.emit .held) ∧ exec .dbgTrigRelease s = .next s) ∧
      (s.scope = 2 →
        (s.time.ppsOut = false → exec .dbgTrigClaim s = .next { s with sec := { s.sec with dbgTrig := true } }) ∧
        (s.time.ppsOut = true → exec .dbgTrigClaim s = .next (({ s with
          sec := { s.sec with dbgTrig := true }
          time := { s.time with ppsOut := false } }).emit (.pps false))) ∧
        exec .dbgTrigRelease s = .next { s with sec := { s.sec with dbgTrig := false } }))

/-! ### Time -/

/-- PTP_SYNC gives the offset from the grandmaster and counts toward lock; the counter steps forward where it lags by more
than 100 µs, never backward, and slews every other correction, slower where it runs ahead and faster where it lags (by how
much is free, log entry 31). A message of another domain or transport than TIME_CTL's has no effect. PTP_DELAY_REQUEST is
noted and sent, PTP_DELAY_RESP sets the path, and PTP_HOLDOVER ends the lock after 3 s without a Sync. Readings of the
model: log entry 51. -/
def Obligations.PtpServo : Prop :=
  ∀ (s : State) (m : PtpMsg),
    (s.ptpOn = false ∨ m.domain.toNat ≠ bitsOf s.timeCtl 24 8 ∨ m.eth ≠ s.timeCtl.testBit 23 →
      exec (.ptpSync m) s = .next s ∧ exec (.ptpDelayResp m) s = .next s) ∧
    (s.ptpOn = false → exec .ptpDelayRequest s = .next s) ∧
    (∀ (free : Nat) (old : BitVec 32) (off : Int), -4294967 ≤ old.toInt → old.toInt ≤ 4294967 →
      (0 < off → (servoFreq free old off).toInt = -4294967 ∨ (servoFreq free old off).toInt < old.toInt) ∧
      (off < 0 → (servoFreq free old off).toInt = 4294967 ∨ old.toInt < (servoFreq free old off).toInt)) ∧
    (s.ptpOn = true → m.domain.toNat = bitsOf s.timeCtl 24 8 → m.eth = s.timeCtl.testBit 23 →
      let there : Int := m.time.toNat + s.time.path
      let off : Int := s.ns - there
      let good := if -1000 ≤ off ∧ off ≤ 1000 then s.time.good + 1 else 0
      let u : State := { s with time := { s.time with
        offs := BitVec.ofInt 64 off
        good := min good 16
        locked := s.time.locked || decide (16 ≤ good)
        master := m.time
        syncAt := s.ns } }
      let v := if s.ptpSteers = false then u
        else if off < -100000 then { u with time := { u.time with now := there.toNat * 2 ^ 32 } }
        else u.slew off
      (s.time.locked = true ∨ good < 16 → exec (.ptpSync m) s = .next v) ∧
      (s.time.locked = false → 16 ≤ good → exec (.ptpSync m) s = .next v.settleSource) ∧
      (s.time.now < 2 ^ 96 → s.time.now ≤ v.time.now) ∧
      exec .ptpDelayRequest s = .next (({ s with time := { s.time with reqAt := some s.ns } }).emit (.ptpReq (BitVec.ofNat 64 s.ns))) ∧
      (∀ t3, s.time.reqAt = some t3 → exec (.ptpDelayResp m) s = .next { s with time := { s.time with
        path := ((s.time.syncAt : Int) - s.time.master.toNat + (m.time.toNat - t3)) / 2
        reqAt := none } }) ∧
      (s.time.reqAt = none → exec (.ptpDelayResp m) s = .next s)) ∧
    (s.on = true → s.time.locked = true → s.time.syncAt + 3 * 10 ^ 9 ≤ s.ns → exec .ptpHoldover s =
      .next ({ s with time := { s.time with
        locked := false
        good := 0 } }).settleSource) ∧
    (s.time.locked = false ∨ s.ns < s.time.syncAt + 3 * 10 ^ 9 → exec .ptpHoldover s = .next s)

/-- PPS_IN_EDGE: every edge is timestamped, and with PPSIN_EN one within 1 µs of a second sets the phase. PPS_OUT rises at a
multiple of 10^9, where PPSOUT allows it and the land is not claimed, and a tick ends it after 100 ms. COMPARE_FIRE: an
armed compare unit below 7 fires once its value is reached: ARM clears and a TIME record is written; unit 7 takes the mill's
next tick (log entries 52, 53). -/
def Obligations.PulsesAndCompareUnits : Prop :=
  ∀ (s : State), s.power.phase = .ready →
    let r := s.ns % 10 ^ 9
    let u : State := { s with time := { s.time with ppsin := BitVec.ofNat 64 s.ns } }
    (s.timeCtl.testBit 22 = false ∨ (1000 < r ∧ r < 10 ^ 9 - 1000) → exec .ppsInEdge s = .next u) ∧
    (s.timeCtl.testBit 22 = true → 10 ^ 9 - 1000 ≤ r →
      exec .ppsInEdge s = .next { u with time := { u.time with now := (s.ns - r + 10 ^ 9) * 2 ^ 32 } }) ∧
    (s.timeCtl.testBit 22 = true → r ≤ 1000 → exec .ppsInEdge s = .next (u.slew (r : Int))) ∧
    (s.ppsAllowed = true → s.sec.dbgTrig = false → s.time.ppsOut = false → r ≤ 2 →
      exec .ppsOut s = .next (({ s with time := { s.time with
        ppsOut := true
        ppsEnd := s.ns - r + 10 ^ 8 } }).emit (.pps true))) ∧
    (s.ppsAllowed = false ∨ s.sec.dbgTrig = true ∨ s.time.ppsOut = true ∨ 2 < r → exec .ppsOut s = .next s) ∧
    (s.time.ppsOut = true → s.time.ppsEnd ≤ s.tick.ns → s.tick.time.ppsOut = false) ∧
    (∀ n : BitVec 3, let v := s.time.cmp.get n.toNat 0
      (s.time.cmpctl.toNat.testBit n.toNat = false ∨ s.ns < v.toNat → exec (.compareFire n) s = .next s) ∧
      (s.time.cmpctl.toNat.testBit n.toNat = true → v.toNat ≤ s.ns → n ≠ 7 → exec (.compareFire n) s =
        .next (({ s with time := { s.time with cmpctl := s.time.cmpctl &&& ~~~(1#32 <<< n.toNat) } }).baroWrite 0x0C 1 true
          [codeW 0 (8 + n.toNat) v.toNat])) ∧
      (s.time.cmpctl.toNat.testBit 7 = true → (s.time.cmp.get 7 0).toNat ≤ s.ns →
        ∃ t, exec (.compareFire 7) s = .next t ∧ t.time.cmpctl = s.time.cmpctl ∧ t.baro = s.baro ∧ t.mill = s.mill))

/-! ### Power -/

/-- A fall of VIN48 during phases 1 to 4 of start-up (R583), or in recovery, where phase 3 has stopped it (the model's
reading): START_UP_ABORT turns the module off without a save, the persistent bank with its save area keeps its contents, and
the next START_UP begins at phase 1. From the end of phase 4 on it is no abort: an armed BROWNOUT_SAVE starts the save while
command core 0 is alive (R123). Readings of the model: log entry 49. -/
def Obligations.FallDuringStartUp : Prop :=
  ∀ (s : State), s.Inv →
    (s.power.phase = .recovery ∨ (s.power.phase = .starting ∧ s.power.reached < 4) → ∃ t u, exec .startUpAbort s = .next t ∧ t.power.phase = .off ∧
      (∀ k, spaceOf k = 6 → Mem.get t.mem k = Mem.get s.mem k) ∧
      exec .startUp t = .next u ∧ u.power.phase = .starting ∧ u.power.reached = 1) ∧
    (s.power.phase = .ready ∨ (s.power.phase = .starting ∧ 4 ≤ s.power.reached) → exec .startUpAbort s = .next s ∧
      ∀ (cause : BitVec 2) (v : BitVec 8), s.core0 = true → cause.toNat < 3 → 110 ≤ v.toNat → ∃ t,
        exec (.brownoutSave cause v) s = .next t ∧ t.power.phase = .saving ∧ t.power.cause = cause.toNat ∧ t = s.save cause.toNat)

/-- START_UP does the next phase: from off the first, then phases 2 to 8 in order, of which the sixth waits for PERST#; a
module in recovery, ready, saving or latched off does none. MODULE_RESET begins again behind phase 1, without a save. PERST#
and the configuration requests: Request Retry Status until the functions are ready; then a request to a function that is
there is answered, the PF's sets the number of VFs, and one to a vector of the MSI-X table, masked here, sets it (log entry
6). Readings of the model: log entries 6, 46, 49. -/
def Obligations.StartUpPhases : Prop :=
  ∀ (s : State),
    (s.power.phase = .off → exec .startUp s = .next (s.cleared .starting 1)) ∧
    (s.power.phase = .starting →
      (s.power.reached = 1 → exec .startUp s = .next s.phase2) ∧ (s.power.reached = 2 → exec .startUp s = .next s.phase3) ∧
      (s.power.reached = 3 → exec .startUp s = .next s.phase4) ∧ (s.power.reached = 4 → exec .startUp s = .next s.phase5) ∧
      (s.power.reached = 5 → exec .startUp s = .next (if s.host.perst = true then s else { s with
        host := { s.host with fnReady := true }
        power := { s.power with reached := 6 } })) ∧
      (s.power.reached = 6 → exec .startUp s = .next s.phase7) ∧ (s.power.reached = 7 → exec .startUp s = .next s.phase8)) ∧
    (s.power.phase = .ready ∨ s.power.phase = .recovery ∨ s.power.phase = .saving ∨ s.power.phase = .thermalOff →
      exec .startUp s = .next s) ∧
    (s.power.phase = .ready ∨ s.power.phase = .recovery ∨ s.power.phase = .starting →
      exec .moduleReset s = .next (s.cleared .starting 1)) ∧
    (s.power.phase = .off ∨ s.power.phase = .saving ∨ s.power.phase = .thermalOff → exec .moduleReset s = .next s) ∧
    exec .perstDeassert s = .next { s with host := { s.host with perst := false } } ∧
    (s.power.phase ≠ .ready → exec .perstAssert s = .next { s with host := { s.host with perst := true } }) ∧
    (s.power.phase = .ready → exec .perstAssert s = .next
      (({ s with host := { s.host with perst := true } } : State).resetPf.closeTransport .doe)) ∧
    (∀ fn req, s.host.perst = true → exec (.configRequest ⟨fn, req⟩) s = .next s) ∧
    (∀ fn, s.host.perst = false → s.power.phase = .ready ∨ s.power.phase = .starting ∨ s.power.phase = .recovery →
      (s.host.fnReady = false → ∀ req, exec (.configRequest ⟨fn, req⟩) s = .next (s.emit (.cfgRetry fn.toNat))) ∧
      (s.host.fnReady = true → s.fnThere fn.toNat = false → ∀ req, exec (.configRequest ⟨fn, req⟩) s = .next s) ∧
      (s.host.fnReady = true → s.fnThere fn.toNat = true →
        exec (.configRequest ⟨fn, .read⟩) s = .next (s.emit (.cfgOk fn.toNat)) ∧
        (∀ n : BitVec 5, ∃ t, exec (.configRequest ⟨0, .vfs n⟩) s = .next t ∧ t.host.vfs = n.toNat ∧
          t.out.getLast? = some (.cfgOk 0)) ∧
        (∀ (v : BitVec 6) (e : BitVec 128), e.getLsbD 96 = true →
          exec (.configRequest ⟨fn, .vector v e⟩) s = .next ((s.setFn fn.toNat { s.fn fn.toNat with
            msix := (s.fn fn.toNat).msix.set v.toNat e 0 }).emit (.cfgOk fn.toNat)))))

/-- BROWNOUT_SAVE: a save that is not armed does not take place. SAVE_END: one that ends has STATUS 1 where every word was
verified, and leaves the module off: for good after a thermal shutdown, until VIN48_REMOVED; else start-up begins again
where VIN48 is good; a running module whose VIN48 is removed is off (log entry 49). THERMAL_SHUTDOWN saves with cause 2
where the save is armed, and only turns the module off elsewhere. Readings of the model: log entries 46, 88. -/
def Obligations.SaveAndShutdown : Prop :=
  ∀ (s : State),
    (∀ (cause : BitVec 2) (v : BitVec 8), v.toNat < 110 ∨ s.core0 = false → exec (.brownoutSave cause v) s = .next s) ∧
    (∀ (cause : BitVec 2) (v : BitVec 8), s.power.phase = .off ∨ s.power.phase = .recovery ∨ s.power.phase = .saving ∨
      s.power.phase = .thermalOff → exec (.brownoutSave cause v) s = .next s) ∧
    (∀ ok good, s.power.phase ≠ .saving → exec (.saveEnd ok good) s = .next s) ∧
    (s.power.phase = .saving →
      (∀ good, s.power.cause = 2 → exec (.saveEnd false good) s = .next (s.cleared .thermalOff 0)) ∧
      (s.power.cause ≠ 2 → exec (.saveEnd false false) s = .next (s.cleared .off 0) ∧
        exec (.saveEnd false true) s = .next ((s.cleared .off 0).cleared .starting 1) ∧
        exec (.saveEnd true false) s =
          .next ((s.plainBytes saveBase ((s.bytesAt (keyOf 6 saveBase) 256).set 0 1)).cleared .off 0))) ∧
    (∀ v : BitVec 8,
      (s.power.phase = .ready → s.core0 = true → 110 ≤ v.toNat → exec (.thermalShutdown v) s = .next (s.save 2)) ∧
      (s.power.phase = .ready ∨ s.power.phase = .starting ∨ s.power.phase = .recovery → v.toNat < 110 ∨ s.core0 = false →
        exec (.thermalShutdown v) s = .next (s.cleared .thermalOff 0)) ∧
      (s.power.phase = .saving → exec (.thermalShutdown v) s = .next { s with power := { s.power with cause := 2 } }) ∧
      (s.power.phase = .off ∨ s.power.phase = .thermalOff → exec (.thermalShutdown v) s = .next s)) ∧
    (s.power.phase = .thermalOff → exec .vin48Removed s = .next { s with power := { s.power with phase := .off } }) ∧
    (s.power.phase = .off ∨ s.power.phase = .saving → exec .vin48Removed s = .next s) ∧
    (s.power.phase = .ready ∨ s.power.phase = .starting ∨ s.power.phase = .recovery →
      exec .vin48Removed s = .next (s.cleared .off 0))

/-- DVFS_UPDATE, once in each millisecond, targets 15 with a resident context and moves the thermal and power limits of each
frame by one; DVFS_STEP moves CUR one point toward the goal, of the frames that rise from a power limit the lowest-numbered
first; THERMAL_EMERGENCY puts every frame at point 0; POWER_SAMPLE: PWR_STAT takes the sample; THERM_ALERT: THERM_ALERT_N is
low from 95 °C on. -/
def Obligations.OperatingPointsAndSensors : Prop :=
  (∀ (s : State) (temps : List (BitVec 8)) (watts : BitVec 16) (f : BitVec 5), s.power.phase = .ready →
    (s.ns / 10 ^ 6 ≤ s.power.dvfsAt → exec (.dvfsUpdate temps watts) s = .next s) ∧
    (s.power.dvfsAt < s.ns / 10 ^ 6 → ∃ t,
    exec (.dvfsUpdate temps watts) s = .next t ∧ t.spindles = s.spindles ∧ t.power.dvfsAt = s.ns / 10 ^ 6 ∧
    t.frame f.toNat = (s.frame f.toNat).retarget (s.residentOn f.toNat) (temps.getD f.toNat 0).toNat watts.toNat)) ∧
  (∀ (f : Frame) (temp watts : Nat), (f.retarget true temp watts).target = 15 ∧ (f.retarget true temp watts).point = f.point ∧
    (95 ≤ temp → (f.retarget true temp watts).capT = min f.capT f.point - 1) ∧
    (92 ≤ temp → temp < 95 → (f.retarget true temp watts).capT = f.capT) ∧
    (temp < 92 → (f.retarget true temp watts).capT = min 15 (f.capT + 1)) ∧
    (2800 < watts → (f.retarget true temp watts).capP = min f.capP f.point - 1) ∧
    (watts < 2700 → (f.retarget true temp watts).capP = min 15 (f.capP + 1))) ∧
  (∀ (s : State) (f : BitVec 5), s.power.phase = .ready →
    let x := s.frame f.toNat
    (x.point < x.goal → x.capP = 15 ∨ (∀ g < f.toNat, (s.frame g).rising = false) →
      exec (.dvfsStep f) s = .next (s.setFrame f.toNat (x.setDvfs (x.point + 1) x.target))) ∧
    (x.point < x.goal → x.capP < 15 → (∃ g < f.toNat, (s.frame g).rising = true) → exec (.dvfsStep f) s = .next s) ∧
    (x.goal < x.point → exec (.dvfsStep f) s = .next (s.setFrame f.toNat (x.setDvfs (x.point - 1) x.target))) ∧
    (∃ t, exec .thermalEmergency s = .next t ∧ (t.frame f.toNat).point = 0 ∧ (t.frame f.toNat).target = x.target)) ∧
  (∀ (s : State) (watts vin : BitVec 16) (tj hot v : BitVec 8), s.power.phase = .ready →
    exec (.powerSample watts vin tj hot v) s = .next { s with power := { s.power with
      stat := watts ++ vin ++ tj ++ hot ++ (0 : BitVec 8) ++ v } } ∧
    (s.power.alert = decide (95 ≤ tj.toNat) → exec (.thermAlert tj) s = .next s) ∧
    (s.power.alert ≠ decide (95 ≤ tj.toNat) → exec (.thermAlert tj) s =
      .next (({ s with power := { s.power with alert := decide (95 ≤ tj.toNat) } }).emit (.alert (decide (95 ≤ tj.toNat))))))

/-! ### Reset, the invariant, and the words of the controller -/

/-- Reset: the registers hold the values of their Reset columns, the persistent bank's as shipped, and no command waits. -/
def Obligations.ResetRegisters : Prop :=
  let r := State.reset
  r.power.phase = .off ∧ r.pending = [] ∧
  (∀ w : Who, (r.who w).arithCtl = 0x40 ∧ (r.who w).arithFlags = 0 ∧ (r.who w).qzCtl = 0x020C4180 ∧ (r.who w).qzFlags = 0 ∧
    (r.who w).updCtl = 60 ∧ (r.who w).updFlags = 0 ∧ r.regBytes (.spnCfault w) = leBytes 8 0) ∧
  (∀ f : BitVec 5, r.regBytes (.frmPwrctl f) = leBytes 4 0 ∧ r.regBytes (.frmShctl f) = leBytes 4 0 ∧
    r.regBytes (.frmDvfs f) = leBytes 4 600 ∧ r.regBytes (.jobRcfg f) = leBytes 8 0x0004000000440000) ∧
  (∀ l : BitVec 6, r.regBytes (.sknLstat l) = leBytes 4 0x1E000000 ∧ r.regBytes (.sknLerr l) = leBytes 8 0) ∧
  r.regBytes .sknLcfg = leBytes 4 0x4002 ∧ r.regBytes .sknTsrc = leBytes 4 0x00FF0000 ∧ r.regBytes .sknCoord = leBytes 4 0 ∧
  r.regBytes .millSpot = leBytes 4 (600 * 2 ^ 16 + 60 * 2 ^ 8) ∧ r.regBytes .millTwcfg = leBytes 4 10 ∧
  r.regBytes .millRcfg = leBytes 4 (4 * 2 ^ 12 + 3 * 2 ^ 8 + 1) ∧ r.regBytes .mgtNetcfg = leBytes 8 (24 * 2 ^ 24 + 2 ^ 23) ∧
  r.regBytes .timeCtl = leBytes 4 (2 ^ 20) ∧ r.regBytes .timeCmpctl = leBytes 4 0x80 ∧ r.regBytes .timeNow = leBytes 8 0 ∧
  r.regBytes .baroSize = leBytes 4 768 ∧ r.regBytes .baroNext = leBytes 8 0 ∧
  (∀ n : BitVec 4, r.regBytes (.secMeas n) = leBytes 64 0) ∧ (∀ c : BitVec 8, r.regBytes (.jobCnt c) = leBytes 8 0)

/-- The reset state's memory has the canonical form. -/
def Obligations.ResetMemoryCanonical : Prop := State.reset.Inv

/-- Every step keeps the canonical form of memory: keys strictly rising, and no byte listed that an unlisted key reads as.
So two states with the same bytes hold the same memory. -/
def Obligations.StepKeepsMemoryCanonical : Prop := ∀ s t : State, s.Inv → step s = .next t → t.Inv

/-- No command touches the queue: what waits behind a command waits as before when it is done. Readings of the model: log
entry 92. -/
def Obligations.CommandsLeaveTheQueue : Prop := ∀ (i : Instr) (s t : State), exec i s = .next t → t.pending = s.pending

/-- Decoding the word of a well-formed controller instruction gives the instruction, at every value of every field, but for
REEL.OUT, whose word is REEL.IN's and which the descriptor tells apart; and a word that decodes is the word of what it
decodes to. -/
def Obligations.DecodeAndEncodeAgree : Prop :=
  (∀ (i : Instr) (w : Who) (v : Word), i.wf = true → (∀ u f, i ≠ .reelOut u f) → encode i = some (w, v) →
    decodeWord w v = some i) ∧
  (∀ (w : Who) (f : EForm), ∃ v, encode (.reelOut w f) = some (w, v) ∧ decodeWord w v = some (.reelIn w f)) ∧
  (∀ (w : Who) (v : Word) (i : Instr), decodeWord w v = some i → encode i = some (w, v) ∧ i.wf = true)

/-- Words written out from the layouts: ALU SUB s3, s1, s2; BR by −2 unless p1; SYNC.KREAD s7, k5; TASK.POP s3, p2; the
manual's MX word; VE.EXP under PINV p5 with RTZ and TONE; UPD.APPLY d9, s4, s5; SHUT.FREE 1024; and a MAJOR and a SHAPE that
the manual does not define. -/
def Obligations.WordsDecode : Prop :=
  ∀ w : Who,
    decodeWord w 0x0461102000000000 = some (.aluSub w { dst := 3, src1 := 1, src2 := 2, imm := 0x2000000000 }) ∧
    decodeWord w 0x200907FFFFFFFFFE = some (.br w { dst := 0, src1 := 9, src2 := 0, imm := 0x7FFFFFFFFFE }) ∧
    decodeWord w 0x84E0004000000005 = some (.syncKread w { dst := 7, src1 := 0, src2 := 0, imm := 0x4000000005 }) ∧
    decodeWord w 0x8060102000000000 = some (.taskPop w { dst := 3, src1 := 0, src2 := 2, imm := 0x2000000000 }) ∧
    decodeWord w 0x4058010300183020 = some (.mxF w { desc := 22, tile := 0, kout := 4, kwait := 3, mod := 0x00183020 }) ∧
    decodeWord w 0x50040083BA070915 = some (.veExp w { desc := 1, tile := 0, kout := 2, kwait := 3, mod := 0xBA070915 }) ∧
    decodeWord w 0x6424004001214000 = some (.updApply w { desc := 9, tile := 0, kout := 1, kwait := 0, mod := 0x01214000 }) ∧
    decodeWord w 0x7410018003000400 = some (.shutFree w { desc := 4, tile := 0, kout := 6, kwait := 0, mod := 0x03000400 }) ∧
    decodeWord w 0x4C00000000000000 = none ∧ decodeWord w 0x4058010300183720 = none
end

