-- ==== Sys2Proof/Laws/Kept.lean ====
section
/-! SUPPORT. What every operation keeps: the queue of waiting commands, and the canonical form of memory. -/

namespace Sys2Proof.Laws

open Sys2Proof.Machine

/-! ### Memory -/

theorem wfFrom_mono {lo hi : Nat} (h : hi ≤ lo) : ∀ {m : List Host.Cell}, Mem.wfFrom lo m = true → Mem.wfFrom hi m = true
  | [], _ => rfl
  | c :: r, hm => by
    simp only [Mem.wfFrom, Bool.and_eq_true, decide_eq_true_eq] at hm ⊢
    exact ⟨⟨Nat.le_trans h hm.1.1, hm.1.2⟩, hm.2⟩

theorem wfFrom_drop (k : Nat) : ∀ {lo : Nat} {m : List Host.Cell}, Mem.wfFrom lo m = true → Mem.wfFrom lo (Mem.drop m k) = true
  | _, [], _ => rfl
  | lo, c :: r, h => by
    have h0 := h
    simp only [Mem.wfFrom, Bool.and_eq_true, decide_eq_true_eq] at h
    unfold Mem.drop
    split
    · exact wfFrom_mono (by omega) h.2
    · split
      · exact h0
      · simp only [Mem.wfFrom, Bool.and_eq_true, decide_eq_true_eq]
        exact ⟨h.1, wfFrom_drop k h.2⟩

theorem wfFrom_put {k : Nat} {b : Byte} (hb : b ≠ Mem.rest k) : ∀ {lo : Nat} {m : List Host.Cell}, lo ≤ k →
    Mem.wfFrom lo m = true → Mem.wfFrom lo (Mem.put m k b) = true
  | lo, [], hk, _ => by simp [Mem.put, Mem.wfFrom, hb, hk]
  | lo, c :: r, hk, h => by
    have h0 := h
    simp only [Mem.wfFrom, Bool.and_eq_true, decide_eq_true_eq] at h
    unfold Mem.put
    split
    · rename_i e
      simp only [Mem.wfFrom, Bool.and_eq_true, decide_eq_true_eq]
      exact ⟨⟨hk, hb⟩, e ▸ h.2⟩
    · split
      · simp only [Mem.wfFrom, Bool.and_eq_true, decide_eq_true_eq]
        exact ⟨⟨hk, hb⟩, ⟨by omega, h.1.2⟩, h.2⟩
      · simp only [Mem.wfFrom, Bool.and_eq_true, decide_eq_true_eq]
        exact ⟨h.1, wfFrom_put hb (by omega) h.2⟩

/-- Writing a byte keeps the canonical form. -/
theorem wf_set {m : List Host.Cell} (k : Nat) (b : Byte) (h : Mem.wf m = true) : Mem.wf (Mem.set m k b) = true := by
  unfold Mem.set
  split
  · exact wfFrom_drop k h
  · rename_i e
    exact wfFrom_put e (Nat.zero_le k) h

theorem wf_setAll (ws : List Host.Cell) {m : List Host.Cell} (h : Mem.wf m = true) : Mem.wf (Mem.setAll m ws) = true := by
  unfold Mem.setAll
  induction ws generalizing m with
  | nil => exact h
  | cons w r ih => exact ih (wf_set w.1 w.2 h)

theorem wf_setBytes {m : List Host.Cell} (k : Nat) (bs : List Byte) (h : Mem.wf m = true) : Mem.wf (Mem.setBytes m k bs) = true :=
  wf_setAll _ h

theorem wf_setNat {m : List Host.Cell} (k n v : Nat) (h : Mem.wf m = true) : Mem.wf (Mem.setNat m k n v) = true :=
  wf_setBytes k _ h

theorem wfFrom_filter (f : Host.Cell → Bool) : ∀ {lo : Nat} {m : List Host.Cell}, Mem.wfFrom lo m = true →
    Mem.wfFrom lo (m.filter f) = true
  | _, [], _ => rfl
  | lo, c :: r, h => by
    simp only [Mem.wfFrom, Bool.and_eq_true, decide_eq_true_eq] at h
    rw [List.filter_cons]
    split
    · simp only [Mem.wfFrom, Bool.and_eq_true, decide_eq_true_eq]
      exact ⟨h.1, wfFrom_filter f h.2⟩
    · exact wfFrom_mono (by omega) (wfFrom_filter f h.2)

theorem wf_filter (f : Host.Cell → Bool) {m : List Host.Cell} (h : Mem.wf m = true) : Mem.wf (m.filter f) = true :=
  wfFrom_filter f h

/-! ### What an operation keeps -/

/-- The queue is `queue`, and, under `canon`, memory is canonical: what every operation keeps. -/
def Kept (canon : Prop) (queue : List Instr) (s : State) : Prop := s.pending = queue ∧ (canon → Mem.wf s.mem = true)

/-- Every next state of an outcome is `Kept`. -/
structure KeptOut (canon : Prop) (queue : List Instr) (o : Host.Outcome State Fault Refusal) : Prop where
  next : ∀ t, o = .next t → Kept canon queue t

variable {canon : Prop} {queue : List Instr}

theorem kept_next {t : State} (h : Kept canon queue t) : KeptOut canon queue (.next t) :=
  ⟨fun _ e => Host.Outcome.next.inj e ▸ h⟩

theorem kept_ite {c : Prop} [Decidable c] {a b : State} (ha : Kept canon queue a) (hb : Kept canon queue b) : Kept canon queue (if c then a else b) := by
  split <;> assumption

theorem kept_foldl {α : Type} {f : State → α → State} (hf : ∀ s a, Kept canon queue s → Kept canon queue (f s a)) : ∀ {l : List α} {s : State},
    Kept canon queue s → Kept canon queue (l.foldl f s)
  | [], _, h => h
  | a :: l, s, h => kept_foldl hf (l := l) (hf s a h)

theorem kept_mk {x : State} {a1 a2 a3 a4 a5 a6 a7 a8 a9 a10 a11 a12 a13 a14 a15 a16 a17 a18} (h : Kept canon queue x) :
    Kept canon queue (State.mk x.pending x.mem a1 a2 a3 a4 a5 a6 a7 a8 a9 a10 a11 a12 a13 a14 a15 a16 a17 a18) := h

theorem kept_mem {x : State} {m : List Host.Cell} {a1 a2 a3 a4 a5 a6 a7 a8 a9 a10 a11 a12 a13 a14 a15 a16 a17 a18} (h : Kept canon queue x)
    (hm : Mem.wf x.mem = true → Mem.wf m = true) :
    Kept canon queue (State.mk x.pending m a1 a2 a3 a4 a5 a6 a7 a8 a9 a10 a11 a12 a13 a14 a15 a16 a17 a18) := ⟨h.1, fun p => hm (h.2 p)⟩

/-- The state of an option, if there is one, is `Kept`. -/
structure KeptOpt (canon : Prop) (queue : List Instr) (o : Option State) : Prop where
  some : ∀ t, o = some t → Kept canon queue t

theorem keptOpt_none : KeptOpt canon queue none := ⟨by simp⟩

theorem keptOpt_some {t : State} (h : Kept canon queue t) : KeptOpt canon queue (some t) := ⟨fun _ e => Option.some.inj e ▸ h⟩

theorem keptOpt_ite {c : Prop} [Decidable c] {a b : Option State} (ha : KeptOpt canon queue a) (hb : KeptOpt canon queue b) :
    KeptOpt canon queue (if c then a else b) := by
  split <;> assumption

theorem keptOpt_map {α : Type} {f : α → State} {o : Option α} (h : ∀ a, Kept canon queue (f a)) : KeptOpt canon queue (o.map f) := by
  cases o
  · exact keptOpt_none
  · exact keptOpt_some (h _)

theorem keptOpt_mapSt {f : State → State} {o : Option State} (h : ∀ a, Kept canon queue a → Kept canon queue (f a)) (ho : KeptOpt canon queue o) :
    KeptOpt canon queue (o.map f) := by
  cases o
  · exact keptOpt_none
  · exact keptOpt_some (h _ (ho.1 _ rfl))

theorem keptOpt_foldl {α : Type} {f : State → α → Option State} (hf : ∀ s a, Kept canon queue s → KeptOpt canon queue (f s a)) :
    ∀ {l : List α} {o : Option State}, KeptOpt canon queue o → KeptOpt canon queue (l.foldl (fun o a => o.bind fun s => f s a) o)
  | [], _, h => h
  | a :: l, o, h => keptOpt_foldl hf (l := l) (by
    cases o
    · exact keptOpt_none
    · exact hf _ _ (h.1 _ rfl))

theorem keptOpt_elim {o : Option State} {t : State} (h : KeptOpt canon queue o) (e : o = some t) : Kept canon queue t := h.1 t e

theorem kept_getD {o : Option State} {s : State} (h : KeptOpt canon queue o) (hs : Kept canon queue s) : Kept canon queue (o.getD s) := by
  cases o
  · exact hs
  · exact h.1 _ rfl

theorem keptOut_ite {c : Prop} [Decidable c] {a b : Host.Outcome State Fault Refusal} (ha : KeptOut canon queue a) (hb : KeptOut canon queue b) :
    KeptOut canon queue (if c then a else b) := by
  split <;> assumption

theorem kept_foldlFst {α β : Type} {f : State × β → α → State × β} (hf : ∀ a x, Kept canon queue a.1 → Kept canon queue (f a x).1) :
    ∀ {l : List α} {a : State × β}, Kept canon queue a.1 → Kept canon queue (l.foldl f a).1
  | [], _, h => h
  | x :: l, a, h => kept_foldlFst hf (l := l) (hf a x h)

end Sys2Proof.Laws
end

