-- ==== Sys2Proof/Laws/KeptOps.lean ====
section
/-! SUPPORT. What every operation keeps (Laws/Kept.lean): the shared operations, and starting and finishing engine operations. -/

set_option maxRecDepth 4000

namespace Sys2Proof.Laws

open Sys2Proof.Machine

variable {canon : Prop} {queue : List Instr}

theorem st_setFrame_kept (s : State) (f : ℕ) (x : Frame) (h_s : Kept canon queue s) :
    Kept canon queue (State.setFrame s f x) := by
  unfold State.setFrame
  try dsimp only
  repeat' (first | with_reducible assumption | intro _ | with_reducible apply kept_ite | fail_if_no_progress with_reducible apply kept_mk)

theorem st_emit_kept (s : State) (o : Out) (h_s : Kept canon queue s) :
    Kept canon queue (State.emit s o) := by
  unfold State.emit
  try dsimp only
  repeat' (first | with_reducible assumption | intro _ | with_reducible apply kept_ite | fail_if_no_progress with_reducible apply kept_mk)

theorem st_setSpn_kept (s : State) (l : ℕ) (x : Spindle) (h_s : Kept canon queue s) :
    Kept canon queue (State.setSpn s l x) := by
  unfold State.setSpn
  try dsimp only
  repeat' (first | with_reducible assumption | intro _ | with_reducible apply kept_ite | fail_if_no_progress with_reducible apply kept_mk)

theorem st_setCtx_kept (s : State) (l : ℕ) (c : ℕ) (x : Ctx) (h_s : Kept canon queue s) :
    Kept canon queue (State.setCtx s l c x) := by
  unfold State.setCtx
  try dsimp only
  repeat' (first | with_reducible assumption | intro _ | with_reducible apply kept_ite | with_reducible apply st_setSpn_kept)

theorem st_setJob_kept (s : State) (j : ℕ) (b : Job) (h_s : Kept canon queue s) :
    Kept canon queue (State.setJob s j b) := by
  unfold State.setJob
  try dsimp only
  repeat' (first | with_reducible assumption | intro _ | with_reducible apply kept_ite | fail_if_no_progress with_reducible apply kept_mk)

theorem st_setSite_kept (s : State) (p : ℕ) (v : BitVec 32) (h_s : Kept canon queue s) :
    Kept canon queue (State.setSite s p v) := by
  unfold State.setSite
  try dsimp only
  repeat' (first | with_reducible assumption | intro _ | with_reducible apply kept_ite | fail_if_no_progress with_reducible apply kept_mk)

theorem st_modJob_kept (s : State) (j : ℕ) (f : Job → Job) (h_s : Kept canon queue s) :
    Kept canon queue (State.modJob s j f) := by
  unfold State.modJob
  try dsimp only
  repeat' (first | with_reducible assumption | intro _ | with_reducible apply kept_ite | with_reducible apply st_setJob_kept | split)

theorem st_setSpmap_kept (s : State) (n : ℕ) (v : BitVec 32) (h_s : Kept canon queue s) :
    Kept canon queue (State.setSpmap s n v) := by
  unfold State.setSpmap
  try dsimp only
  repeat' (first | with_reducible assumption | intro _ | with_reducible apply kept_ite | fail_if_no_progress with_reducible apply kept_mk)

theorem st_setWho_kept (s : State) (w : Who) (x : Ctx) (h_s : Kept canon queue s) :
    Kept canon queue (State.setWho s w x) := by
  unfold State.setWho
  try dsimp only
  repeat' (first | with_reducible assumption | intro _ | with_reducible apply kept_ite | with_reducible apply st_setCtx_kept)

theorem st_setLink_kept (s : State) (n : ℕ) (l : Link) (h_s : Kept canon queue s) :
    Kept canon queue (State.setLink s n l) := by
  unfold State.setLink
  try dsimp only
  repeat' (first | with_reducible assumption | intro _ | with_reducible apply kept_ite | fail_if_no_progress with_reducible apply kept_mk)

theorem st_flushLink_kept (s : State) (n : ℕ) (h_s : Kept canon queue s) :
    Kept canon queue (State.flushLink s n) := by
  unfold State.flushLink
  try dsimp only
  repeat' (first | with_reducible assumption | intro _ | with_reducible apply kept_ite | with_reducible apply st_setLink_kept | with_reducible apply st_emit_kept | split)

theorem st_control_kept (s : State) (n : ℕ) (kind : ℕ) (args : List ℕ) (o : Out) (h_s : Kept canon queue s) :
    Kept canon queue (State.control s n kind args o) := by
  unfold State.control
  try dsimp only
  repeat' (first | with_reducible assumption | intro _ | with_reducible apply kept_ite | with_reducible apply st_flushLink_kept | with_reducible apply st_setLink_kept | with_reducible apply st_emit_kept)

theorem st_credit_kept (s : State) (n : ℕ) (vc : ℕ) (bytes : ℕ) (h_s : Kept canon queue s) :
    Kept canon queue (State.credit s n vc bytes) := by
  unfold State.credit
  try dsimp only
  repeat' (first | with_reducible assumption | intro _ | with_reducible apply kept_ite | with_reducible apply st_control_kept)

theorem st_launch_kept (s : State) (n : ℕ) (h : PHdr) (data : List Byte) (held : Option (ℕ × ℕ)) (h_s : Kept canon queue s) :
    Kept canon queue (State.launch s n h data held) := by
  unfold State.launch
  try dsimp only
  repeat' (first | with_reducible assumption | intro _ | with_reducible apply kept_ite | with_reducible apply st_credit_kept | with_reducible apply st_flushLink_kept | with_reducible apply st_setLink_kept | with_reducible apply st_emit_kept | with_reducible apply kept_foldl | split)

theorem st_transmit_kept (s : State) (n : ℕ) (h : PHdr) (data : List Byte) (held : Option (ℕ × ℕ)) (h_s : Kept canon queue s) :
    Kept canon queue (State.transmit s n h data held) := by
  unfold State.transmit
  try dsimp only
  repeat' (first | with_reducible assumption | intro _ | with_reducible apply kept_ite | with_reducible apply st_setLink_kept | with_reducible apply st_launch_kept | fail_if_no_progress with_reducible apply kept_mk)

theorem st_drain_kept (s : State) (n : ℕ) (h_s : Kept canon queue s) :
    Kept canon queue (State.drain s n) := by
  unfold State.drain
  try dsimp only
  repeat' (first | with_reducible assumption | intro _ | with_reducible apply kept_ite | with_reducible apply st_setLink_kept | with_reducible apply st_transmit_kept | with_reducible apply kept_foldl)

theorem st_header_kept (s : State) (x : Send) (h_s : Kept canon queue s) :
    Kept canon queue (State.header s x).2 := by
  unfold State.header
  try dsimp only
  repeat' (first | with_reducible assumption | intro _ | with_reducible apply kept_ite | fail_if_no_progress with_reducible apply kept_mk)

theorem st_routeOut_kept (s : State) (h : PHdr) (data : List Byte) (link : Option ℕ) (h_s : Kept canon queue s) :
    Kept canon queue (State.routeOut s h data link) := by
  unfold State.routeOut
  try dsimp only
  repeat' (first | with_reducible assumption | intro _ | with_reducible apply kept_ite | with_reducible apply st_emit_kept | with_reducible apply st_transmit_kept | fail_if_no_progress with_reducible apply kept_mk | assumption | split)

theorem st_send_kept (s : State) (x : Send) (h_s : Kept canon queue s) :
    Kept canon queue (State.send s x) := by
  unfold State.send
  try dsimp only
  repeat' (first | with_reducible assumption | intro _ | with_reducible apply kept_ite | with_reducible apply st_routeOut_kept | with_reducible apply st_header_kept)

theorem st_sendOn_kept (s : State) (n : ℕ) (x : Send) (h_s : Kept canon queue s) :
    Kept canon queue (State.sendOn s n x) := by
  unfold State.sendOn
  try dsimp only
  repeat' (first | with_reducible assumption | intro _ | with_reducible apply kept_ite | with_reducible apply st_transmit_kept | with_reducible apply st_header_kept)

theorem st_release_kept (s : State) (h_s : Kept canon queue s) :
    Kept canon queue (State.release s) := by
  unfold State.release
  try dsimp only
  repeat' (first | with_reducible assumption | intro _ | with_reducible apply kept_ite | with_reducible apply st_routeOut_kept | with_reducible apply kept_foldl | fail_if_no_progress with_reducible apply kept_mk)

theorem st_sendAll_kept (s : State) (xs : List Send) (h_s : Kept canon queue s) :
    Kept canon queue (State.sendAll s xs) := by
  unfold State.sendAll
  try dsimp only
  repeat' (first | with_reducible assumption | intro _ | with_reducible apply kept_ite | with_reducible apply st_send_kept | with_reducible apply kept_foldl)

theorem st_putAt_kept (s : State) (key : ℕ) (bs : List Byte) (h_s : Kept canon queue s) :
    Kept canon queue (State.putAt s key bs) := by
  unfold State.putAt
  try dsimp only
  repeat' (first | with_reducible assumption | with_reducible apply wf_setBytes | with_reducible apply wf_setNat | with_reducible apply wf_setAll | with_reducible apply wf_set | intro _ | with_reducible apply kept_ite | fail_if_no_progress with_reducible apply kept_mk | with_reducible apply kept_mem)

theorem st_writeCounts_kept (s : State) (c : Compl) (h_s : Kept canon queue s) :
    Kept canon queue (State.writeCounts s c) := by
  unfold State.writeCounts
  try dsimp only
  repeat' (first | with_reducible assumption | intro _ | with_reducible apply kept_ite | with_reducible apply st_putAt_kept)

theorem st_complete_kept (s : State) (c : Compl) (h_s : Kept canon queue s) :
    Kept canon queue (State.complete s c) := by
  unfold State.complete
  try dsimp only
  repeat' (first | with_reducible assumption | intro _ | with_reducible apply kept_ite | with_reducible apply st_writeCounts_kept | with_reducible apply st_send_kept | with_reducible apply st_emit_kept | fail_if_no_progress with_reducible apply kept_mk | split)

theorem st_wearOne_kept (s : State) (w : ℕ) (h_s : Kept canon queue s) :
    Kept canon queue (State.wearOne s w) := by
  unfold State.wearOne
  try dsimp only
  repeat' (first | with_reducible assumption | intro _ | with_reducible apply kept_ite | fail_if_no_progress with_reducible apply kept_mk)

theorem st_ringWord_kept (s : State) (at_ : ℕ) (v : Word) (h_s : Kept canon queue s) :
    Kept canon queue (State.ringWord s at_ v) := by
  unfold State.ringWord
  try dsimp only
  repeat' (first | with_reducible assumption | with_reducible apply wf_setBytes | with_reducible apply wf_setNat | with_reducible apply wf_setAll | with_reducible apply wf_set | intro _ | with_reducible apply kept_ite | with_reducible apply st_wearOne_kept | fail_if_no_progress with_reducible apply kept_mk | with_reducible apply kept_mem | assumption)

theorem st_ringRec_kept (s : State) (ws : List Word) (h_s : Kept canon queue s) :
    Kept canon queue (State.ringRec s ws) := by
  unfold State.ringRec
  try dsimp only
  repeat' (first | with_reducible assumption | intro _ | with_reducible apply kept_ite | with_reducible apply st_ringWord_kept | with_reducible apply kept_foldl | fail_if_no_progress with_reducible apply kept_mk)

theorem st_baroPut_kept (s : State) (type : ℕ) (sev : ℕ) (persist : Bool) (body : List Word) (h_s : Kept canon queue s) :
    Kept canon queue (State.baroPut s type sev persist body) := by
  unfold State.baroPut
  try dsimp only
  repeat' (first | with_reducible assumption | intro _ | with_reducible apply kept_ite | with_reducible apply st_ringRec_kept | fail_if_no_progress with_reducible apply kept_mk)

theorem st_pageRetire_kept (s : State) (page : ℕ) (h_s : Kept canon queue s) :
    Kept canon queue (State.pageRetire s page) := by
  unfold State.pageRetire
  split
  · exact h_s
  · extract_lets _ _ t v _ z
    have ht : Kept canon queue t := kept_mk h_s
    have hv : Kept canon queue v := kept_ite (kept_mem ht fun w => wf_setBytes _ _ w) ht
    refine st_baroPut_kept _ _ _ _ _ ?_
    unfold z
    clear_value v
    clear ht t
    split
    · split
      · exact hv
      · rename_i off _ _
        exact ⟨(st_wearOne_kept v (off / 8) hv).1, fun p => wf_setNat _ _ _ (hv.2 p)⟩
    · exact kept_mk hv

theorem st_baroWrite_kept (s : State) (type : ℕ) (sev : ℕ) (persist : Bool) (body : List Word) (h_s : Kept canon queue s) :
    Kept canon queue (State.baroWrite s type sev persist body) := by
  unfold State.baroWrite
  try dsimp only
  repeat' (first | with_reducible assumption | intro _ | with_reducible apply kept_ite | with_reducible apply st_pageRetire_kept | with_reducible apply st_baroPut_kept | with_reducible apply kept_foldl)

theorem st_mapCtxs_kept (s : State) (f : ℕ → ℕ → Ctx → Ctx) (h_s : Kept canon queue s) :
    Kept canon queue (State.mapCtxs s f) := by
  unfold State.mapCtxs
  try dsimp only
  repeat' (first | with_reducible assumption | intro _ | with_reducible apply kept_ite | fail_if_no_progress with_reducible apply kept_mk)

theorem st_signalOne_kept (s : State) (l : ℕ) (c : ℕ) (k : ℕ) (arm : ℕ) (code : Byte) (bad : Bool) (h_s : Kept canon queue s) :
    Kept canon queue (State.signalOne s l c k arm code bad) := by
  unfold State.signalOne
  try dsimp only
  repeat' (first | with_reducible assumption | intro _ | with_reducible apply kept_ite | with_reducible apply st_setCtx_kept | with_reducible apply st_setSpn_kept)

theorem st_settleJoins_kept (s : State) (l : ℕ) (c : ℕ) (x4 : ℕ) (h_s : Kept canon queue s) :
    Kept canon queue (State.settleJoins s l c x4) := by
  induction x4 generalizing s with
  | zero => exact h_s
  | succ n ih =>
    unfold State.settleJoins
    split
    · exact h_s
    · exact ih _ (st_signalOne_kept _ _ _ _ _ _ _ (st_setCtx_kept _ _ _ _ h_s))

theorem st_signalKnot_kept (s : State) (l : ℕ) (c : ℕ) (k : ℕ) (arm : ℕ) (code : Byte) (h_s : Kept canon queue s) :
    Kept canon queue (State.signalKnot s l c k arm code) := by
  unfold State.signalKnot
  try dsimp only
  repeat' (first | with_reducible assumption | intro _ | with_reducible apply kept_ite | with_reducible apply st_settleJoins_kept | with_reducible apply st_signalOne_kept)

theorem st_stopCtxs_kept (s : State) (j : ℕ) (h_s : Kept canon queue s) :
    Kept canon queue (State.stopCtxs s j) := by
  unfold State.stopCtxs
  try dsimp only
  repeat' (first | with_reducible assumption | intro _ | with_reducible apply kept_ite | with_reducible apply st_mapCtxs_kept)

theorem st_endJob_kept (s : State) (j : ℕ) (code : Byte) (h_s : Kept canon queue s) :
    Kept canon queue (State.endJob s j code) := by
  unfold State.endJob
  try dsimp only
  repeat' (first | with_reducible assumption | intro _ | with_reducible apply kept_ite | with_reducible apply st_stopCtxs_kept | with_reducible apply st_setJob_kept | split)

theorem st_skipFree_kept (s : State) (n : ℕ) (h_s : Kept canon queue s) :
    Kept canon queue (State.skipFree s n) := by
  unfold State.skipFree
  try dsimp only
  repeat' (first | with_reducible assumption | intro _ | with_reducible apply kept_ite | fail_if_no_progress with_reducible apply kept_mk)

theorem st_countSubmit_kept (s : State) (client : ℕ) (h_s : Kept canon queue s) :
    Kept canon queue (State.countSubmit s client) := by
  unfold State.countSubmit
  try dsimp only
  repeat' (first | with_reducible assumption | intro _ | with_reducible apply kept_ite | fail_if_no_progress with_reducible apply kept_mk)

theorem st_verify_kept (s : State) (w : ℕ) (v : ℕ) (h_s : Kept canon queue s) :
    Kept canon queue (State.verify s w v) := by
  unfold State.verify
  try dsimp only
  repeat' (first | with_reducible assumption | with_reducible apply wf_setBytes | with_reducible apply wf_setNat | with_reducible apply wf_setAll | with_reducible apply wf_set | intro _ | with_reducible apply kept_ite | with_reducible apply st_pageRetire_kept | fail_if_no_progress with_reducible apply kept_mk | with_reducible apply kept_mem)

theorem st_bankWord_kept (s : State) (off : ℕ) (v : ℕ) (h_s : Kept canon queue s) :
    Kept canon queue (State.bankWord s off v) := by
  unfold State.bankWord
  try dsimp only
  repeat' (first | with_reducible assumption | with_reducible apply wf_setBytes | with_reducible apply wf_setNat | with_reducible apply wf_setAll | with_reducible apply wf_set | intro _ | with_reducible apply kept_ite | with_reducible apply st_verify_kept | with_reducible apply st_baroWrite_kept | with_reducible apply st_wearOne_kept | fail_if_no_progress with_reducible apply kept_mk | with_reducible apply kept_mem | assumption)

theorem st_setFn_kept (s : State) (f : ℕ) (x : Fn) (h_s : Kept canon queue s) :
    Kept canon queue (State.setFn s f x) := by
  unfold State.setFn
  try dsimp only
  repeat' (first | with_reducible assumption | intro _ | with_reducible apply kept_ite | fail_if_no_progress with_reducible apply kept_mk)

theorem st_interrupt_kept (s : State) (f : ℕ) (v : ℕ) (h_s : Kept canon queue s) :
    Kept canon queue (State.interrupt s f v) := by
  unfold State.interrupt
  try dsimp only
  repeat' (first | with_reducible assumption | intro _ | with_reducible apply kept_ite | with_reducible apply st_emit_kept | fail_if_no_progress with_reducible apply kept_mk | assumption)

theorem st_closeShuttles_kept (s : State) (b : Job) (h_s : Kept canon queue s) :
    Kept canon queue (State.closeShuttles s b) := by
  unfold State.closeShuttles
  try dsimp only
  repeat' (first | with_reducible assumption | intro _ | with_reducible apply kept_ite | with_reducible apply st_setFrame_kept | with_reducible apply kept_foldl)

theorem st_mapSpns_kept (s : State) (f : ℕ → Spindle → Spindle) (h_s : Kept canon queue s) :
    Kept canon queue (State.mapSpns s f) := by
  unfold State.mapSpns
  try dsimp only
  repeat' (first | with_reducible assumption | intro _ | with_reducible apply kept_ite | fail_if_no_progress with_reducible apply kept_mk)

theorem st_dropQueued_kept (s : State) (j : ℕ) (h_s : Kept canon queue s) :
    Kept canon queue (State.dropQueued s j) := by
  unfold State.dropQueued
  try dsimp only
  repeat' (first | with_reducible assumption | intro _ | with_reducible apply kept_ite | with_reducible apply st_mapSpns_kept)

theorem st_freeSlots_kept (s : State) (j : ℕ) (h_s : Kept canon queue s) :
    Kept canon queue (State.freeSlots s j) := by
  unfold State.freeSlots
  try dsimp only
  repeat' (first | with_reducible assumption | intro _ | with_reducible apply kept_ite | fail_if_no_progress with_reducible apply kept_mk)

theorem st_releaseJob_kept (s : State) (j : ℕ) (b : Job) (h_s : Kept canon queue s) :
    Kept canon queue (State.releaseJob s j b) := by
  unfold State.releaseJob
  try dsimp only
  repeat' (first | with_reducible assumption | intro _ | with_reducible apply kept_ite | with_reducible apply st_freeSlots_kept | with_reducible apply st_dropQueued_kept | with_reducible apply st_mapSpns_kept | with_reducible apply st_closeShuttles_kept | fail_if_no_progress with_reducible apply kept_mk)

theorem st_repairNote_kept (s : State) (v : Word) (h_s : Kept canon queue s) :
    Kept canon queue (State.repairNote s v) := by
  unfold State.repairNote
  try dsimp only
  repeat' (first | with_reducible assumption | intro _ | with_reducible apply kept_ite | with_reducible apply st_bankWord_kept | fail_if_no_progress with_reducible apply kept_mk | split)

theorem st_bankBytes_kept (s : State) (off : ℕ) (bs : List Byte) (h_s : Kept canon queue s) :
    Kept canon queue (State.bankBytes s off bs) := by
  unfold State.bankBytes
  try dsimp only
  repeat' (first | with_reducible assumption | intro _ | with_reducible apply kept_ite | with_reducible apply st_bankWord_kept | with_reducible apply kept_foldl)

theorem st_idBytes_kept (s : State) (off : ℕ) (bs : List Byte) (h_s : Kept canon queue s) :
    Kept canon queue (State.idBytes s off bs) := by
  unfold State.idBytes
  try dsimp only
  repeat' (first | with_reducible assumption | intro _ | with_reducible apply kept_ite | with_reducible apply st_bankBytes_kept)

theorem st_identityBytes_kept (s : State) (off : ℕ) (bs : List Byte) (h_s : Kept canon queue s) :
    Kept canon queue (State.identityBytes s off bs) := by
  unfold State.identityBytes
  try dsimp only
  repeat' (first | with_reducible assumption | intro _ | with_reducible apply kept_ite | with_reducible apply st_idBytes_kept | with_reducible apply st_putAt_kept)

theorem st_countEnd_kept (s : State) (client : ℕ) (h_s : Kept canon queue s) :
    Kept canon queue (State.countEnd s client) := by
  unfold State.countEnd
  try dsimp only
  repeat' (first | with_reducible assumption | intro _ | with_reducible apply kept_ite | fail_if_no_progress with_reducible apply kept_mk)

theorem st_removeJob_kept (s : State) (j : ℕ) (status : Byte) (h_s : Kept canon queue s) :
    Kept canon queue (State.removeJob s j status) := by
  unfold State.removeJob
  try dsimp only
  repeat' (first | with_reducible assumption | intro _ | with_reducible apply kept_ite | with_reducible apply st_releaseJob_kept | with_reducible apply st_countEnd_kept | with_reducible apply st_complete_kept | split)

theorem st_draw_kept (s : State) (h_s : Kept canon queue s) :
    Kept canon queue (State.draw s).2 := by
  unfold State.draw
  try dsimp only
  repeat' (first | with_reducible assumption | intro _ | with_reducible apply kept_ite | fail_if_no_progress with_reducible apply kept_mk)

theorem st_ctlFault_kept (s : State) (w : Who) (code : ℕ) (inst : Word) (h_s : Kept canon queue s) :
    Kept canon queue (State.ctlFault s w code inst) := by
  unfold State.ctlFault
  try dsimp only
  repeat' (first | with_reducible assumption | intro _ | with_reducible apply kept_ite | with_reducible apply st_endJob_kept | with_reducible apply st_baroWrite_kept | with_reducible apply st_setWho_kept | with_reducible apply st_modJob_kept | split)

theorem st_setWp_kept (s : State) (n : ℕ) (v : Word) (h_s : Kept canon queue s) :
    Kept canon queue (State.setWp s n v) := by
  unfold State.setWp
  try dsimp only
  repeat' (first | with_reducible assumption | intro _ | with_reducible apply kept_ite | with_reducible apply st_bankWord_kept)

theorem st_markSite_kept (s : State) (p : ℕ) (st : ℕ) (h_s : Kept canon queue s) :
    Kept canon queue (State.markSite s p st) := by
  unfold State.markSite
  try dsimp only
  repeat' (first | with_reducible assumption | intro _ | with_reducible apply kept_ite | with_reducible apply st_bankBytes_kept | with_reducible apply st_setSite_kept)

theorem st_countRow_kept (s : State) (row : ℕ) (h_s : Kept canon queue s) :
    Kept canon queue (State.countRow s row).1 := by
  unfold State.countRow
  try dsimp only
  repeat' (first | with_reducible assumption | intro _ | with_reducible apply kept_ite | fail_if_no_progress with_reducible apply kept_mk)

theorem st_needReplay_kept (s : State) (j : ℕ) (code : Byte) (addr : ℕ) (h_s : Kept canon queue s) :
    Kept canon queue (State.needReplay s j code addr) := by
  unfold State.needReplay
  try dsimp only
  repeat' (first | with_reducible assumption | intro _ | with_reducible apply kept_ite | with_reducible apply st_endJob_kept | with_reducible apply st_setJob_kept | split)

theorem st_countFault_kept (s : State) (p : ℕ) (h_s : Kept canon queue s) :
    Kept canon queue (State.countFault s p) := by
  unfold State.countFault
  try dsimp only
  repeat' (first | with_reducible assumption | intro _ | with_reducible apply kept_ite | with_reducible apply st_setSite_kept | with_reducible apply st_bankBytes_kept | fail_if_no_progress with_reducible apply kept_mk)

theorem st_markSpmap_kept (s : State) (n : ℕ) (v : BitVec 32) (h_s : Kept canon queue s) :
    Kept canon queue (State.markSpmap s n v) := by
  unfold State.markSpmap
  try dsimp only
  repeat' (first | with_reducible assumption | intro _ | with_reducible apply kept_ite | with_reducible apply st_bankBytes_kept | with_reducible apply st_setSpmap_kept)

theorem st_substitute_kept (s : State) (n : ℕ) (h_s : Kept canon queue s) :
    Kept canon queue (State.substitute s n) := by
  unfold State.substitute
  try dsimp only
  repeat' (first | with_reducible assumption | intro _ | with_reducible apply kept_ite | with_reducible apply st_markSpmap_kept | with_reducible apply st_markSite_kept | with_reducible apply st_skipFree_kept | with_reducible apply st_baroWrite_kept | fail_if_no_progress with_reducible apply kept_mk | split)

theorem st_retireSite_kept (s : State) (p : ℕ) (cause : ℕ) (count : ℕ) (h_s : Kept canon queue s) :
    Kept canon queue (State.retireSite s p cause count) := by
  unfold State.retireSite
  try dsimp only
  repeat' (first | with_reducible assumption | intro _ | with_reducible apply kept_ite | with_reducible apply st_substitute_kept | with_reducible apply st_needReplay_kept | with_reducible apply st_markSite_kept | with_reducible apply st_repairNote_kept | with_reducible apply st_baroWrite_kept | with_reducible apply kept_foldl | split)

theorem st_attribute_kept (s : State) (p : ℕ) (h_s : Kept canon queue s) :
    Kept canon queue (State.attribute s p) := by
  unfold State.attribute
  try dsimp only
  repeat' (first | with_reducible assumption | intro _ | with_reducible apply kept_ite | with_reducible apply st_retireSite_kept | with_reducible apply st_countFault_kept)

theorem st_spareRow_kept (s : State) (row : ℕ) (part : ℕ) (count : ℕ) (tier : ℕ) (h_s : Kept canon queue s) :
    KeptOpt canon queue (State.spareRow s row part count tier) := by
  unfold State.spareRow
  try dsimp only
  repeat' (first | with_reducible assumption | intro _ | with_reducible apply keptOpt_some | with_reducible apply keptOpt_none | with_reducible apply keptOpt_ite | with_reducible apply kept_ite | with_reducible apply st_baroWrite_kept | with_reducible apply st_repairNote_kept | fail_if_no_progress with_reducible apply kept_mk)

theorem st_storeCorrected_kept (s : State) (p : ℕ) (w : ℕ) (h_s : Kept canon queue s) :
    Kept canon queue (State.storeCorrected s p w) := by
  unfold State.storeCorrected
  try dsimp only
  repeat' (first | with_reducible assumption | intro _ | with_reducible apply kept_ite | with_reducible apply st_retireSite_kept | with_reducible apply st_spareRow_kept | with_reducible apply st_countRow_kept | fail_if_no_progress with_reducible apply kept_mk | refine keptOpt_elim ?_ (by with_reducible assumption) | assumption | split)

theorem st_devSet_kept (s : State) (l : ℕ) (c : ℕ) (a : ℕ) (n : ℕ) (v : ℕ) (h_s : Kept canon queue s) :
    Kept canon queue (State.devSet s l c a n v) := by
  unfold State.devSet
  exact kept_mem h_s fun h => wf_setAll _ h

theorem st_spill_kept (s : State) (l : ℕ) (c : ℕ) (t : ℕ) (inf : Bool) (h_s : Kept canon queue s) :
    Kept canon queue (State.spill s l c t inf).1 := by
  unfold State.spill
  dsimp only
  exact st_setCtx_kept _ _ _ _ (kept_foldlFst (fun a p h => st_devSet_kept _ _ _ _ _ _ h) h_s)

theorem mxPasses_kept (s : State) (q : QOp) (j : PassJob) (lo : ℕ) (hi : ℕ) (h_s : Kept canon queue s) :
    Kept canon queue (mxPasses s q j lo hi).1 := by
  unfold mxPasses
  dsimp only
  refine kept_foldlFst (fun a p h => ?_) h_s
  split
  · exact st_spill_kept _ _ _ _ _ (st_setCtx_kept _ _ _ _ h)
  · exact st_setCtx_kept _ _ _ _ h

theorem mxPart_kept (s : State) (q : QOp) (sh : Shape) (lo : ℕ) (hi : ℕ) (h_s : Kept canon queue s) :
    Kept canon queue (mxPart s q sh lo hi).1 := by
  unfold mxPart
  try dsimp only
  repeat' (first | with_reducible assumption | intro _ | with_reducible apply kept_ite | with_reducible apply mxPasses_kept | split)

theorem runMx_kept (s : State) (q : QOp) (sh : Shape) (h_s : Kept canon queue s) :
    Kept canon queue (runMx s q sh).1 := by
  unfold runMx
  try dsimp only
  repeat' (first | with_reducible assumption | intro _ | with_reducible apply kept_ite | with_reducible apply mxPart_kept)

theorem runAccOpen_kept (s : State) (q : QOp) (h_s : Kept canon queue s) :
    Kept canon queue (runAccOpen s q).1 := by
  unfold runAccOpen
  try dsimp only
  repeat' (first | with_reducible assumption | intro _ | with_reducible apply kept_ite | with_reducible apply st_devSet_kept | with_reducible apply st_setCtx_kept | with_reducible apply kept_foldl | split)

theorem drainAfter_kept (s : State) (q : QOp) (after : ℕ) (h_s : Kept canon queue s) :
    Kept canon queue (drainAfter s q after) := by
  unfold drainAfter
  try dsimp only
  repeat' (first | with_reducible assumption | intro _ | with_reducible apply kept_ite | with_reducible apply st_devSet_kept | with_reducible apply st_setCtx_kept | with_reducible apply kept_foldl | split)

theorem runDrain_kept (s : State) (q : QOp) (h_s : Kept canon queue s) :
    Kept canon queue (runDrain s q).1 := by
  unfold runDrain
  try dsimp only
  repeat' (first | with_reducible assumption | intro _ | with_reducible apply kept_ite | with_reducible apply drainAfter_kept | with_reducible apply st_spill_kept | with_reducible apply kept_foldl | split)

theorem runTw_kept (s : State) (q : QOp) (k : TwKind) (h_s : Kept canon queue s) :
    Kept canon queue (runTw s q k).1 := by
  unfold runTw
  try dsimp only
  repeat' (first | with_reducible assumption)

theorem runReel_kept (s : State) (q : QOp) (h_s : Kept canon queue s) :
    Kept canon queue (runReel s q).1 := by
  unfold runReel
  try dsimp only
  repeat' (first | with_reducible assumption)

theorem done_kept (s : State) (x : OpR) (h_s : Kept canon queue s) :
    Kept canon queue (done s x).1 := by
  unfold done
  try dsimp only
  repeat' (first | with_reducible assumption)

theorem runTopk_kept (s : State) (q : QOp) (h_s : Kept canon queue s) :
    Kept canon queue (runTopk s q).1 := by
  unfold runTopk
  try dsimp only
  repeat' (first | with_reducible assumption | intro _ | with_reducible apply kept_ite | with_reducible apply done_kept)

theorem runReduce_kept (s : State) (q : QOp) (ok : List Form) (useT : Bool) (fn : Option ℤ → ℕ → List Val → Res × Flags) (h_s : Kept canon queue s) :
    Kept canon queue (runReduce s q ok useT fn).1 := by
  unfold runReduce
  try dsimp only
  repeat' (first | with_reducible assumption | intro _ | with_reducible apply kept_ite | with_reducible apply done_kept)

theorem runSoftmax_kept (s : State) (q : QOp) (h_s : Kept canon queue s) :
    Kept canon queue (runSoftmax s q).1 := by
  unfold runSoftmax
  try dsimp only
  repeat' (first | with_reducible assumption | intro _ | with_reducible apply kept_ite | with_reducible apply done_kept)

theorem runElementwise_kept (s : State) (q : QOp) (o : EOp) (h_s : Kept canon queue s) :
    Kept canon queue (runElementwise s q o).1 := by
  unfold runElementwise
  try dsimp only
  repeat' (first | with_reducible assumption | intro _ | with_reducible apply kept_ite | with_reducible apply done_kept)

theorem runAmax_kept (s : State) (q : QOp) (h_s : Kept canon queue s) :
    Kept canon queue (runAmax s q).1 := by
  unfold runAmax
  try dsimp only
  repeat' (first | with_reducible assumption | intro _ | with_reducible apply kept_ite | with_reducible apply done_kept)

theorem runXpose_kept (s : State) (q : QOp) (h_s : Kept canon queue s) :
    Kept canon queue (runXpose s q).1 := by
  unfold runXpose
  try dsimp only
  repeat' (first | with_reducible assumption | intro _ | with_reducible apply kept_ite | with_reducible apply done_kept)

theorem runCombine_kept (s : State) (q : QOp) (h_s : Kept canon queue s) :
    Kept canon queue (runCombine s q).1 := by
  unfold runCombine
  try dsimp only
  repeat' (first | with_reducible assumption | intro _ | with_reducible apply kept_ite | with_reducible apply done_kept)

theorem runLogFn_kept (s : State) (q : QOp) (fn : Option ℤ → Option LFn) (useT : Bool) (h_s : Kept canon queue s) :
    Kept canon queue (runLogFn s q fn useT).1 := by
  unfold runLogFn
  try dsimp only
  repeat' (first | with_reducible assumption | intro _ | with_reducible apply kept_ite | with_reducible apply done_kept)

theorem runDq_kept (s : State) (q : QOp) (h_s : Kept canon queue s) :
    Kept canon queue (runDq s q).1 := by
  unfold runDq
  try dsimp only
  repeat' (first | with_reducible assumption | intro _ | with_reducible apply kept_ite | with_reducible apply done_kept)

theorem runSel_kept (s : State) (q : QOp) (h_s : Kept canon queue s) :
    Kept canon queue (runSel s q).1 := by
  unfold runSel
  try dsimp only
  repeat' (first | with_reducible assumption | intro _ | with_reducible apply kept_ite | with_reducible apply done_kept)

theorem runQz_kept (s : State) (q : QOp) (h_s : Kept canon queue s) :
    Kept canon queue (runQz s q).1 := by
  unfold runQz
  try dsimp only
  repeat' (first | with_reducible assumption | intro _ | with_reducible apply kept_ite | with_reducible apply done_kept)

theorem runTopkmerge_kept (s : State) (q : QOp) (h_s : Kept canon queue s) :
    Kept canon queue (runTopkmerge s q).1 := by
  unfold runTopkmerge
  try dsimp only
  repeat' (first | with_reducible assumption | intro _ | with_reducible apply kept_ite | with_reducible apply done_kept)

theorem runExtreme_kept (s : State) (q : QOp) (mx : Bool) (h_s : Kept canon queue s) :
    Kept canon queue (runExtreme s q mx).1 := by
  unfold runExtreme
  try dsimp only
  repeat' (first | with_reducible assumption | intro _ | with_reducible apply kept_ite | with_reducible apply done_kept)

theorem runEmit_kept (s : State) (q : QOp) (h_s : Kept canon queue s) :
    Kept canon queue (runEmit s q).1 := by
  unfold runEmit
  try dsimp only
  repeat' (first | with_reducible assumption | intro _ | with_reducible apply kept_ite | with_reducible apply st_setJob_kept | with_reducible apply kept_foldl | split)

theorem runKltopk_kept (s : State) (q : QOp) (h_s : Kept canon queue s) :
    Kept canon queue (runKltopk s q).1 := by
  unfold runKltopk
  try dsimp only
  repeat' (first | with_reducible assumption | intro _ | with_reducible apply kept_ite | with_reducible apply kept_foldl | fail_if_no_progress with_reducible apply kept_mk | split)

theorem runFree_kept (s : State) (q : QOp) (h_s : Kept canon queue s) :
    Kept canon queue (runFree s q).1 := by
  unfold runFree
  try dsimp only
  repeat' (first | with_reducible assumption | intro _ | with_reducible apply kept_ite | with_reducible apply st_modJob_kept | with_reducible apply st_setFrame_kept | with_reducible apply kept_foldl | split)

theorem runScan_kept (s : State) (q : QOp) (h_s : Kept canon queue s) :
    Kept canon queue (runScan s q).1 := by
  unfold runScan
  try dsimp only
  repeat' (first | with_reducible assumption | intro _ | with_reducible apply kept_ite | with_reducible apply kept_foldl | fail_if_no_progress with_reducible apply kept_mk | split)

theorem runTake_kept (s : State) (q : QOp) (h_s : Kept canon queue s) :
    Kept canon queue (runTake s q).1 := by
  unfold runTake
  try dsimp only
  repeat' (first | with_reducible assumption | intro _ | with_reducible apply kept_ite | with_reducible apply st_modJob_kept | with_reducible apply st_setFrame_kept | split)

theorem runApply_kept (s : State) (q : QOp) (h_s : Kept canon queue s) :
    Kept canon queue (runApply s q).1 := by
  unfold runApply
  try dsimp only
  repeat' (first | with_reducible assumption | intro _ | with_reducible apply kept_ite | with_reducible apply kept_foldl | fail_if_no_progress with_reducible apply kept_mk | split)

theorem runStat_kept (s : State) (q : QOp) (h_s : Kept canon queue s) :
    Kept canon queue (runStat s q).1 := by
  unfold runStat
  try dsimp only
  repeat' (first | with_reducible assumption | intro _ | with_reducible apply kept_ite | with_reducible apply kept_foldl | split)

theorem st_setChan_kept (s : State) (j : ℕ) (n : ℕ) (c : Chan) (h_s : Kept canon queue s) :
    Kept canon queue (State.setChan s j n c) := by
  unfold State.setChan
  try dsimp only
  repeat' (first | with_reducible assumption | intro _ | with_reducible apply kept_ite | with_reducible apply st_modJob_kept)

theorem runPsend_kept (s : State) (q : QOp) (h_s : Kept canon queue s) :
    Kept canon queue (runPsend s q).1 := by
  unfold runPsend
  try dsimp only
  repeat' (first | with_reducible assumption | intro _ | with_reducible apply kept_ite | with_reducible apply st_setChan_kept | split)

theorem runPrecv_kept (s : State) (q : QOp) (h_s : Kept canon queue s) :
    Kept canon queue (runPrecv s q).1 := by
  unfold runPrecv
  try dsimp only
  repeat' (first | with_reducible assumption | intro _ | with_reducible apply kept_ite | with_reducible apply st_setChan_kept | split)

theorem st_sendDir_kept (s : State) (g : ℕ) (x : Send) (h_s : Kept canon queue s) :
    Kept canon queue (State.sendDir s g x) := by
  unfold State.sendDir
  try dsimp only
  repeat' (first | with_reducible assumption | intro _ | with_reducible apply kept_ite | with_reducible apply st_routeOut_kept | with_reducible apply st_transmit_kept | with_reducible apply st_header_kept | split)

theorem st_setTileOf_kept (s : State) (q : QOp) (t : Tile) (h_s : Kept canon queue s) :
    Kept canon queue (State.setTileOf s q t) := by
  unfold State.setTileOf
  try dsimp only
  repeat' (first | with_reducible assumption | intro _ | with_reducible apply kept_ite | with_reducible apply st_setCtx_kept)

theorem st_bumpElem_kept (s : State) (q : QOp) (e : ℕ × ℤ) (h_s : Kept canon queue s) :
    Kept canon queue (State.bumpElem s q e) := by
  unfold State.bumpElem
  try dsimp only
  repeat' (first | with_reducible assumption | intro _ | with_reducible apply kept_ite | with_reducible apply st_setTileOf_kept)

theorem runKind_kept (s : State) (q : QOp) (h_s : Kept canon queue s) :
    Kept canon queue (runKind s q).1 := by
  unfold runKind
  try dsimp only
  repeat' (first | with_reducible assumption | intro _ | with_reducible apply kept_ite | with_reducible apply runMx_kept | with_reducible apply runAccOpen_kept | with_reducible apply runDrain_kept | with_reducible apply runReel_kept | with_reducible apply runTw_kept | with_reducible apply runQz_kept | with_reducible apply runReduce_kept | with_reducible apply runXpose_kept | with_reducible apply runElementwise_kept | with_reducible apply runTopk_kept | with_reducible apply runCombine_kept | with_reducible apply runDq_kept | with_reducible apply runLogFn_kept | with_reducible apply runAmax_kept | with_reducible apply runTopkmerge_kept | with_reducible apply runSoftmax_kept | with_reducible apply runSel_kept | with_reducible apply runExtreme_kept | with_reducible apply runEmit_kept | with_reducible apply runFree_kept | with_reducible apply runScan_kept | with_reducible apply runTake_kept | with_reducible apply runKltopk_kept | with_reducible apply runStat_kept | with_reducible apply runApply_kept | with_reducible apply runPrecv_kept | with_reducible apply runPsend_kept | fail_if_no_progress with_reducible apply kept_mk | assumption | split)

theorem runOp_kept (s : State) (q : QOp) (h_s : Kept canon queue s) :
    Kept canon queue (runOp s q).1 := by
  unfold runOp
  try dsimp only
  repeat' (first | with_reducible assumption | intro _ | with_reducible apply kept_ite | with_reducible apply runKind_kept | assumption | split)

theorem runStruck_kept (s : State) (q : QOp) (us : List Upset) (h_s : Kept canon queue s) :
    Kept canon queue (runStruck s q us).1 := by
  unfold runStruck
  try dsimp only
  repeat' (first | with_reducible assumption | intro _ | with_reducible apply kept_ite | with_reducible apply runOp_kept | with_reducible apply st_bumpElem_kept | with_reducible apply kept_foldl | split)

theorem st_freeTile_kept (s : State) (q : QOp) (h_s : Kept canon queue s) :
    Kept canon queue (State.freeTile s q) := by
  unfold State.freeTile
  try dsimp only
  repeat' (first | with_reducible assumption | intro _ | with_reducible apply kept_ite | with_reducible apply st_setTileOf_kept | with_reducible apply st_skipFree_kept | with_reducible apply kept_foldl | split)

theorem st_overtakeOne_kept (s : State) (ws : List Host.Cell) (r : ROp) (h_s : Kept canon queue s) :
    Kept canon queue (State.overtakeOne s ws r).1 := by
  unfold State.overtakeOne
  dsimp only
  split
  · exact h_s
  · split
    · exact st_skipFree_kept _ _ h_s
    · split
      · exact st_freeTile_kept _ _ h_s
      · exact st_skipFree_kept _ _ h_s

theorem st_overtakeIn_kept (s : State) (ws : List Host.Cell) (l : ℕ) (h_s : Kept canon queue s) :
    Kept canon queue (State.overtakeIn s ws l) := by
  unfold State.overtakeIn
  refine st_setSpn_kept _ _ _ (kept_foldlFst (fun _ _ h => ?_) h_s)
  exact st_overtakeOne_kept _ _ _ h

theorem st_overtake_kept (s : State) (ws : List Host.Cell) (h_s : Kept canon queue s) :
    Kept canon queue (State.overtake s ws) := by
  unfold State.overtake
  try dsimp only
  repeat' (first | with_reducible assumption | intro _ | with_reducible apply kept_ite | with_reducible apply st_overtakeIn_kept | with_reducible apply kept_foldl)

theorem st_residueRec_kept (s : State) (q : QOp) (n : ℕ) (unit : ℕ) (h_s : Kept canon queue s) :
    Kept canon queue (State.residueRec s q n unit) := by
  unfold State.residueRec
  try dsimp only
  repeat' (first | with_reducible assumption | intro _ | with_reducible apply kept_ite | with_reducible apply st_baroWrite_kept | split)

theorem st_retireAgain_kept (s : State) (p : ℕ) (h_s : Kept canon queue s) :
    Kept canon queue (State.retireAgain s p) := by
  unfold State.retireAgain
  try dsimp only
  repeat' (first | with_reducible assumption | intro _ | with_reducible apply kept_ite | with_reducible apply st_retireSite_kept)

theorem groupUpset_kept (s : State) (s' : State) (q : QOp) (r : Run) (unit : ℕ) (again : Bool) (h_s : Kept canon queue s) (h_s' : Kept canon queue s') :
    Kept canon queue (groupUpset s s' q r unit again).1 := by
  unfold groupUpset
  try dsimp only
  repeat' (first | with_reducible assumption | intro _ | with_reducible apply kept_ite | with_reducible apply st_attribute_kept | with_reducible apply st_residueRec_kept | with_reducible apply st_retireAgain_kept | assumption | split)

theorem checkGroup_kept (s : State) (s' : State) (q : QOp) (r : Run) (u : Upset) (unit : ℕ) (h_s : Kept canon queue s) (h_s' : Kept canon queue s') :
    Kept canon queue (checkGroup s s' q r u unit).1 := by
  unfold checkGroup
  try dsimp only
  repeat' (first | with_reducible assumption | intro _ | with_reducible apply kept_ite | with_reducible apply st_skipFree_kept | with_reducible apply groupUpset_kept | assumption | split)

theorem st_countTrep_kept (s : State) (h_s : Kept canon queue s) :
    Kept canon queue (State.countTrep s) := by
  unfold State.countTrep
  try dsimp only
  repeat' (first | with_reducible assumption | intro _ | with_reducible apply kept_ite | fail_if_no_progress with_reducible apply kept_mk)

theorem st_rewindTile_kept (s : State) (q : QOp) (h_s : Kept canon queue s) :
    KeptOpt canon queue (State.rewindTile s q) := by
  unfold State.rewindTile
  try dsimp only
  repeat' (first | with_reducible assumption | intro _ | with_reducible apply kept_ite | with_reducible apply runOp_kept | with_reducible apply st_setTileOf_kept | with_reducible apply keptOpt_some | with_reducible apply keptOpt_none | with_reducible apply keptOpt_ite | with_reducible apply kept_getD | with_reducible apply keptOpt_mapSt | with_reducible apply keptOpt_map | refine keptOpt_elim ?_ (by with_reducible assumption) | split)

theorem st_replayTile_kept (s : State) (q : QOp) (h_s : Kept canon queue s) :
    KeptOpt canon queue (State.replayTile s q) := by
  unfold State.replayTile
  try dsimp only
  repeat' (first | with_reducible assumption | intro _ | with_reducible apply kept_ite | with_reducible apply st_rewindTile_kept | with_reducible apply mxPart_kept | with_reducible apply kept_foldl | with_reducible apply keptOpt_some | with_reducible apply keptOpt_none | with_reducible apply keptOpt_ite | with_reducible apply kept_getD | with_reducible apply keptOpt_mapSt | with_reducible apply keptOpt_map | refine keptOpt_elim ?_ (by with_reducible assumption) | split)

theorem storeUpset_kept (s : State) (q : QOp) (unit : ℕ) (again : Bool) (h_s : Kept canon queue s) :
    Kept canon queue (storeUpset s q unit again).1 := by
  unfold storeUpset
  try dsimp only
  repeat' (first | with_reducible assumption | intro _ | with_reducible apply kept_ite | with_reducible apply st_replayTile_kept | with_reducible apply st_countTrep_kept | with_reducible apply st_residueRec_kept | with_reducible apply runOp_kept | with_reducible apply st_attribute_kept | with_reducible apply keptOpt_some | with_reducible apply keptOpt_none | with_reducible apply keptOpt_ite | with_reducible apply kept_getD | with_reducible apply keptOpt_mapSt | with_reducible apply keptOpt_map | refine keptOpt_elim ?_ (by with_reducible assumption) | split)

theorem checkPass_kept (s : State) (a : Checked) (q : QOp) (u : Upset) (unit : ℕ) (h_s : Kept canon queue s) (h_a : Kept canon queue a.1) :
    Kept canon queue (checkPass s a q u unit).1 := by
  unfold checkPass
  try dsimp only
  repeat' (first | with_reducible assumption | intro _ | with_reducible apply kept_ite | with_reducible apply storeUpset_kept | with_reducible apply st_setTileOf_kept | split)

theorem checkOne_kept (s : State) (q : QOp) (a : Checked) (u : Upset) (h_s : Kept canon queue s) (h_a : Kept canon queue a.1) :
    Kept canon queue (checkOne s q a u).1 := by
  unfold checkOne
  try dsimp only
  repeat' (first | with_reducible assumption | intro _ | with_reducible apply kept_ite | with_reducible apply checkPass_kept | with_reducible apply storeUpset_kept | with_reducible apply checkGroup_kept | with_reducible apply st_residueRec_kept | with_reducible apply st_storeCorrected_kept | split)

theorem checks_kept (s : State) (s' : State) (q : QOp) (r : Run) (us : List Upset) (h_s : Kept canon queue s) (h_s' : Kept canon queue s') :
    Kept canon queue (checks s s' q r us).1 := by
  unfold checks
  refine kept_foldlFst (fun _ _ h => checkOne_kept _ _ _ _ h_s h) ?_
  split
  · exact storeUpset_kept _ _ _ _ h_s
  · exact h_s'

theorem st_checkPoint_kept (s : State) (q : QOp) (base : Option QOp) (kept : Table (ℕ × ℕ)) (h_s : Kept canon queue s) :
    Kept canon queue (State.checkPoint s q base kept) := by
  unfold State.checkPoint
  try dsimp only
  repeat' (first | with_reducible assumption | intro _ | with_reducible apply kept_ite | with_reducible apply st_setCtx_kept | with_reducible apply st_setSpn_kept)

theorem st_journalAdd_kept (s : State) (q : QOp) (from_ : ℕ) (us : List ℕ) (h_s : Kept canon queue s) :
    Kept canon queue (State.journalAdd s q from_ us) := by
  unfold State.journalAdd
  try dsimp only
  repeat' (first | with_reducible assumption | intro _ | with_reducible apply kept_ite | with_reducible apply st_setCtx_kept | with_reducible apply st_setSpn_kept)

theorem journalOp_kept (s : State) (s' : State) (q : QOp) (_h_s : Kept canon queue s) (h_s' : Kept canon queue s') :
    Kept canon queue (journalOp s s' q) := by
  unfold journalOp
  try dsimp only
  repeat' (first | with_reducible assumption | intro _ | with_reducible apply kept_ite | with_reducible apply st_checkPoint_kept | with_reducible apply st_journalAdd_kept | fail_if_no_progress with_reducible apply kept_mk | assumption | split)

theorem runSeen_kept (s : State) (q : QOp) (us : List Upset) (h_s : Kept canon queue s) :
    Kept canon queue (runSeen s q us).1 := by
  unfold runSeen
  split
  · exact runStruck_kept _ _ _ h_s
  · exact kept_mem (runStruck_kept _ _ _ (kept_mem h_s fun h => wf_setAll _ h)) fun h => wf_setAll _ h

theorem sample_kept (s : State) (s' : State) (q : QOp) (r : Run) (_h_s : Kept canon queue s) (h_s' : Kept canon queue s') :
    Kept canon queue (sample s s' q r) := by
  unfold sample
  try dsimp only
  repeat' (first | with_reducible assumption | intro _ | with_reducible apply kept_ite | fail_if_no_progress with_reducible apply kept_mk | assumption | split)

theorem st_startOp_kept (s : State) (e : Engine) (q : QOp) (us : List Upset) (h_s : Kept canon queue s) :
    Kept canon queue (State.startOp s e q us) := by
  unfold State.startOp
  dsimp only
  have h1 := st_setSpn_kept s q.lspn ((s.spn q.lspn).setQueue e (((s.spn q.lspn).queue e).erase q)) h_s
  generalize State.setSpn _ _ _ = v at h1 ⊢
  have h2 := runSeen_kept v q us h1
  generalize runSeen v q us = o at h2 ⊢
  have h3 : Kept canon queue (if o.2.code = 0 then checks v o.1 q o.2 us else (o.1, o.2, none)).1 := by
    split
    · exact checks_kept _ _ _ _ _ h1 h2
    · exact h2
  generalize ite (o.2.code = 0) _ _ = f at h3 ⊢
  have h4 : Kept canon queue (if f.2.1.code = 0x40 then f.1 else journalOp v f.1 q) := kept_ite h3 (journalOp_kept _ _ _ h1 h3)
  generalize ite (f.2.1.code = 0x40) _ _ = g at h4 ⊢
  exact st_setSpn_kept _ _ _ (st_overtake_kept _ _ (kept_ite (sample_kept _ _ _ _ h1 h4) h4))

theorem st_atomicAt_kept (s : State) (a : Atom) (h_s : Kept canon queue s) :
    Kept canon queue (State.atomicAt s a) := by
  refine kept_mem h_s fun h => ?_
  unfold atomic
  split <;> exact wf_setNat _ _ _ h

theorem st_passOver_kept (s : State) (e : Engine) (q : QOp) (h_s : Kept canon queue s) :
    Kept canon queue (State.passOver s e q) := by
  unfold State.passOver
  try dsimp only
  repeat' (first | with_reducible assumption | intro _ | with_reducible apply kept_ite | with_reducible apply st_setSpn_kept)

theorem st_addFlags_kept (s : State) (q : QOp) (f : Flags) (h_s : Kept canon queue s) :
    Kept canon queue (State.addFlags s q f) := by
  unfold State.addFlags
  try dsimp only
  repeat' (first | with_reducible assumption | intro _ | with_reducible apply kept_ite | with_reducible apply st_setCtx_kept)

theorem st_faultRec_kept (s : State) (b : Job) (r : ROp) (n : ℕ) (h_s : Kept canon queue s) :
    Kept canon queue (State.faultRec s b r n) := by
  unfold State.faultRec
  try dsimp only
  repeat' (first | with_reducible assumption | intro _ | with_reducible apply kept_ite | with_reducible apply st_retireAgain_kept | with_reducible apply st_attribute_kept | with_reducible apply st_baroWrite_kept | split)

theorem st_replayOrEnd_kept (s : State) (j : ℕ) (b : Job) (code : Byte) (ids : List ℕ) (rec_ : ℕ → State → State) (h_s : Kept canon queue s) (h_rec_ : ∀ y0 y1, Kept canon queue y1 → Kept canon queue (rec_ y0 y1)) :
    Kept canon queue (State.replayOrEnd s j b code ids rec_) := by
  unfold State.replayOrEnd
  try dsimp only
  repeat' (first | with_reducible assumption | intro _ | with_reducible apply kept_ite | with_reducible apply h_rec_ | with_reducible apply st_needReplay_kept | with_reducible apply st_endJob_kept | with_reducible apply kept_foldl)

theorem st_engineFault_kept (s : State) (r : ROp) (h_s : Kept canon queue s) :
    Kept canon queue (State.engineFault s r) := by
  unfold State.engineFault
  try dsimp only
  repeat' (first | with_reducible assumption | intro _ | with_reducible apply kept_ite | with_reducible apply st_replayOrEnd_kept | with_reducible apply st_faultRec_kept | with_reducible apply st_endJob_kept | with_reducible apply st_setJob_kept | split)

theorem st_reap_kept (s : State) (h_s : Kept canon queue s) :
    Kept canon queue (State.reap s) := by
  unfold State.reap
  try dsimp only
  repeat' (first | with_reducible assumption | intro _ | with_reducible apply kept_ite | with_reducible apply st_removeJob_kept | with_reducible apply kept_foldl | split)

theorem st_finishOp_kept (s : State) (l : ℕ) (e : Engine) (h_s : Kept canon queue s) :
    Kept canon queue (State.finishOp s l e) := by
  unfold State.finishOp
  split
  · exact h_s
  · rename_i er _
    have h1 := st_setSpn_kept s l { (s.spn l).advance (er.2.writes ++ er.2.atoms.map fun a => (a.addr, 0)) with
      running := ((s.spn l).advance (er.2.writes ++ er.2.atoms.map fun a => (a.addr, 0))).running.erase er } h_s
    refine st_reap_kept _ (st_engineFault_kept _ _ (kept_ite ?_ (st_signalKnot_kept _ _ _ _ _ _ ?_))) <;>
    · split
      · refine st_setCtx_kept _ _ _ _ ?_
        split
        · exact st_setFrame_kept _ _ _ (st_sendAll_kept _ _ (st_addFlags_kept _ _ _ (st_modJob_kept _ _ _ (kept_foldl
            (fun t a h => st_atomicAt_kept _ _ h) (kept_mem h1 fun h => wf_setAll _ h)))))
        · exact st_sendAll_kept _ _ (st_addFlags_kept _ _ _ (st_modJob_kept _ _ _ (kept_foldl
            (fun t a h => st_atomicAt_kept _ _ h) (kept_mem h1 fun h => wf_setAll _ h))))
      · split
        · exact st_setFrame_kept _ _ _ (st_sendAll_kept _ _ (st_addFlags_kept _ _ _ (st_modJob_kept _ _ _ (kept_foldl
            (fun t a h => st_atomicAt_kept _ _ h) (kept_mem h1 fun h => wf_setAll _ h)))))
        · exact st_sendAll_kept _ _ (st_addFlags_kept _ _ _ (st_modJob_kept _ _ _ (kept_foldl
            (fun t a h => st_atomicAt_kept _ _ h) (kept_mem h1 fun h => wf_setAll _ h))))

theorem st_issueOp_kept (s : State) (w : Who) (op : Instr) (i : Iss) (b : Job) (x : Ctx) (h_s : Kept canon queue s) :
    Kept canon queue (State.issueOp s w op i b x) := by
  unfold State.issueOp
  try dsimp only
  repeat' (first | with_reducible assumption | intro _ | with_reducible apply kept_ite | with_reducible apply st_setWho_kept | with_reducible apply st_setSpn_kept)

theorem st_controller_kept (s : State) (w : Who) (word : Word) (bad : Bool) (eff : Job → Ctx → State) (h_s : Kept canon queue s) (h_eff : ∀ y0 y1, Kept canon queue (eff y0 y1)) :
    Kept canon queue (State.controller s w word bad eff) := by
  unfold State.controller
  try dsimp only
  repeat' (first | with_reducible assumption | intro _ | with_reducible apply kept_ite | with_reducible apply h_eff | with_reducible apply st_reap_kept | with_reducible apply st_ctlFault_kept | split)

theorem st_issue_kept (s : State) (w : Who) (op : Instr) (i : Iss) (h_s : Kept canon queue s) :
    Kept canon queue (State.issue s w op i) := by
  unfold State.issue
  try dsimp only
  repeat' (first | with_reducible assumption | intro _ | with_reducible apply kept_ite | with_reducible apply st_controller_kept | with_reducible apply st_issueOp_kept)

theorem st_fileView_kept (s : State) (l : ℕ) (c : ℕ) (h_s : Kept canon queue s) :
    Kept canon queue (State.fileView s l c) := by
  unfold State.fileView
  try dsimp only
  repeat' (first | with_reducible assumption | with_reducible apply wf_setBytes | with_reducible apply wf_setNat | with_reducible apply wf_setAll | with_reducible apply wf_set | intro _ | with_reducible apply kept_ite | fail_if_no_progress with_reducible apply kept_mk | with_reducible apply kept_mem)

end Sys2Proof.Laws
end

