-- ==== Sys2Proof/Laws/KeptJobs.lean ====
section
/-! SUPPORT. What every operation keeps (Laws/Kept.lean): jobs, placement, step boundaries and campaigns. -/

set_option maxRecDepth 4000

namespace Sys2Proof.Laws

open Sys2Proof.Machine

variable {canon : Prop} {queue : List Instr}

theorem execAccOpen_kept (w : Who) (f : EForm) (s : State) (h_s : Kept canon queue s) :
    KeptOut canon queue (execAccOpen w f s) := by
  unfold execAccOpen
  try dsimp only
  repeat' (first | with_reducible assumption | intro _ | with_reducible apply kept_next | with_reducible apply keptOut_ite | with_reducible apply kept_ite | with_reducible apply st_issue_kept)

theorem execMxQ_kept (w : Who) (f : EForm) (s : State) (h_s : Kept canon queue s) :
    KeptOut canon queue (execMxQ w f s) := by
  unfold execMxQ
  try dsimp only
  repeat' (first | with_reducible assumption | intro _ | with_reducible apply kept_next | with_reducible apply keptOut_ite | with_reducible apply kept_ite | with_reducible apply st_issue_kept)

theorem execMxRib16_kept (w : Who) (f : EForm) (s : State) (h_s : Kept canon queue s) :
    KeptOut canon queue (execMxRib16 w f s) := by
  unfold execMxRib16
  try dsimp only
  repeat' (first | with_reducible assumption | intro _ | with_reducible apply kept_next | with_reducible apply keptOut_ite | with_reducible apply kept_ite | with_reducible apply st_issue_kept)

theorem execMxRib32_kept (w : Who) (f : EForm) (s : State) (h_s : Kept canon queue s) :
    KeptOut canon queue (execMxRib32 w f s) := by
  unfold execMxRib32
  try dsimp only
  repeat' (first | with_reducible assumption | intro _ | with_reducible apply kept_next | with_reducible apply keptOut_ite | with_reducible apply kept_ite | with_reducible apply st_issue_kept)

theorem execMxH_kept (w : Who) (f : EForm) (s : State) (h_s : Kept canon queue s) :
    KeptOut canon queue (execMxH w f s) := by
  unfold execMxH
  try dsimp only
  repeat' (first | with_reducible assumption | intro _ | with_reducible apply kept_next | with_reducible apply keptOut_ite | with_reducible apply kept_ite | with_reducible apply st_issue_kept)

theorem execMxF_kept (w : Who) (f : EForm) (s : State) (h_s : Kept canon queue s) :
    KeptOut canon queue (execMxF w f s) := by
  unfold execMxF
  try dsimp only
  repeat' (first | with_reducible assumption | intro _ | with_reducible apply kept_next | with_reducible apply keptOut_ite | with_reducible apply kept_ite | with_reducible apply st_issue_kept)

theorem execAccDrain_kept (w : Who) (f : EForm) (s : State) (h_s : Kept canon queue s) :
    KeptOut canon queue (execAccDrain w f s) := by
  unfold execAccDrain
  try dsimp only
  repeat' (first | with_reducible assumption | intro _ | with_reducible apply kept_next | with_reducible apply keptOut_ite | with_reducible apply kept_ite | with_reducible apply st_issue_kept)

theorem st_jobPuts_kept (s : State) (b : Job) (ps : List (ℕ × List Byte)) (h_s : Kept canon queue s) :
    Kept canon queue (State.jobPuts s b ps) := by
  unfold State.jobPuts
  try dsimp only
  repeat' (first | with_reducible assumption | with_reducible apply wf_setBytes | with_reducible apply wf_setNat | with_reducible apply wf_setAll | with_reducible apply wf_set | intro _ | with_reducible apply kept_ite | fail_if_no_progress with_reducible apply kept_mk | with_reducible apply kept_mem)

theorem st_jobPut_kept (s : State) (b : Job) (a : ℕ) (bs : List Byte) (h_s : Kept canon queue s) :
    Kept canon queue (State.jobPut s b a bs) := by
  unfold State.jobPut
  try dsimp only
  repeat' (first | with_reducible assumption | intro _ | with_reducible apply kept_ite | with_reducible apply st_jobPuts_kept)

theorem st_openShuttles_kept (s : State) (b : Job) (h_s : Kept canon queue s) :
    Kept canon queue (State.openShuttles s b) := by
  unfold State.openShuttles
  try dsimp only
  repeat' (first | with_reducible assumption | intro _ | with_reducible apply kept_ite | with_reducible apply st_setFrame_kept | with_reducible apply kept_foldl | split)

theorem st_loadImage_kept (s : State) (b : Job) (a : ℕ) (key : ℕ) (h_s : Kept canon queue s) :
    Kept canon queue (State.loadImage s b a key) := by
  unfold State.loadImage
  try dsimp only
  repeat' (first | with_reducible assumption | with_reducible apply wf_setBytes | with_reducible apply wf_setNat | with_reducible apply wf_setAll | with_reducible apply wf_set | intro _ | with_reducible apply kept_ite | fail_if_no_progress with_reducible apply kept_mk | with_reducible apply kept_mem)

theorem st_evict_kept (s : State) (l : ℕ) (base : ℕ) (n : ℕ) (h_s : Kept canon queue s) :
    Kept canon queue (State.evict s l base n) := by
  unfold State.evict
  try dsimp only
  repeat' (first | with_reducible assumption | intro _ | with_reducible apply kept_ite | with_reducible apply st_modJob_kept | with_reducible apply kept_foldl)

theorem st_putBack_kept (s : State) (l : ℕ) (at_ : ℕ) (v : KeptUnits) (h_s : Kept canon queue s) :
    Kept canon queue (State.putBack s l at_ v) := by
  unfold State.putBack
  try dsimp only
  repeat' (first | with_reducible assumption | intro _ | with_reducible apply kept_ite | with_reducible apply st_putAt_kept | fail_if_no_progress with_reducible apply kept_mk)

theorem st_movePart_kept (s : State) (l : ℕ) (c : ℕ) (base : ℕ) (h_s : Kept canon queue s) :
    Kept canon queue (State.movePart s l c base) := by
  unfold State.movePart
  try dsimp only
  repeat' (first | with_reducible assumption | intro _ | with_reducible apply kept_ite | with_reducible apply st_putBack_kept | with_reducible apply st_setCtx_kept | with_reducible apply st_setSpn_kept | with_reducible apply kept_foldl | fail_if_no_progress with_reducible apply kept_mk)

theorem st_compact_kept (s : State) (l : ℕ) (n : ℕ) (h_s : Kept canon queue s) :
    Kept canon queue (State.compact s l n) := by
  unfold State.compact
  dsimp only
  split
  · exact h_s
  · refine kept_foldlFst (fun _ _ h => ?_) (st_evict_kept _ _ _ _ h_s)
    exact st_movePart_kept _ _ _ _ h

theorem st_putFile_kept (s : State) (l : ℕ) (c : ℕ) (bs : List Byte) (h_s : Kept canon queue s) :
    Kept canon queue (State.putFile s l c bs) := by
  unfold State.putFile
  try dsimp only
  repeat' (first | with_reducible assumption | intro _ | with_reducible apply kept_ite | with_reducible apply st_putAt_kept)

theorem st_openCtx_kept (s : State) (j : ℕ) (b : Job) (l : ℕ) (h_s : Kept canon queue s) :
    Kept canon queue (State.openCtx s j b l) := by
  unfold State.openCtx
  try dsimp only
  repeat' (first | with_reducible assumption | intro _ | with_reducible apply kept_ite | with_reducible apply st_putFile_kept | with_reducible apply st_compact_kept | with_reducible apply st_evict_kept | with_reducible apply st_setCtx_kept | split)

theorem st_ownSlots_kept (s : State) (j : ℕ) (ns : List ℕ) (h_s : Kept canon queue s) :
    Kept canon queue (State.ownSlots s j ns) := by
  unfold State.ownSlots
  try dsimp only
  repeat' (first | with_reducible assumption | intro _ | with_reducible apply kept_ite | with_reducible apply st_setFrame_kept | with_reducible apply kept_foldl)

theorem st_snapshot_kept (s : State) (j : ℕ) (h_s : Kept canon queue s) :
    Kept canon queue (State.snapshot s j) := by
  unfold State.snapshot
  try dsimp only
  repeat' (first | with_reducible assumption | intro _ | with_reducible apply kept_ite | with_reducible apply st_mapCtxs_kept)

theorem st_place_kept (s : State) (j : ℕ) (h_s : Kept canon queue s) :
    Kept canon queue (State.place s j) := by
  unfold State.place
  try dsimp only
  repeat' (first | with_reducible assumption | intro _ | with_reducible apply kept_ite | with_reducible apply st_snapshot_kept | with_reducible apply st_openCtx_kept | with_reducible apply st_openShuttles_kept | with_reducible apply st_ownSlots_kept | with_reducible apply st_loadImage_kept | with_reducible apply st_removeJob_kept | with_reducible apply st_setJob_kept | with_reducible apply kept_foldl | fail_if_no_progress with_reducible apply kept_mk | split)

theorem st_loadCtx_kept (s : State) (v : Saved) (h_s : Kept canon queue s) :
    Kept canon queue (State.loadCtx s v) := by
  unfold State.loadCtx
  try dsimp only
  repeat' (first | with_reducible assumption | intro _ | with_reducible apply kept_ite | with_reducible apply st_compact_kept | with_reducible apply st_putBack_kept | with_reducible apply st_evict_kept | with_reducible apply st_setCtx_kept | with_reducible apply st_setSpn_kept | with_reducible apply kept_foldl | split)

theorem st_switchIn_kept (s : State) (j : ℕ) (h_s : Kept canon queue s) :
    Kept canon queue (State.switchIn s j) := by
  unfold State.switchIn
  try dsimp only
  repeat' (first | with_reducible assumption | intro _ | with_reducible apply kept_ite | with_reducible apply st_loadCtx_kept | with_reducible apply st_mapCtxs_kept | with_reducible apply st_setJob_kept | with_reducible apply kept_foldl | fail_if_no_progress with_reducible apply kept_mk | split)

theorem st_clearCtx_kept (s : State) (l : ℕ) (c : ℕ) (h_s : Kept canon queue s) :
    Kept canon queue (State.clearCtx s l c) := by
  unfold State.clearCtx
  try dsimp only
  repeat' (first | with_reducible assumption | intro _ | with_reducible apply kept_ite | with_reducible apply st_setSpn_kept)

theorem st_switchOut_kept (s : State) (j : ℕ) (h_s : Kept canon queue s) :
    Kept canon queue (State.switchOut s j) := by
  unfold State.switchOut
  split
  · exact h_s
  · refine kept_ite h_s (kept_ite (st_setJob_kept _ _ _ h_s) ?_)
    split
    · exact st_reap_kept _ (st_endJob_kept _ _ _ h_s)
    · exact kept_mk (st_setJob_kept _ _ _ (kept_foldl (fun _ _ h => st_clearCtx_kept _ _ _ h) h_s))

theorem st_dropStep_kept (s : State) (j : ℕ) (h_s : Kept canon queue s) :
    Kept canon queue (State.dropStep s j) := by
  unfold State.dropStep
  try dsimp only
  repeat' (first | with_reducible assumption | intro _ | with_reducible apply kept_ite | with_reducible apply st_mapSpns_kept)

theorem st_applyRows_kept (b : Job) (u : Upset) (x3 : List (ℕ × ℕ)) (x4 : ℕ) (x5 : State) (h_x5 : Kept canon queue x5) :
    Kept canon queue (State.applyRows b u x3 x4 x5).1 := by
  induction x3 generalizing x4 x5 with
  | nil => exact h_x5
  | cons r rs ih =>
    rw [State.applyRows]
    extract_lets stray _ t _
    generalize ite ((x5.rowPoison b r).isSome = true) _ _ = n
    by_cases hn : 2 ≤ n
    · rw [if_pos hn]; exact h_x5
    · rw [if_neg hn]
      refine ih _ _ ?_
      have ht : Kept canon queue t := kept_mem h_x5 fun w => wf_setAll _ w
      split
      · exact st_skipFree_kept _ _ ht
      · exact ht

theorem st_modResidue_kept (s : State) (b : Job) (n : ℕ) (unit : ℕ) (h_s : Kept canon queue s) :
    Kept canon queue (State.modResidue s b n unit) := by
  unfold State.modResidue
  try dsimp only
  repeat' (first | with_reducible assumption | intro _ | with_reducible apply kept_ite | with_reducible apply st_baroWrite_kept)

theorem st_applyStaging_kept (s : State) (j : ℕ) (u : Upset) (h_s : Kept canon queue s) :
    Kept canon queue (State.applyStaging s j u) := by
  unfold State.applyStaging
  try dsimp only
  repeat' (first | with_reducible assumption | intro _ | with_reducible apply kept_ite | with_reducible apply st_modResidue_kept | with_reducible apply st_applyRows_kept | with_reducible apply st_skipFree_kept | with_reducible apply st_baroWrite_kept | with_reducible apply st_modJob_kept | split)

theorem st_recHistory_kept (s : State) (k : ℕ) (h_s : Kept canon queue s) :
    Kept canon queue (State.recHistory s k) := by
  unfold State.recHistory
  try dsimp only
  repeat' (first | with_reducible assumption | with_reducible apply wf_setBytes | with_reducible apply wf_setNat | with_reducible apply wf_setAll | with_reducible apply wf_set | intro _ | with_reducible apply kept_ite | fail_if_no_progress with_reducible apply kept_mk | with_reducible apply kept_mem)

theorem st_histories_kept (s : State) (j : ℕ) (h_s : Kept canon queue s) :
    Kept canon queue (State.histories s j) := by
  unfold State.histories
  try dsimp only
  repeat' (first | with_reducible assumption | intro _ | with_reducible apply kept_ite | with_reducible apply st_recHistory_kept | with_reducible apply st_modJob_kept | with_reducible apply kept_foldl | split)

theorem st_troubleRec_kept (s : State) (b : Job) (r : ℕ × ℕ) (h_s : Kept canon queue s) :
    Kept canon queue (State.troubleRec s b r) := by
  unfold State.troubleRec
  try dsimp only
  repeat' (first | with_reducible assumption | intro _ | with_reducible apply kept_ite | with_reducible apply st_baroWrite_kept)

theorem execJobBoundary_kept (j : ℕ) (u : Upset) (s : State) (h_s : Kept canon queue s) :
    KeptOut canon queue (execJobBoundary j u s) := by
  unfold execJobBoundary
  try dsimp only
  repeat' (first | with_reducible assumption | intro _ | with_reducible apply kept_next | with_reducible apply keptOut_ite | with_reducible apply kept_ite | with_reducible apply st_troubleRec_kept | with_reducible apply st_histories_kept | with_reducible apply st_applyStaging_kept | with_reducible apply st_reap_kept | with_reducible apply st_endJob_kept | with_reducible apply st_mapCtxs_kept | with_reducible apply st_modJob_kept | with_reducible apply kept_foldl | split)

theorem st_intake_kept (s : State) (j : ℕ) (b : Job) (step : ℕ) (trouble : Bool) (h_s : Kept canon queue s) :
    Kept canon queue (State.intake s j b step trouble) := by
  unfold State.intake
  try dsimp only
  repeat' (first | with_reducible assumption | intro _ | with_reducible apply kept_ite | with_reducible apply st_modJob_kept | with_reducible apply st_jobPut_kept | split)

theorem st_convert_kept (s : State) (j : ℕ) (m : Moving) (h_s : Kept canon queue s) :
    Kept canon queue (State.convert s j m) := by
  unfold State.convert
  split
  · exact h_s
  · exact kept_foldl (fun t i h => st_jobPut_kept _ _ _ _ h) h_s

theorem st_closeCommit_kept (s : State) (j : ℕ) (h_s : Kept canon queue s) :
    Kept canon queue (State.closeCommit s j) := by
  unfold State.closeCommit
  try dsimp only
  repeat' (first | with_reducible assumption | intro _ | with_reducible apply kept_ite | with_reducible apply st_setJob_kept | with_reducible apply st_sendAll_kept | with_reducible apply st_reap_kept | with_reducible apply st_intake_kept | fail_if_no_progress with_reducible apply kept_mk | assumption | split)

theorem st_closeCommits_kept (s : State) (h_s : Kept canon queue s) :
    Kept canon queue (State.closeCommits s) := by
  unfold State.closeCommits
  try dsimp only
  repeat' (first | with_reducible assumption | intro _ | with_reducible apply kept_ite | with_reducible apply st_closeCommit_kept | with_reducible apply kept_foldl)

theorem st_markShuttles_kept (s : State) (b : Job) (h_s : Kept canon queue s) :
    Kept canon queue (State.markShuttles s b) := by
  unfold State.markShuttles
  try dsimp only
  repeat' (first | with_reducible assumption | intro _ | with_reducible apply kept_ite | with_reducible apply st_setFrame_kept | with_reducible apply kept_foldl)

theorem st_releaseUpd_kept (s : State) (j : ℕ) (h_s : Kept canon queue s) :
    Kept canon queue (State.releaseUpd s j) := by
  unfold State.releaseUpd
  try dsimp only
  repeat' (first | with_reducible assumption | intro _ | with_reducible apply kept_ite | with_reducible apply st_mapSpns_kept)

theorem st_stepSnapshot_kept (s : State) (j : ℕ) (h_s : Kept canon queue s) :
    Kept canon queue (State.stepSnapshot s j) := by
  unfold State.stepSnapshot
  try dsimp only
  repeat' (first | with_reducible assumption | intro _ | with_reducible apply kept_ite | with_reducible apply st_mapCtxs_kept)

theorem st_commit_kept (s : State) (j : ℕ) (b : Job) (trouble : Bool) (u : Upset) (h_s : Kept canon queue s) :
    Kept canon queue (State.commit s j b trouble u) := by
  unfold State.commit
  try dsimp only
  repeat' (first | with_reducible assumption | intro _ | with_reducible apply kept_ite | with_reducible apply st_modJob_kept | with_reducible apply st_mapCtxs_kept | with_reducible apply st_endJob_kept | with_reducible apply st_reap_kept | with_reducible apply st_applyStaging_kept | with_reducible apply st_histories_kept | with_reducible apply st_markShuttles_kept | with_reducible apply st_releaseUpd_kept | with_reducible apply st_stepSnapshot_kept | with_reducible apply st_closeCommit_kept)

theorem st_placeMoving_kept (s : State) (j : Nat) (m : Moving) (h_s : Kept canon queue s) (p : State × Moving)
    (h : s.placeMoving j m = some p) : Kept canon queue p.1 := by
  simp only [State.placeMoving, Option.bind_eq_some_iff, Option.map_eq_some_iff] at h
  obtain ⟨b, -, q, -, rfl⟩ := h
  exact st_setJob_kept _ _ _ h_s

theorem placeMovings_kept (j : Nat) : ∀ (ms : List Moving) (o : Option (State × List Moving)),
    (∀ p, o = some p → Kept canon queue p.1) → ∀ p,
    ms.foldl (fun (o : Option (State × List Moving)) m => o.bind fun p =>
      (p.1.placeMoving j m).map fun q => (q.1, p.2 ++ [q.2])) o = some p → Kept canon queue p.1
  | [], _, ho, p, h => ho p h
  | m :: ms, o, ho, p, h => by
    refine placeMovings_kept j ms _ ?_ p h
    intro q hq
    simp only [Option.bind_eq_some_iff, Option.map_eq_some_iff] at hq
    obtain ⟨a, ha, b, hb, rfl⟩ := hq
    exact st_placeMoving_kept _ _ _ (ho a ha) b hb

theorem st_promote_kept (s : State) (j : ℕ) (k : ℕ) (h_s : Kept canon queue s) :
    KeptOpt canon queue (State.promote s j k) := by
  refine ⟨fun t h => ?_⟩
  simp only [State.promote, Option.map_eq_some_iff] at h
  obtain ⟨p, hp, rfl⟩ := h
  refine st_mapCtxs_kept _ _ (kept_mem (kept_foldl (fun s m h => st_convert_kept _ _ _ h) ?_) fun h => wf_setNat _ _ _ h)
  exact placeMovings_kept j _ _ (fun q hq => by cases hq; exact h_s) p hp

theorem st_recDiscard_kept (s : State) (k : ℕ) (h_s : Kept canon queue s) :
    Kept canon queue (State.recDiscard s k) := by
  unfold State.recDiscard
  try dsimp only
  repeat' (first | with_reducible assumption | with_reducible apply wf_setBytes | with_reducible apply wf_setNat | with_reducible apply wf_setAll | with_reducible apply wf_set | intro _ | with_reducible apply kept_ite | fail_if_no_progress with_reducible apply kept_mk | with_reducible apply kept_mem)

theorem st_recRaise_kept (s : State) (k : ℕ) (h_s : Kept canon queue s) :
    Kept canon queue (State.recRaise s k) := by
  unfold State.recRaise
  try dsimp only
  repeat' (first | with_reducible assumption | with_reducible apply wf_setBytes | with_reducible apply wf_setNat | with_reducible apply wf_setAll | with_reducible apply wf_set | intro _ | with_reducible apply kept_ite | fail_if_no_progress with_reducible apply kept_mk | with_reducible apply kept_mem)

theorem st_troubleReplay_kept (s : State) (j : ℕ) (qz : ℕ) (b : Job) (bad : List (ℕ × ℕ)) (h_s : Kept canon queue s) :
    Kept canon queue (State.troubleReplay s j qz b bad) := by
  unfold State.troubleReplay
  dsimp only
  have h1 := keptOpt_foldl (canon := canon) (queue := queue) (f := fun s k => s.promote j k) (fun s k h => st_promote_kept s j k h)
    (l := (bad.map (·.1)).filter (s.wantsDouble j qz)) (o := some (bad.foldl (fun s r => s.recRaise r.1) s))
    (keptOpt_some (kept_foldl (fun s r h => st_recRaise_kept _ _ h) h_s))
  split
  · exact st_reap_kept _ (st_endJob_kept _ _ _ (kept_foldl (fun s r h => st_recRaise_kept _ _ h) h_s))
  · rename_i t e
    exact st_modJob_kept _ _ _ (kept_foldl (fun s r h => st_recDiscard_kept _ _ h) (h1.1 t e))

theorem execStepCommit_kept (j : ℕ) (u : Upset) (s : State) (h_s : Kept canon queue s) :
    KeptOut canon queue (execStepCommit j u s) := by
  unfold execStepCommit
  try dsimp only
  repeat' (first | with_reducible assumption | intro _ | with_reducible apply kept_next | with_reducible apply keptOut_ite | with_reducible apply kept_ite | with_reducible apply st_commit_kept | with_reducible apply st_troubleRec_kept | with_reducible apply st_troubleReplay_kept | with_reducible apply kept_foldl | split)

theorem st_rewind_kept (s : State) (b : Job) (from_ : ℕ) (h_s : Kept canon queue s) :
    Kept canon queue (State.rewind s b from_) := by
  unfold State.rewind
  try dsimp only
  repeat' (first | with_reducible assumption | intro _ | with_reducible apply kept_ite | with_reducible apply st_sendAll_kept | with_reducible apply st_setFrame_kept | with_reducible apply kept_foldl | split)

theorem execStepReplay_kept (j : ℕ) (s : State) (h_s : Kept canon queue s) :
    KeptOut canon queue (execStepReplay j s) := by
  unfold execStepReplay
  try dsimp only
  repeat' (first | with_reducible assumption | intro _ | with_reducible apply kept_next | with_reducible apply keptOut_ite | with_reducible apply kept_ite | with_reducible apply st_rewind_kept | with_reducible apply st_dropStep_kept | with_reducible apply st_recDiscard_kept | with_reducible apply st_putFile_kept | with_reducible apply st_reap_kept | with_reducible apply st_endJob_kept | with_reducible apply st_mapCtxs_kept | with_reducible apply st_mapSpns_kept | with_reducible apply st_baroWrite_kept | with_reducible apply st_modJob_kept | with_reducible apply kept_foldl | fail_if_no_progress with_reducible apply kept_mk | split)

theorem st_unknownJob_kept (s : State) (h : PHdr) (h_s : Kept canon queue s) :
    Kept canon queue (State.unknownJob s h) := by
  unfold State.unknownJob
  try dsimp only
  repeat' (first | with_reducible assumption | intro _ | with_reducible apply kept_ite | with_reducible apply st_baroWrite_kept)

theorem st_forJob_kept (s : State) (h : PHdr) (f : ℕ → Job → State) (h_s : Kept canon queue s) (h_f : ∀ y0 y1, Kept canon queue (f y0 y1)) :
    Kept canon queue (State.forJob s h f) := by
  unfold State.forJob
  try dsimp only
  repeat' (first | with_reducible assumption | intro _ | with_reducible apply kept_ite | with_reducible apply h_f | with_reducible apply st_unknownJob_kept | split)

theorem st_recvRewind_kept (s : State) (h : PHdr) (h_s : Kept canon queue s) :
    Kept canon queue (State.recvRewind s h) := by
  unfold State.recvRewind
  try dsimp only
  repeat' (first | with_reducible assumption | intro _ | with_reducible apply kept_ite | with_reducible apply st_forJob_kept | with_reducible apply st_needReplay_kept | with_reducible apply st_setFrame_kept)

theorem execShuttleRewind_kept (h : PHdr) (s : State) (h_s : Kept canon queue s) :
    KeptOut canon queue (execShuttleRewind h s) := by
  unfold execShuttleRewind
  try dsimp only
  repeat' (first | with_reducible assumption | intro _ | with_reducible apply kept_next | with_reducible apply keptOut_ite | with_reducible apply kept_ite | with_reducible apply st_recvRewind_kept)

theorem execCreditReturn_kept (frame : BitVec 5) (s : State) (h_s : Kept canon queue s) :
    KeptOut canon queue (execCreditReturn frame s) := by
  unfold execCreditReturn
  try dsimp only
  repeat' (first | with_reducible assumption | intro _ | with_reducible apply kept_next | with_reducible apply keptOut_ite | with_reducible apply kept_ite | with_reducible apply st_send_kept | with_reducible apply st_setFrame_kept | split)

theorem st_recvNotice_kept (s : State) (h : PHdr) (h_s : Kept canon queue s) :
    Kept canon queue (State.recvNotice s h) := by
  unfold State.recvNotice
  try dsimp only
  repeat' (first | with_reducible assumption | intro _ | with_reducible apply kept_ite | with_reducible apply st_forJob_kept | with_reducible apply st_modJob_kept | split)

theorem execPipeCommitNotice_kept (h : PHdr) (s : State) (h_s : Kept canon queue s) :
    KeptOut canon queue (execPipeCommitNotice h s) := by
  unfold execPipeCommitNotice
  try dsimp only
  repeat' (first | with_reducible assumption | intro _ | with_reducible apply kept_next | with_reducible apply keptOut_ite | with_reducible apply kept_ite | with_reducible apply st_recvNotice_kept)

theorem st_recvCredit_kept (s : State) (h : PHdr) (h_s : Kept canon queue s) :
    Kept canon queue (State.recvCredit s h) := by
  unfold State.recvCredit
  try dsimp only
  repeat' (first | with_reducible assumption | intro _ | with_reducible apply kept_ite | with_reducible apply st_forJob_kept | with_reducible apply st_setJob_kept | split)

theorem execShuttleCredit_kept (h : PHdr) (s : State) (h_s : Kept canon queue s) :
    KeptOut canon queue (execShuttleCredit h s) := by
  unfold execShuttleCredit
  try dsimp only
  repeat' (first | with_reducible assumption | intro _ | with_reducible apply kept_next | with_reducible apply keptOut_ite | with_reducible apply kept_ite | with_reducible apply st_recvCredit_kept)

theorem st_recvRecord_kept (s : State) (h : PHdr) (slot : List Byte) (h_s : Kept canon queue s) :
    Kept canon queue (State.recvRecord s h slot) := by
  unfold State.recvRecord
  try dsimp only
  repeat' (first | with_reducible assumption | intro _ | with_reducible apply kept_ite | with_reducible apply st_forJob_kept | with_reducible apply st_putAt_kept | with_reducible apply st_setFrame_kept)

theorem execShuttleRecord_kept (h : PHdr) (slot : List Byte) (s : State) (h_s : Kept canon queue s) :
    KeptOut canon queue (execShuttleRecord h slot s) := by
  unfold execShuttleRecord
  try dsimp only
  repeat' (first | with_reducible assumption | intro _ | with_reducible apply kept_next | with_reducible apply keptOut_ite | with_reducible apply kept_ite | with_reducible apply st_recvRecord_kept)

theorem st_recvPipe_kept (s : State) (h : PHdr) (data : List Byte) (h_s : Kept canon queue s) :
    Kept canon queue (State.recvPipe s h data) := by
  unfold State.recvPipe
  try dsimp only
  repeat' (first | with_reducible assumption | intro _ | with_reducible apply kept_ite | with_reducible apply st_forJob_kept | with_reducible apply st_jobPut_kept | with_reducible apply st_modJob_kept | split)

theorem execPipeMessage_kept (h : PHdr) (data : List Byte) (s : State) (h_s : Kept canon queue s) :
    KeptOut canon queue (execPipeMessage h data s) := by
  unfold execPipeMessage
  try dsimp only
  repeat' (first | with_reducible assumption | intro _ | with_reducible apply kept_next | with_reducible apply keptOut_ite | with_reducible apply kept_ite | with_reducible apply st_recvPipe_kept)

theorem st_modCamp_kept (s : State) (j : ℕ) (f : Camp → Camp) (h_s : Kept canon queue s) :
    Kept canon queue (State.modCamp s j f) := by
  unfold State.modCamp
  try dsimp only
  repeat' (first | with_reducible assumption | intro _ | with_reducible apply kept_ite | with_reducible apply st_modJob_kept)

theorem st_spoilSlot_kept (s : State) (b : Job) (c : Camp) (slot : ℕ) (h_s : Kept canon queue s) :
    Kept canon queue (State.spoilSlot s b c slot) := by
  unfold State.spoilSlot
  try dsimp only
  repeat' (first | with_reducible assumption | intro _ | with_reducible apply kept_ite | with_reducible apply st_skipFree_kept | with_reducible apply st_jobPut_kept)

theorem execCheckpointFail_kept (j : ℕ) (s : State) (h_s : Kept canon queue s) :
    KeptOut canon queue (execCheckpointFail j s) := by
  unfold execCheckpointFail
  try dsimp only
  repeat' (first | with_reducible assumption | intro _ | with_reducible apply kept_next | with_reducible apply keptOut_ite | with_reducible apply kept_ite | with_reducible apply st_complete_kept | with_reducible apply st_modCamp_kept | with_reducible apply st_spoilSlot_kept | fail_if_no_progress with_reducible apply kept_mk | assumption | split)

theorem execEvaluation_kept (j : ℕ) (toks : List EvalToken) (s : State) (h_s : Kept canon queue s) :
    KeptOut canon queue (execEvaluation j toks s) := by
  unfold execEvaluation
  try dsimp only
  repeat' (first | with_reducible assumption | intro _ | with_reducible apply kept_next | with_reducible apply keptOut_ite | with_reducible apply kept_ite | with_reducible apply st_modCamp_kept | with_reducible apply st_jobPut_kept | with_reducible apply st_skipFree_kept | split)

theorem st_putReport_kept (s : State) (j : ℕ) (b : Job) (c : Camp) (bs : List Byte) (h_s : Kept canon queue s) :
    Kept canon queue (State.putReport s j b c bs) := by
  unfold State.putReport
  try dsimp only
  repeat' (first | with_reducible assumption | intro _ | with_reducible apply kept_ite | with_reducible apply st_jobPut_kept | with_reducible apply st_modCamp_kept | with_reducible apply st_interrupt_kept)

theorem execReportWrite_kept (j : ℕ) (s : State) (h_s : Kept canon queue s) :
    KeptOut canon queue (execReportWrite j s) := by
  unfold execReportWrite
  try dsimp only
  repeat' (first | with_reducible assumption | intro _ | with_reducible apply kept_next | with_reducible apply keptOut_ite | with_reducible apply kept_ite | with_reducible apply st_putReport_kept | with_reducible apply st_modCamp_kept | split)

theorem st_writeSlot_kept (s : State) (b : Job) (c : Camp) (slot : ℕ) (h_s : Kept canon queue s) :
    Kept canon queue (State.writeSlot s b c slot) := by
  unfold State.writeSlot
  try dsimp only
  repeat' (first | with_reducible assumption | intro _ | with_reducible apply kept_ite | with_reducible apply st_jobPut_kept)

theorem execIntakePoll_kept (j : ℕ) (s : State) (h_s : Kept canon queue s) :
    KeptOut canon queue (execIntakePoll j s) := by
  unfold execIntakePoll
  try dsimp only
  repeat' (first | with_reducible assumption | intro _ | with_reducible apply kept_next | with_reducible apply keptOut_ite | with_reducible apply kept_ite | with_reducible apply st_modCamp_kept | with_reducible apply st_mapCtxs_kept | split)

theorem execCheckpointReport_kept (j : ℕ) (s : State) (h_s : Kept canon queue s) :
    KeptOut canon queue (execCheckpointReport j s) := by
  unfold execCheckpointReport
  try dsimp only
  repeat' (first | with_reducible assumption | intro _ | with_reducible apply kept_next | with_reducible apply keptOut_ite | with_reducible apply kept_ite | with_reducible apply st_writeSlot_kept | with_reducible apply st_modCamp_kept | split)

theorem execCampaignEnd_kept (j : ℕ) (s : State) (h_s : Kept canon queue s) :
    KeptOut canon queue (execCampaignEnd j s) := by
  unfold execCampaignEnd
  try dsimp only
  repeat' (first | with_reducible assumption | intro _ | with_reducible apply kept_next | with_reducible apply keptOut_ite | with_reducible apply kept_ite | with_reducible apply st_writeSlot_kept | with_reducible apply st_putReport_kept | with_reducible apply st_reap_kept | with_reducible apply st_endJob_kept | split)

theorem st_retarget_kept (s : State) (j : ℕ) (old : ℕ) (new : ℕ) (h_s : Kept canon queue s) :
    Kept canon queue (State.retarget s j old new) := by
  unfold State.retarget
  try dsimp only
  repeat' (first | with_reducible assumption | intro _ | with_reducible apply kept_ite | with_reducible apply st_modJob_kept | with_reducible apply st_mapSpns_kept)

theorem st_copyPage_kept (s : State) (j : ℕ) (creel : Bool) (n : ℕ) (e : Word) (old : Loc) (new : Loc) (h_s : Kept canon queue s) :
    Kept canon queue (State.copyPage s j creel n e old new) := by
  unfold State.copyPage
  try dsimp only
  repeat' (first | with_reducible assumption | with_reducible apply wf_setBytes | with_reducible apply wf_setNat | with_reducible apply wf_setAll | with_reducible apply wf_set | intro _ | with_reducible apply kept_ite | with_reducible apply st_modJob_kept | with_reducible apply st_retarget_kept | fail_if_no_progress with_reducible apply kept_mk | with_reducible apply kept_mem)

theorem st_copyTo_kept (s : State) (j : ℕ) (creel : Bool) (n : ℕ) (e : Word) (slot : Option ℕ) (old : Option Loc) (new : Option Loc) (h_s : Kept canon queue s) :
    Kept canon queue (State.copyTo s j creel n e slot old new) := by
  unfold State.copyTo
  try dsimp only
  repeat' (first | with_reducible assumption | intro _ | with_reducible apply kept_ite | with_reducible apply st_copyPage_kept | with_reducible apply st_ownSlots_kept | split)

theorem st_migrateTo_kept (s : State) (j : ℕ) (creel : Bool) (n : ℕ) (e : Word) (r : Region) (place : Option (ℕ × ℕ)) (h_s : Kept canon queue s) :
    Kept canon queue (State.migrateTo s j creel n e r place) := by
  unfold State.migrateTo
  try dsimp only
  repeat' (first | with_reducible assumption | intro _ | with_reducible apply kept_ite | with_reducible apply st_copyTo_kept | split)

theorem st_migrate_kept (s : State) (j : ℕ) (page : ℕ) (b : Job) (h_s : Kept canon queue s) :
    Kept canon queue (State.migrate s j page b) := by
  unfold State.migrate
  try dsimp only
  repeat' (first | with_reducible assumption | intro _ | with_reducible apply kept_ite | with_reducible apply st_migrateTo_kept | split)

theorem st_dropJob_kept (s : State) (j : ℕ) (b : Job) (status : Byte) (h_s : Kept canon queue s) :
    Kept canon queue (State.dropJob s j b status) := by
  unfold State.dropJob
  try dsimp only
  repeat' (first | with_reducible assumption | intro _ | with_reducible apply kept_ite | with_reducible apply st_reap_kept | with_reducible apply st_endJob_kept | with_reducible apply st_removeJob_kept)

theorem st_act_kept (s : State) (client : ℕ) (e : Line) (_h_s : Kept canon queue s) :
    ∀ t, Kept canon queue t → Kept canon queue ((State.act s client e).2 t) := by
  unfold State.act
  intro t ht
  split
  · exact ht
  · split
    · dsimp only
      split
      · exact st_modJob_kept _ _ _ ht
      · exact st_dropJob_kept _ _ _ _ ht
    · split
      · split
        · exact st_modCamp_kept _ _ _ ht
        · exact ht
      · exact ht
    · exact st_dropJob_kept _ _ _ _ ht

theorem st_cmdDone_kept (s : State) (client : ℕ) (ref : Word) (e : Line) (status : Byte) (h_s : Kept canon queue s) :
    Kept canon queue (State.cmdDone s client ref e status) := by
  unfold State.cmdDone
  try dsimp only
  repeat' (first | with_reducible assumption | intro _ | with_reducible apply kept_ite | with_reducible apply st_complete_kept)

theorem st_submit_kept (s : State) (client : ℕ) (ref : Word) (e : Line) (h_s : Kept canon queue s) :
    Kept canon queue (State.submit s client ref e) := by
  unfold State.submit
  try dsimp only
  repeat' (first | with_reducible assumption | intro _ | with_reducible apply kept_ite | with_reducible apply st_countEnd_kept | with_reducible apply st_complete_kept | with_reducible apply st_countSubmit_kept | fail_if_no_progress with_reducible apply kept_mk | split)

theorem st_command_kept (s : State) (client : ℕ) (ref : Word) (e : Line) (h_s : Kept canon queue s) :
    Kept canon queue (State.command s client ref e) := by
  unfold State.command
  try dsimp only
  repeat' (first | with_reducible assumption | intro _ | with_reducible apply kept_ite | with_reducible apply st_submit_kept | with_reducible apply st_cmdDone_kept | with_reducible apply st_act_kept)

theorem execStop_kept (client : BitVec 8) (ref : Word) (entry : Line) (s : State) (h_s : Kept canon queue s) :
    KeptOut canon queue (execStop client ref entry s) := by
  unfold execStop
  try dsimp only
  repeat' (first | with_reducible assumption | intro _ | with_reducible apply kept_next | with_reducible apply keptOut_ite | with_reducible apply kept_ite | with_reducible apply st_command_kept)

theorem execPageMigrate_kept (job : ℕ) (page : ℕ) (s : State) (h_s : Kept canon queue s) :
    KeptOut canon queue (execPageMigrate job page s) := by
  unfold execPageMigrate
  try dsimp only
  repeat' (first | with_reducible assumption | intro _ | with_reducible apply kept_next | with_reducible apply keptOut_ite | with_reducible apply kept_ite | with_reducible apply st_migrate_kept | split)

theorem execCompletionWrite_kept (client : BitVec 8) (s : State) (h_s : Kept canon queue s) :
    KeptOut canon queue (execCompletionWrite client s) := by
  unfold execCompletionWrite
  try dsimp only
  repeat' (first | with_reducible assumption | intro _ | with_reducible apply kept_next | with_reducible apply keptOut_ite | with_reducible apply kept_ite | with_reducible apply st_interrupt_kept | with_reducible apply st_writeCounts_kept | with_reducible apply st_putAt_kept | fail_if_no_progress with_reducible apply kept_mk | split)

theorem st_abortClient_kept (s : State) (client : ℕ) (h_s : Kept canon queue s) :
    Kept canon queue (State.abortClient s client) := by
  unfold State.abortClient
  try dsimp only
  repeat' (first | with_reducible assumption | intro _ | with_reducible apply kept_ite | with_reducible apply st_dropJob_kept | with_reducible apply st_modJob_kept | with_reducible apply kept_foldl)

theorem st_resetFn_kept (s : State) (f : ℕ) (h_s : Kept canon queue s) :
    Kept canon queue (State.resetFn s f) := by
  unfold State.resetFn
  try dsimp only
  repeat' (first | with_reducible assumption | intro _ | with_reducible apply kept_ite | with_reducible apply st_abortClient_kept | with_reducible apply st_setFn_kept)

theorem st_setVfs_kept (s : State) (n : ℕ) (h_s : Kept canon queue s) :
    Kept canon queue (State.setVfs s n) := by
  unfold State.setVfs
  try dsimp only
  repeat' (first | with_reducible assumption | intro _ | with_reducible apply kept_ite | with_reducible apply st_resetFn_kept | with_reducible apply kept_foldl | fail_if_no_progress with_reducible apply kept_mk)

theorem st_resetPf_kept (s : State) (h_s : Kept canon queue s) :
    Kept canon queue (State.resetPf s) := by
  unfold State.resetPf
  try dsimp only
  repeat' (first | with_reducible assumption | intro _ | with_reducible apply kept_ite | with_reducible apply st_resetFn_kept | with_reducible apply st_setVfs_kept)

theorem execFunctionLevelReset_kept (fn : BitVec 5) (s : State) (h_s : Kept canon queue s) :
    KeptOut canon queue (execFunctionLevelReset fn s) := by
  unfold execFunctionLevelReset
  try dsimp only
  repeat' (first | with_reducible assumption | intro _ | with_reducible apply kept_next | with_reducible apply keptOut_ite | with_reducible apply kept_ite | with_reducible apply st_resetFn_kept | with_reducible apply st_resetPf_kept)

theorem execBusMasterEnableClear_kept (fn : BitVec 5) (s : State) (h_s : Kept canon queue s) :
    KeptOut canon queue (execBusMasterEnableClear fn s) := by
  unfold execBusMasterEnableClear
  try dsimp only
  repeat' (first | with_reducible assumption | intro _ | with_reducible apply kept_next | with_reducible apply keptOut_ite | with_reducible apply kept_ite | with_reducible apply st_resetFn_kept)

theorem execResume_kept (client : BitVec 8) (ref : Word) (entry : Line) (s : State) (h_s : Kept canon queue s) :
    KeptOut canon queue (execResume client ref entry s) := by
  unfold execResume
  try dsimp only
  repeat' (first | with_reducible assumption | intro _ | with_reducible apply kept_next | with_reducible apply keptOut_ite | with_reducible apply kept_ite | with_reducible apply st_command_kept)

theorem execJobSwitchIn_kept (job : ℕ) (s : State) (h_s : Kept canon queue s) :
    KeptOut canon queue (execJobSwitchIn job s) := by
  unfold execJobSwitchIn
  try dsimp only
  repeat' (first | with_reducible assumption | intro _ | with_reducible apply kept_next | with_reducible apply keptOut_ite | with_reducible apply kept_ite | with_reducible apply st_switchIn_kept)

theorem st_consume_kept (s : State) (f : ℕ) (x3 : ℕ) (x4 : ℕ) (h_s : Kept canon queue s) :
    Kept canon queue (State.consume s f x3 x4) := by
  induction x3 generalizing s x4 with
  | zero => exact h_s
  | succ n ih =>
    unfold State.consume
    exact kept_ite h_s (ih _ _ (st_putAt_kept _ _ _ (st_command_kept _ _ _ _ h_s)))

theorem execJobRcfgWrite_kept (fn : BitVec 5) (v : Word) (s : State) (h_s : Kept canon queue s) :
    KeptOut canon queue (execJobRcfgWrite fn v s) := by
  unfold execJobRcfgWrite
  try dsimp only
  repeat' (first | with_reducible assumption | intro _ | with_reducible apply kept_next | with_reducible apply keptOut_ite | with_reducible apply kept_ite | with_reducible apply st_setFn_kept)

theorem execFillWaitLimit_kept (job : ℕ) (s : State) (h_s : Kept canon queue s) :
    KeptOut canon queue (execFillWaitLimit job s) := by
  unfold execFillWaitLimit
  try dsimp only
  repeat' (first | with_reducible assumption | intro _ | with_reducible apply kept_next | with_reducible apply keptOut_ite | with_reducible apply kept_ite | with_reducible apply st_modJob_kept | split)

theorem execAbort_kept (client : BitVec 8) (ref : Word) (entry : Line) (s : State) (h_s : Kept canon queue s) :
    KeptOut canon queue (execAbort client ref entry s) := by
  unfold execAbort
  try dsimp only
  repeat' (first | with_reducible assumption | intro _ | with_reducible apply kept_next | with_reducible apply keptOut_ite | with_reducible apply kept_ite | with_reducible apply st_command_kept)

theorem execCommandRingPoll_kept (client : BitVec 8) (s : State) (h_s : Kept canon queue s) :
    KeptOut canon queue (execCommandRingPoll client s) := by
  unfold execCommandRingPoll
  try dsimp only
  repeat' (first | with_reducible assumption | intro _ | with_reducible apply kept_next | with_reducible apply keptOut_ite | with_reducible apply kept_ite | with_reducible apply st_setFn_kept | with_reducible apply st_consume_kept | with_reducible apply st_complete_kept | with_reducible apply st_baroWrite_kept)

theorem st_recvCommand_kept (s : State) (src : ℕ) (ref : Word) (entry : Line) (h_s : Kept canon queue s) :
    Kept canon queue (State.recvCommand s src ref entry) := by
  unfold State.recvCommand
  try dsimp only
  repeat' (first | with_reducible assumption | intro _ | with_reducible apply kept_ite | with_reducible apply st_command_kept | with_reducible apply st_baroWrite_kept | split)

theorem execJobPlace_kept (job : ℕ) (s : State) (h_s : Kept canon queue s) :
    KeptOut canon queue (execJobPlace job s) := by
  unfold execJobPlace
  try dsimp only
  repeat' (first | with_reducible assumption | intro _ | with_reducible apply kept_next | with_reducible apply keptOut_ite | with_reducible apply kept_ite | with_reducible apply st_place_kept)

theorem execRemoteCommand_kept (src : Coord) (ref : Word) (entry : Line) (s : State) (h_s : Kept canon queue s) :
    KeptOut canon queue (execRemoteCommand src ref entry s) := by
  unfold execRemoteCommand
  try dsimp only
  repeat' (first | with_reducible assumption | intro _ | with_reducible apply kept_next | with_reducible apply keptOut_ite | with_reducible apply kept_ite | with_reducible apply st_recvCommand_kept)

theorem execJobSwitchOut_kept (job : ℕ) (s : State) (h_s : Kept canon queue s) :
    KeptOut canon queue (execJobSwitchOut job s) := by
  unfold execJobSwitchOut
  try dsimp only
  repeat' (first | with_reducible assumption | intro _ | with_reducible apply kept_next | with_reducible apply keptOut_ite | with_reducible apply kept_ite | with_reducible apply st_switchOut_kept)

theorem execSubmit_kept (client : BitVec 8) (ref : Word) (entry : Line) (s : State) (h_s : Kept canon queue s) :
    KeptOut canon queue (execSubmit client ref entry s) := by
  unfold execSubmit
  try dsimp only
  repeat' (first | with_reducible assumption | intro _ | with_reducible apply kept_next | with_reducible apply keptOut_ite | with_reducible apply kept_ite | with_reducible apply st_command_kept)

theorem execLevelInterval_kept (l : BitVec 8) (work : BitVec 5) (s : State) (h_s : Kept canon queue s) :
    KeptOut canon queue (execLevelInterval l work s) := by
  unfold execLevelInterval
  try dsimp only
  repeat' (first | with_reducible assumption | intro _ | with_reducible apply kept_next | with_reducible apply keptOut_ite | with_reducible apply kept_ite | with_reducible apply st_setSpn_kept)

theorem st_served_kept (s : State) (l : ℕ) (e : Engine) (c : ℕ) (h_s : Kept canon queue s) :
    Kept canon queue (State.served s l e c) := by
  unfold State.served
  try dsimp only
  repeat' (first | with_reducible assumption | intro _ | with_reducible apply kept_ite | with_reducible apply st_setSpn_kept)

theorem execKnotSignal_kept (w : Who) (e : Engine) (s : State) (h_s : Kept canon queue s) :
    KeptOut canon queue (execKnotSignal w e s) := by
  unfold execKnotSignal
  try dsimp only
  repeat' (first | with_reducible assumption | intro _ | with_reducible apply kept_next | with_reducible apply keptOut_ite | with_reducible apply kept_ite | with_reducible apply st_finishOp_kept | with_reducible apply st_closeCommits_kept)

theorem execOperationStart_kept (w : Who) (e : Engine) (held : Bool) (us : List Upset) (s : State) (h_s : Kept canon queue s) :
    KeptOut canon queue (execOperationStart w e held us s) := by
  unfold execOperationStart
  try dsimp only
  repeat' (first | with_reducible assumption | intro _ | with_reducible apply kept_next | with_reducible apply keptOut_ite | with_reducible apply kept_ite | with_reducible apply st_startOp_kept | with_reducible apply st_served_kept | with_reducible apply st_passOver_kept | split)

theorem execDrizzleGapExpiry_kept (l : BitVec 8) (s : State) (h_s : Kept canon queue s) :
    KeptOut canon queue (execDrizzleGapExpiry l s) := by
  unfold execDrizzleGapExpiry
  try dsimp only
  repeat' (first | with_reducible assumption | intro _ | with_reducible apply kept_next | with_reducible apply keptOut_ite | with_reducible apply kept_ite | with_reducible apply st_setSpn_kept)

end Sys2Proof.Laws
end

