-- ==== Sys2Proof/Laws/KeptControllers.lean ====
section
/-! SUPPORT. What every operation keeps (Laws/Kept.lean): the controller instructions. -/

set_option maxRecDepth 4000

namespace Sys2Proof.Laws

open Sys2Proof.Machine

variable {canon : Prop} {queue : List Instr}

theorem st_scalar_kept (s : State) (w : Who) (word : Word) (bad : Bool) (eff : Ctx → Ctx) (h_s : Kept canon queue s) :
    KeptOut canon queue (State.scalar s w word bad eff) := by
  unfold State.scalar
  try dsimp only
  repeat' (first | with_reducible assumption | intro _ | with_reducible apply kept_next | with_reducible apply keptOut_ite | with_reducible apply kept_ite | with_reducible apply st_controller_kept | with_reducible apply st_setWho_kept)

theorem st_cmpp_kept (s : State) (w : Who) (f : SForm) (n : ℕ) (op : Word → Word → Bool) (h_s : Kept canon queue s) :
    KeptOut canon queue (State.cmpp s w f n op) := by
  unfold State.cmpp
  try dsimp only
  repeat' (first | with_reducible assumption | intro _ | with_reducible apply kept_next | with_reducible apply keptOut_ite | with_reducible apply kept_ite | with_reducible apply st_scalar_kept)

theorem execCmppEq_kept (w : Who) (f : SForm) (s : State) (h_s : Kept canon queue s) :
    KeptOut canon queue (execCmppEq w f s) := by
  unfold execCmppEq
  try dsimp only
  repeat' (first | with_reducible assumption | intro _ | with_reducible apply kept_next | with_reducible apply keptOut_ite | with_reducible apply kept_ite | with_reducible apply st_cmpp_kept)

theorem execAget_kept (w : Who) (f : SForm) (s : State) (h_s : Kept canon queue s) :
    KeptOut canon queue (execAget w f s) := by
  unfold execAget
  try dsimp only
  repeat' (first | with_reducible assumption | intro _ | with_reducible apply kept_next | with_reducible apply keptOut_ite | with_reducible apply kept_ite | with_reducible apply st_scalar_kept)

theorem st_alu2_kept (s : State) (w : Who) (f : SForm) (n : ℕ) (op : Word → Word → Word) (h_s : Kept canon queue s) :
    KeptOut canon queue (State.alu2 s w f n op) := by
  unfold State.alu2
  try dsimp only
  repeat' (first | with_reducible assumption | intro _ | with_reducible apply kept_next | with_reducible apply keptOut_ite | with_reducible apply kept_ite | with_reducible apply st_scalar_kept)

theorem execAmov_kept (w : Who) (f : SForm) (s : State) (h_s : Kept canon queue s) :
    KeptOut canon queue (execAmov w f s) := by
  unfold execAmov
  try dsimp only
  repeat' (first | with_reducible assumption | intro _ | with_reducible apply kept_next | with_reducible apply keptOut_ite | with_reducible apply kept_ite | with_reducible apply st_scalar_kept)

theorem execPand_kept (w : Who) (f : SForm) (s : State) (h_s : Kept canon queue s) :
    KeptOut canon queue (execPand w f s) := by
  unfold execPand
  try dsimp only
  repeat' (first | with_reducible assumption | intro _ | with_reducible apply kept_next | with_reducible apply keptOut_ite | with_reducible apply kept_ite | with_reducible apply st_scalar_kept)

theorem execAluXor_kept (w : Who) (f : SForm) (s : State) (h_s : Kept canon queue s) :
    KeptOut canon queue (execAluXor w f s) := by
  unfold execAluXor
  try dsimp only
  repeat' (first | with_reducible assumption | intro _ | with_reducible apply kept_next | with_reducible apply keptOut_ite | with_reducible apply kept_ite | with_reducible apply st_alu2_kept)

theorem execAluMax_kept (w : Who) (f : SForm) (s : State) (h_s : Kept canon queue s) :
    KeptOut canon queue (execAluMax w f s) := by
  unfold execAluMax
  try dsimp only
  repeat' (first | with_reducible assumption | intro _ | with_reducible apply kept_next | with_reducible apply keptOut_ite | with_reducible apply kept_ite | with_reducible apply st_alu2_kept)

theorem execAluSll_kept (w : Who) (f : SForm) (s : State) (h_s : Kept canon queue s) :
    KeptOut canon queue (execAluSll w f s) := by
  unfold execAluSll
  try dsimp only
  repeat' (first | with_reducible assumption | intro _ | with_reducible apply kept_next | with_reducible apply keptOut_ite | with_reducible apply kept_ite | with_reducible apply st_alu2_kept)

theorem execCmppLtu_kept (w : Who) (f : SForm) (s : State) (h_s : Kept canon queue s) :
    KeptOut canon queue (execCmppLtu w f s) := by
  unfold execCmppLtu
  try dsimp only
  repeat' (first | with_reducible assumption | intro _ | with_reducible apply kept_next | with_reducible apply keptOut_ite | with_reducible apply kept_ite | with_reducible apply st_cmpp_kept)

theorem execCmppLeu_kept (w : Who) (f : SForm) (s : State) (h_s : Kept canon queue s) :
    KeptOut canon queue (execCmppLeu w f s) := by
  unfold execCmppLeu
  try dsimp only
  repeat' (first | with_reducible assumption | intro _ | with_reducible apply kept_next | with_reducible apply keptOut_ite | with_reducible apply kept_ite | with_reducible apply st_cmpp_kept)

theorem execAluMaxu_kept (w : Who) (f : SForm) (s : State) (h_s : Kept canon queue s) :
    KeptOut canon queue (execAluMaxu w f s) := by
  unfold execAluMaxu
  try dsimp only
  repeat' (first | with_reducible assumption | intro _ | with_reducible apply kept_next | with_reducible apply keptOut_ite | with_reducible apply kept_ite | with_reducible apply st_alu2_kept)

theorem execAluOr_kept (w : Who) (f : SForm) (s : State) (h_s : Kept canon queue s) :
    KeptOut canon queue (execAluOr w f s) := by
  unfold execAluOr
  try dsimp only
  repeat' (first | with_reducible assumption | intro _ | with_reducible apply kept_next | with_reducible apply keptOut_ite | with_reducible apply kept_ite | with_reducible apply st_alu2_kept)

theorem execAluSub_kept (w : Who) (f : SForm) (s : State) (h_s : Kept canon queue s) :
    KeptOut canon queue (execAluSub w f s) := by
  unfold execAluSub
  try dsimp only
  repeat' (first | with_reducible assumption | intro _ | with_reducible apply kept_next | with_reducible apply keptOut_ite | with_reducible apply kept_ite | with_reducible apply st_alu2_kept)

theorem execAluSrl_kept (w : Who) (f : SForm) (s : State) (h_s : Kept canon queue s) :
    KeptOut canon queue (execAluSrl w f s) := by
  unfold execAluSrl
  try dsimp only
  repeat' (first | with_reducible assumption | intro _ | with_reducible apply kept_next | with_reducible apply keptOut_ite | with_reducible apply kept_ite | with_reducible apply st_alu2_kept)

theorem st_alu1_kept (s : State) (w : Who) (f : SForm) (n : ℕ) (op : Word → Word) (h_s : Kept canon queue s) :
    KeptOut canon queue (State.alu1 s w f n op) := by
  unfold State.alu1
  try dsimp only
  repeat' (first | with_reducible assumption | intro _ | with_reducible apply kept_next | with_reducible apply keptOut_ite | with_reducible apply kept_ite | with_reducible apply st_scalar_kept)

theorem execAluClz_kept (w : Who) (f : SForm) (s : State) (h_s : Kept canon queue s) :
    KeptOut canon queue (execAluClz w f s) := by
  unfold execAluClz
  try dsimp only
  repeat' (first | with_reducible assumption | intro _ | with_reducible apply kept_next | with_reducible apply keptOut_ite | with_reducible apply kept_ite | with_reducible apply st_alu1_kept)

theorem execAluMinu_kept (w : Who) (f : SForm) (s : State) (h_s : Kept canon queue s) :
    KeptOut canon queue (execAluMinu w f s) := by
  unfold execAluMinu
  try dsimp only
  repeat' (first | with_reducible assumption | intro _ | with_reducible apply kept_next | with_reducible apply keptOut_ite | with_reducible apply kept_ite | with_reducible apply st_alu2_kept)

theorem execAluPopc_kept (w : Who) (f : SForm) (s : State) (h_s : Kept canon queue s) :
    KeptOut canon queue (execAluPopc w f s) := by
  unfold execAluPopc
  try dsimp only
  repeat' (first | with_reducible assumption | intro _ | with_reducible apply kept_next | with_reducible apply keptOut_ite | with_reducible apply kept_ite | with_reducible apply st_alu1_kept)

theorem execCmppNe_kept (w : Who) (f : SForm) (s : State) (h_s : Kept canon queue s) :
    KeptOut canon queue (execCmppNe w f s) := by
  unfold execCmppNe
  try dsimp only
  repeat' (first | with_reducible assumption | intro _ | with_reducible apply kept_next | with_reducible apply keptOut_ite | with_reducible apply kept_ite | with_reducible apply st_cmpp_kept)

theorem execPor_kept (w : Who) (f : SForm) (s : State) (h_s : Kept canon queue s) :
    KeptOut canon queue (execPor w f s) := by
  unfold execPor
  try dsimp only
  repeat' (first | with_reducible assumption | intro _ | with_reducible apply kept_next | with_reducible apply keptOut_ite | with_reducible apply kept_ite | with_reducible apply st_scalar_kept)

theorem execLd_kept (w : Who) (f : SForm) (s : State) (h_s : Kept canon queue s) :
    KeptOut canon queue (execLd w f s) := by
  unfold execLd
  try dsimp only
  repeat' (first | with_reducible assumption | intro _ | with_reducible apply kept_next | with_reducible apply keptOut_ite | with_reducible apply kept_ite | with_reducible apply st_scalar_kept)

theorem execAluSra_kept (w : Who) (f : SForm) (s : State) (h_s : Kept canon queue s) :
    KeptOut canon queue (execAluSra w f s) := by
  unfold execAluSra
  try dsimp only
  repeat' (first | with_reducible assumption | intro _ | with_reducible apply kept_next | with_reducible apply keptOut_ite | with_reducible apply kept_ite | with_reducible apply st_alu2_kept)

theorem execCmppLt_kept (w : Who) (f : SForm) (s : State) (h_s : Kept canon queue s) :
    KeptOut canon queue (execCmppLt w f s) := by
  unfold execCmppLt
  try dsimp only
  repeat' (first | with_reducible assumption | intro _ | with_reducible apply kept_next | with_reducible apply keptOut_ite | with_reducible apply kept_ite | with_reducible apply st_cmpp_kept)

theorem execAluAnd_kept (w : Who) (f : SForm) (s : State) (h_s : Kept canon queue s) :
    KeptOut canon queue (execAluAnd w f s) := by
  unfold execAluAnd
  try dsimp only
  repeat' (first | with_reducible assumption | intro _ | with_reducible apply kept_next | with_reducible apply keptOut_ite | with_reducible apply kept_ite | with_reducible apply st_alu2_kept)

theorem execCmppLe_kept (w : Who) (f : SForm) (s : State) (h_s : Kept canon queue s) :
    KeptOut canon queue (execCmppLe w f s) := by
  unfold execCmppLe
  try dsimp only
  repeat' (first | with_reducible assumption | intro _ | with_reducible apply kept_next | with_reducible apply keptOut_ite | with_reducible apply kept_ite | with_reducible apply st_cmpp_kept)

theorem execAluAdd_kept (w : Who) (f : SForm) (s : State) (h_s : Kept canon queue s) :
    KeptOut canon queue (execAluAdd w f s) := by
  unfold execAluAdd
  try dsimp only
  repeat' (first | with_reducible assumption | intro _ | with_reducible apply kept_next | with_reducible apply keptOut_ite | with_reducible apply kept_ite | with_reducible apply st_alu2_kept)

theorem execPnot_kept (w : Who) (f : SForm) (s : State) (h_s : Kept canon queue s) :
    KeptOut canon queue (execPnot w f s) := by
  unfold execPnot
  try dsimp only
  repeat' (first | with_reducible assumption | intro _ | with_reducible apply kept_next | with_reducible apply keptOut_ite | with_reducible apply kept_ite | with_reducible apply st_scalar_kept)

theorem execAluMin_kept (w : Who) (f : SForm) (s : State) (h_s : Kept canon queue s) :
    KeptOut canon queue (execAluMin w f s) := by
  unfold execAluMin
  try dsimp only
  repeat' (first | with_reducible assumption | intro _ | with_reducible apply kept_next | with_reducible apply keptOut_ite | with_reducible apply kept_ite | with_reducible apply st_alu2_kept)

theorem execAddi_kept (w : Who) (f : SForm) (s : State) (h_s : Kept canon queue s) :
    KeptOut canon queue (execAddi w f s) := by
  unfold execAddi
  try dsimp only
  repeat' (first | with_reducible assumption | intro _ | with_reducible apply kept_next | with_reducible apply keptOut_ite | with_reducible apply kept_ite | with_reducible apply st_scalar_kept)

theorem execLih_kept (w : Who) (f : SForm) (s : State) (h_s : Kept canon queue s) :
    KeptOut canon queue (execLih w f s) := by
  unfold execLih
  try dsimp only
  repeat' (first | with_reducible assumption | intro _ | with_reducible apply kept_next | with_reducible apply keptOut_ite | with_reducible apply kept_ite | with_reducible apply st_scalar_kept)

theorem execAluSlt_kept (w : Who) (f : SForm) (s : State) (h_s : Kept canon queue s) :
    KeptOut canon queue (execAluSlt w f s) := by
  unfold execAluSlt
  try dsimp only
  repeat' (first | with_reducible assumption | intro _ | with_reducible apply kept_next | with_reducible apply keptOut_ite | with_reducible apply kept_ite | with_reducible apply st_alu2_kept)

theorem execSt_kept (w : Who) (f : SForm) (s : State) (h_s : Kept canon queue s) :
    KeptOut canon queue (execSt w f s) := by
  unfold execSt
  try dsimp only
  repeat' (first | with_reducible assumption | intro _ | with_reducible apply kept_next | with_reducible apply keptOut_ite | with_reducible apply kept_ite | with_reducible apply st_controller_kept | with_reducible apply st_putAt_kept | with_reducible apply st_setWho_kept | fail_if_no_progress with_reducible apply kept_mk | split)

theorem execAluSltu_kept (w : Who) (f : SForm) (s : State) (h_s : Kept canon queue s) :
    KeptOut canon queue (execAluSltu w f s) := by
  unfold execAluSltu
  try dsimp only
  repeat' (first | with_reducible assumption | intro _ | with_reducible apply kept_next | with_reducible apply keptOut_ite | with_reducible apply kept_ite | with_reducible apply st_alu2_kept)

theorem execAadd_kept (w : Who) (f : SForm) (s : State) (h_s : Kept canon queue s) :
    KeptOut canon queue (execAadd w f s) := by
  unfold execAadd
  try dsimp only
  repeat' (first | with_reducible assumption | intro _ | with_reducible apply kept_next | with_reducible apply keptOut_ite | with_reducible apply kept_ite | with_reducible apply st_scalar_kept)

theorem execSysWr_kept (w : Who) (f : SForm) (s : State) (h_s : Kept canon queue s) :
    KeptOut canon queue (execSysWr w f s) := by
  unfold execSysWr
  try dsimp only
  repeat' (first | with_reducible assumption | intro _ | with_reducible apply kept_next | with_reducible apply keptOut_ite | with_reducible apply kept_ite | with_reducible apply st_controller_kept | with_reducible apply st_setWho_kept)

theorem execSysNop_kept (w : Who) (f : SForm) (s : State) (h_s : Kept canon queue s) :
    KeptOut canon queue (execSysNop w f s) := by
  unfold execSysNop
  try dsimp only
  repeat' (first | with_reducible assumption | intro _ | with_reducible apply kept_next | with_reducible apply keptOut_ite | with_reducible apply kept_ite | with_reducible apply st_scalar_kept)

theorem execSysRd_kept (w : Who) (f : SForm) (s : State) (h_s : Kept canon queue s) :
    KeptOut canon queue (execSysRd w f s) := by
  unfold execSysRd
  try dsimp only
  repeat' (first | with_reducible assumption | intro _ | with_reducible apply kept_next | with_reducible apply keptOut_ite | with_reducible apply kept_ite | with_reducible apply st_scalar_kept)

theorem execSyncStep_kept (w : Who) (f : SForm) (s : State) (h_s : Kept canon queue s) :
    KeptOut canon queue (execSyncStep w f s) := by
  unfold execSyncStep
  try dsimp only
  repeat' (first | with_reducible assumption | intro _ | with_reducible apply kept_next | with_reducible apply keptOut_ite | with_reducible apply kept_ite | with_reducible apply st_controller_kept | with_reducible apply st_reap_kept | with_reducible apply st_ctlFault_kept | with_reducible apply st_setWho_kept)

theorem execSyncFence_kept (w : Who) (f : SForm) (s : State) (h_s : Kept canon queue s) :
    KeptOut canon queue (execSyncFence w f s) := by
  unfold execSyncFence
  try dsimp only
  repeat' (first | with_reducible assumption | intro _ | with_reducible apply kept_next | with_reducible apply keptOut_ite | with_reducible apply kept_ite | with_reducible apply st_controller_kept | with_reducible apply st_setWho_kept)

theorem execSyncKjoin_kept (w : Who) (f : SForm) (s : State) (h_s : Kept canon queue s) :
    KeptOut canon queue (execSyncKjoin w f s) := by
  unfold execSyncKjoin
  try dsimp only
  repeat' (first | with_reducible assumption | intro _ | with_reducible apply kept_next | with_reducible apply keptOut_ite | with_reducible apply kept_ite | with_reducible apply st_controller_kept | with_reducible apply st_settleJoins_kept | with_reducible apply st_setWho_kept)

theorem execSysEnd_kept (w : Who) (f : SForm) (s : State) (h_s : Kept canon queue s) :
    KeptOut canon queue (execSysEnd w f s) := by
  unfold execSysEnd
  try dsimp only
  repeat' (first | with_reducible assumption | intro _ | with_reducible apply kept_next | with_reducible apply keptOut_ite | with_reducible apply kept_ite | with_reducible apply st_controller_kept | with_reducible apply st_reap_kept | with_reducible apply st_endJob_kept | with_reducible apply st_setWho_kept)

theorem execSyncKwait_kept (w : Who) (f : SForm) (s : State) (h_s : Kept canon queue s) :
    KeptOut canon queue (execSyncKwait w f s) := by
  unfold execSyncKwait
  try dsimp only
  repeat' (first | with_reducible assumption | intro _ | with_reducible apply kept_next | with_reducible apply keptOut_ite | with_reducible apply kept_ite | with_reducible apply st_controller_kept | with_reducible apply st_setWho_kept)

theorem execSyncKread_kept (w : Who) (f : SForm) (s : State) (h_s : Kept canon queue s) :
    KeptOut canon queue (execSyncKread w f s) := by
  unfold execSyncKread
  try dsimp only
  repeat' (first | with_reducible assumption | intro _ | with_reducible apply kept_next | with_reducible apply keptOut_ite | with_reducible apply kept_ite | with_reducible apply st_controller_kept | with_reducible apply st_setWho_kept)

theorem execTaskPush_kept (w : Who) (f : SForm) (s : State) (h_s : Kept canon queue s) :
    KeptOut canon queue (execTaskPush w f s) := by
  unfold execTaskPush
  try dsimp only
  repeat' (first | with_reducible assumption | intro _ | with_reducible apply kept_next | with_reducible apply keptOut_ite | with_reducible apply kept_ite | with_reducible apply st_controller_kept | with_reducible apply st_setWho_kept | with_reducible apply st_setJob_kept)

theorem st_takeBranch_kept (s : State) (w : Who) (word : Word) (x : Ctx) (a : DevAddr) (h_s : Kept canon queue s) :
    Kept canon queue (State.takeBranch s w word x a) := by
  unfold State.takeBranch
  try dsimp only
  repeat' (first | with_reducible assumption | intro _ | with_reducible apply kept_ite | with_reducible apply st_reap_kept | with_reducible apply st_ctlFault_kept | with_reducible apply st_setWho_kept)

theorem execLoop_kept (w : Who) (f : SForm) (s : State) (h_s : Kept canon queue s) :
    KeptOut canon queue (execLoop w f s) := by
  unfold execLoop
  try dsimp only
  repeat' (first | with_reducible assumption | intro _ | with_reducible apply kept_next | with_reducible apply keptOut_ite | with_reducible apply kept_ite | with_reducible apply st_takeBranch_kept | with_reducible apply st_controller_kept | with_reducible apply st_setWho_kept)

theorem execTaskPop_kept (w : Who) (f : SForm) (s : State) (h_s : Kept canon queue s) :
    KeptOut canon queue (execTaskPop w f s) := by
  unfold execTaskPop
  try dsimp only
  repeat' (first | with_reducible assumption | intro _ | with_reducible apply kept_next | with_reducible apply keptOut_ite | with_reducible apply kept_ite | with_reducible apply st_controller_kept | with_reducible apply st_setWho_kept | with_reducible apply st_setJob_kept | split)

theorem execEndl_kept (w : Who) (f : SForm) (s : State) (h_s : Kept canon queue s) :
    KeptOut canon queue (execEndl w f s) := by
  unfold execEndl
  try dsimp only
  repeat' (first | with_reducible assumption | intro _ | with_reducible apply kept_next | with_reducible apply keptOut_ite | with_reducible apply kept_ite | with_reducible apply st_takeBranch_kept | with_reducible apply st_controller_kept | with_reducible apply st_setWho_kept)

theorem execBr_kept (w : Who) (f : SForm) (s : State) (h_s : Kept canon queue s) :
    KeptOut canon queue (execBr w f s) := by
  unfold execBr
  try dsimp only
  repeat' (first | with_reducible assumption | intro _ | with_reducible apply kept_next | with_reducible apply keptOut_ite | with_reducible apply kept_ite | with_reducible apply st_takeBranch_kept | with_reducible apply st_controller_kept | with_reducible apply st_setWho_kept)

theorem execTwUnif_kept (w : Who) (f : EForm) (s : State) (h_s : Kept canon queue s) :
    KeptOut canon queue (execTwUnif w f s) := by
  unfold execTwUnif
  try dsimp only
  repeat' (first | with_reducible assumption | intro _ | with_reducible apply kept_next | with_reducible apply keptOut_ite | with_reducible apply kept_ite | with_reducible apply st_issue_kept)

theorem execTwBits_kept (w : Who) (f : EForm) (s : State) (h_s : Kept canon queue s) :
    KeptOut canon queue (execTwBits w f s) := by
  unfold execTwBits
  try dsimp only
  repeat' (first | with_reducible assumption | intro _ | with_reducible apply kept_next | with_reducible apply keptOut_ite | with_reducible apply kept_ite | with_reducible apply st_issue_kept)

theorem execTwMask_kept (w : Who) (f : EForm) (s : State) (h_s : Kept canon queue s) :
    KeptOut canon queue (execTwMask w f s) := by
  unfold execTwMask
  try dsimp only
  repeat' (first | with_reducible assumption | intro _ | with_reducible apply kept_next | with_reducible apply keptOut_ite | with_reducible apply kept_ite | with_reducible apply st_issue_kept)

theorem execSyncPrecv_kept (w : Who) (f : EForm) (s : State) (h_s : Kept canon queue s) :
    KeptOut canon queue (execSyncPrecv w f s) := by
  unfold execSyncPrecv
  try dsimp only
  repeat' (first | with_reducible assumption | intro _ | with_reducible apply kept_next | with_reducible apply keptOut_ite | with_reducible apply kept_ite | with_reducible apply st_issue_kept)

theorem execReelIn_kept (w : Who) (f : EForm) (s : State) (h_s : Kept canon queue s) :
    KeptOut canon queue (execReelIn w f s) := by
  unfold execReelIn
  try dsimp only
  repeat' (first | with_reducible assumption | intro _ | with_reducible apply kept_next | with_reducible apply keptOut_ite | with_reducible apply kept_ite | with_reducible apply st_issue_kept)

theorem execReelPsend_kept (w : Who) (f : EForm) (s : State) (h_s : Kept canon queue s) :
    KeptOut canon queue (execReelPsend w f s) := by
  unfold execReelPsend
  try dsimp only
  repeat' (first | with_reducible assumption | intro _ | with_reducible apply kept_next | with_reducible apply keptOut_ite | with_reducible apply kept_ite | with_reducible apply st_issue_kept)

theorem execReelOut_kept (w : Who) (f : EForm) (s : State) (h_s : Kept canon queue s) :
    KeptOut canon queue (execReelOut w f s) := by
  unfold execReelOut
  try dsimp only
  repeat' (first | with_reducible assumption | intro _ | with_reducible apply kept_next | with_reducible apply keptOut_ite | with_reducible apply kept_ite | with_reducible apply st_issue_kept)

theorem execShutFree_kept (w : Who) (f : EForm) (s : State) (h_s : Kept canon queue s) :
    KeptOut canon queue (execShutFree w f s) := by
  unfold execShutFree
  try dsimp only
  repeat' (first | with_reducible assumption | intro _ | with_reducible apply kept_next | with_reducible apply keptOut_ite | with_reducible apply kept_ite | with_reducible apply st_issue_kept)

theorem execShutEmit_kept (w : Who) (f : EForm) (s : State) (h_s : Kept canon queue s) :
    KeptOut canon queue (execShutEmit w f s) := by
  unfold execShutEmit
  try dsimp only
  repeat' (first | with_reducible assumption | intro _ | with_reducible apply kept_next | with_reducible apply keptOut_ite | with_reducible apply kept_ite | with_reducible apply st_issue_kept)

theorem execShutTake_kept (w : Who) (f : EForm) (s : State) (h_s : Kept canon queue s) :
    KeptOut canon queue (execShutTake w f s) := by
  unfold execShutTake
  try dsimp only
  repeat' (first | with_reducible assumption | intro _ | with_reducible apply kept_next | with_reducible apply keptOut_ite | with_reducible apply kept_ite | with_reducible apply st_issue_kept)

theorem execShutScan_kept (w : Who) (f : EForm) (s : State) (h_s : Kept canon queue s) :
    KeptOut canon queue (execShutScan w f s) := by
  unfold execShutScan
  try dsimp only
  repeat' (first | with_reducible assumption | intro _ | with_reducible apply kept_next | with_reducible apply keptOut_ite | with_reducible apply kept_ite | with_reducible apply st_issue_kept)

theorem execUpdStat_kept (w : Who) (f : EForm) (s : State) (h_s : Kept canon queue s) :
    KeptOut canon queue (execUpdStat w f s) := by
  unfold execUpdStat
  try dsimp only
  repeat' (first | with_reducible assumption | intro _ | with_reducible apply kept_next | with_reducible apply keptOut_ite | with_reducible apply kept_ite | with_reducible apply st_issue_kept)

theorem execUpdApply_kept (w : Who) (f : EForm) (s : State) (h_s : Kept canon queue s) :
    KeptOut canon queue (execUpdApply w f s) := by
  unfold execUpdApply
  try dsimp only
  repeat' (first | with_reducible assumption | intro _ | with_reducible apply kept_next | with_reducible apply keptOut_ite | with_reducible apply kept_ite | with_reducible apply st_issue_kept)

theorem execVeSum_kept (w : Who) (f : EForm) (s : State) (h_s : Kept canon queue s) :
    KeptOut canon queue (execVeSum w f s) := by
  unfold execVeSum
  try dsimp only
  repeat' (first | with_reducible assumption | intro _ | with_reducible apply kept_next | with_reducible apply keptOut_ite | with_reducible apply kept_ite | with_reducible apply st_issue_kept)

theorem execVeDq_kept (w : Who) (f : EForm) (s : State) (h_s : Kept canon queue s) :
    KeptOut canon queue (execVeDq w f s) := by
  unfold execVeDq
  try dsimp only
  repeat' (first | with_reducible assumption | intro _ | with_reducible apply kept_next | with_reducible apply keptOut_ite | with_reducible apply kept_ite | with_reducible apply st_issue_kept)

theorem execVeCmpLe_kept (w : Who) (f : EForm) (s : State) (h_s : Kept canon queue s) :
    KeptOut canon queue (execVeCmpLe w f s) := by
  unfold execVeCmpLe
  try dsimp only
  repeat' (first | with_reducible assumption | intro _ | with_reducible apply kept_next | with_reducible apply keptOut_ite | with_reducible apply kept_ite | with_reducible apply st_issue_kept)

theorem execVeLog2_kept (w : Who) (f : EForm) (s : State) (h_s : Kept canon queue s) :
    KeptOut canon queue (execVeLog2 w f s) := by
  unfold execVeLog2
  try dsimp only
  repeat' (first | with_reducible assumption | intro _ | with_reducible apply kept_next | with_reducible apply keptOut_ite | with_reducible apply kept_ite | with_reducible apply st_issue_kept)

theorem execVeXpose_kept (w : Who) (f : EForm) (s : State) (h_s : Kept canon queue s) :
    KeptOut canon queue (execVeXpose w f s) := by
  unfold execVeXpose
  try dsimp only
  repeat' (first | with_reducible assumption | intro _ | with_reducible apply kept_next | with_reducible apply keptOut_ite | with_reducible apply kept_ite | with_reducible apply st_issue_kept)

theorem execVeMul_kept (w : Who) (f : EForm) (s : State) (h_s : Kept canon queue s) :
    KeptOut canon queue (execVeMul w f s) := by
  unfold execVeMul
  try dsimp only
  repeat' (first | with_reducible assumption | intro _ | with_reducible apply kept_next | with_reducible apply keptOut_ite | with_reducible apply kept_ite | with_reducible apply st_issue_kept)

theorem execVeSub_kept (w : Who) (f : EForm) (s : State) (h_s : Kept canon queue s) :
    KeptOut canon queue (execVeSub w f s) := by
  unfold execVeSub
  try dsimp only
  repeat' (first | with_reducible assumption | intro _ | with_reducible apply kept_next | with_reducible apply keptOut_ite | with_reducible apply kept_ite | with_reducible apply st_issue_kept)

theorem execVeSigmoid_kept (w : Who) (f : EForm) (s : State) (h_s : Kept canon queue s) :
    KeptOut canon queue (execVeSigmoid w f s) := by
  unfold execVeSigmoid
  try dsimp only
  repeat' (first | with_reducible assumption | intro _ | with_reducible apply kept_next | with_reducible apply keptOut_ite | with_reducible apply kept_ite | with_reducible apply st_issue_kept)

theorem execVeLse_kept (w : Who) (f : EForm) (s : State) (h_s : Kept canon queue s) :
    KeptOut canon queue (execVeLse w f s) := by
  unfold execVeLse
  try dsimp only
  repeat' (first | with_reducible assumption | intro _ | with_reducible apply kept_next | with_reducible apply keptOut_ite | with_reducible apply kept_ite | with_reducible apply st_issue_kept)

theorem execVeKltopk_kept (w : Who) (f : EForm) (s : State) (h_s : Kept canon queue s) :
    KeptOut canon queue (execVeKltopk w f s) := by
  unfold execVeKltopk
  try dsimp only
  repeat' (first | with_reducible assumption | intro _ | with_reducible apply kept_next | with_reducible apply keptOut_ite | with_reducible apply kept_ite | with_reducible apply st_issue_kept)

theorem execVeMax_kept (w : Who) (f : EForm) (s : State) (h_s : Kept canon queue s) :
    KeptOut canon queue (execVeMax w f s) := by
  unfold execVeMax
  try dsimp only
  repeat' (first | with_reducible assumption | intro _ | with_reducible apply kept_next | with_reducible apply keptOut_ite | with_reducible apply kept_ite | with_reducible apply st_issue_kept)

theorem execVeTopk_kept (w : Who) (f : EForm) (s : State) (h_s : Kept canon queue s) :
    KeptOut canon queue (execVeTopk w f s) := by
  unfold execVeTopk
  try dsimp only
  repeat' (first | with_reducible assumption | intro _ | with_reducible apply kept_next | with_reducible apply keptOut_ite | with_reducible apply kept_ite | with_reducible apply st_issue_kept)

theorem execVeExp_kept (w : Who) (f : EForm) (s : State) (h_s : Kept canon queue s) :
    KeptOut canon queue (execVeExp w f s) := by
  unfold execVeExp
  try dsimp only
  repeat' (first | with_reducible assumption | intro _ | with_reducible apply kept_next | with_reducible apply keptOut_ite | with_reducible apply kept_ite | with_reducible apply st_issue_kept)

theorem execVeLn_kept (w : Who) (f : EForm) (s : State) (h_s : Kept canon queue s) :
    KeptOut canon queue (execVeLn w f s) := by
  unfold execVeLn
  try dsimp only
  repeat' (first | with_reducible assumption | intro _ | with_reducible apply kept_next | with_reducible apply keptOut_ite | with_reducible apply kept_ite | with_reducible apply st_issue_kept)

theorem execVeSqrt_kept (w : Who) (f : EForm) (s : State) (h_s : Kept canon queue s) :
    KeptOut canon queue (execVeSqrt w f s) := by
  unfold execVeSqrt
  try dsimp only
  repeat' (first | with_reducible assumption | intro _ | with_reducible apply kept_next | with_reducible apply keptOut_ite | with_reducible apply kept_ite | with_reducible apply st_issue_kept)

theorem execVeQz_kept (w : Who) (f : EForm) (s : State) (h_s : Kept canon queue s) :
    KeptOut canon queue (execVeQz w f s) := by
  unfold execVeQz
  try dsimp only
  repeat' (first | with_reducible assumption | intro _ | with_reducible apply kept_next | with_reducible apply keptOut_ite | with_reducible apply kept_ite | with_reducible apply st_issue_kept)

theorem execVeRsqrt_kept (w : Who) (f : EForm) (s : State) (h_s : Kept canon queue s) :
    KeptOut canon queue (execVeRsqrt w f s) := by
  unfold execVeRsqrt
  try dsimp only
  repeat' (first | with_reducible assumption | intro _ | with_reducible apply kept_next | with_reducible apply keptOut_ite | with_reducible apply kept_ite | with_reducible apply st_issue_kept)

theorem execVeMinr_kept (w : Who) (f : EForm) (s : State) (h_s : Kept canon queue s) :
    KeptOut canon queue (execVeMinr w f s) := by
  unfold execVeMinr
  try dsimp only
  repeat' (first | with_reducible assumption | intro _ | with_reducible apply kept_next | with_reducible apply keptOut_ite | with_reducible apply kept_ite | with_reducible apply st_issue_kept)

theorem execVeLsum_kept (w : Who) (f : EForm) (s : State) (h_s : Kept canon queue s) :
    KeptOut canon queue (execVeLsum w f s) := by
  unfold execVeLsum
  try dsimp only
  repeat' (first | with_reducible assumption | intro _ | with_reducible apply kept_next | with_reducible apply keptOut_ite | with_reducible apply kept_ite | with_reducible apply st_issue_kept)

theorem execVeNeg_kept (w : Who) (f : EForm) (s : State) (h_s : Kept canon queue s) :
    KeptOut canon queue (execVeNeg w f s) := by
  unfold execVeNeg
  try dsimp only
  repeat' (first | with_reducible assumption | intro _ | with_reducible apply kept_next | with_reducible apply keptOut_ite | with_reducible apply kept_ite | with_reducible apply st_issue_kept)

theorem execVeAdd_kept (w : Who) (f : EForm) (s : State) (h_s : Kept canon queue s) :
    KeptOut canon queue (execVeAdd w f s) := by
  unfold execVeAdd
  try dsimp only
  repeat' (first | with_reducible assumption | intro _ | with_reducible apply kept_next | with_reducible apply keptOut_ite | with_reducible apply kept_ite | with_reducible apply st_issue_kept)

theorem execVePow_kept (w : Who) (f : EForm) (s : State) (h_s : Kept canon queue s) :
    KeptOut canon queue (execVePow w f s) := by
  unfold execVePow
  try dsimp only
  repeat' (first | with_reducible assumption | intro _ | with_reducible apply kept_next | with_reducible apply keptOut_ite | with_reducible apply kept_ite | with_reducible apply st_issue_kept)

theorem execVeCmpEq_kept (w : Who) (f : EForm) (s : State) (h_s : Kept canon queue s) :
    KeptOut canon queue (execVeCmpEq w f s) := by
  unfold execVeCmpEq
  try dsimp only
  repeat' (first | with_reducible assumption | intro _ | with_reducible apply kept_next | with_reducible apply keptOut_ite | with_reducible apply kept_ite | with_reducible apply st_issue_kept)

theorem execVeCmpLt_kept (w : Who) (f : EForm) (s : State) (h_s : Kept canon queue s) :
    KeptOut canon queue (execVeCmpLt w f s) := by
  unfold execVeCmpLt
  try dsimp only
  repeat' (first | with_reducible assumption | intro _ | with_reducible apply kept_next | with_reducible apply keptOut_ite | with_reducible apply kept_ite | with_reducible apply st_issue_kept)

theorem execVeAbs_kept (w : Who) (f : EForm) (s : State) (h_s : Kept canon queue s) :
    KeptOut canon queue (execVeAbs w f s) := by
  unfold execVeAbs
  try dsimp only
  repeat' (first | with_reducible assumption | intro _ | with_reducible apply kept_next | with_reducible apply keptOut_ite | with_reducible apply kept_ite | with_reducible apply st_issue_kept)

theorem execVeSumsq_kept (w : Who) (f : EForm) (s : State) (h_s : Kept canon queue s) :
    KeptOut canon queue (execVeSumsq w f s) := by
  unfold execVeSumsq
  try dsimp only
  repeat' (first | with_reducible assumption | intro _ | with_reducible apply kept_next | with_reducible apply keptOut_ite | with_reducible apply kept_ite | with_reducible apply st_issue_kept)

theorem execVeMin_kept (w : Who) (f : EForm) (s : State) (h_s : Kept canon queue s) :
    KeptOut canon queue (execVeMin w f s) := by
  unfold execVeMin
  try dsimp only
  repeat' (first | with_reducible assumption | intro _ | with_reducible apply kept_next | with_reducible apply keptOut_ite | with_reducible apply kept_ite | with_reducible apply st_issue_kept)

theorem execVeMaxr_kept (w : Who) (f : EForm) (s : State) (h_s : Kept canon queue s) :
    KeptOut canon queue (execVeMaxr w f s) := by
  unfold execVeMaxr
  try dsimp only
  repeat' (first | with_reducible assumption | intro _ | with_reducible apply kept_next | with_reducible apply keptOut_ite | with_reducible apply kept_ite | with_reducible apply st_issue_kept)

theorem execVeSel_kept (w : Who) (f : EForm) (s : State) (h_s : Kept canon queue s) :
    KeptOut canon queue (execVeSel w f s) := by
  unfold execVeSel
  try dsimp only
  repeat' (first | with_reducible assumption | intro _ | with_reducible apply kept_next | with_reducible apply keptOut_ite | with_reducible apply kept_ite | with_reducible apply st_issue_kept)

theorem execVeRecip_kept (w : Who) (f : EForm) (s : State) (h_s : Kept canon queue s) :
    KeptOut canon queue (execVeRecip w f s) := by
  unfold execVeRecip
  try dsimp only
  repeat' (first | with_reducible assumption | intro _ | with_reducible apply kept_next | with_reducible apply keptOut_ite | with_reducible apply kept_ite | with_reducible apply st_issue_kept)

theorem execVeAmax_kept (w : Who) (f : EForm) (s : State) (h_s : Kept canon queue s) :
    KeptOut canon queue (execVeAmax w f s) := by
  unfold execVeAmax
  try dsimp only
  repeat' (first | with_reducible assumption | intro _ | with_reducible apply kept_next | with_reducible apply keptOut_ite | with_reducible apply kept_ite | with_reducible apply st_issue_kept)

theorem execVeCombine_kept (w : Who) (f : EForm) (s : State) (h_s : Kept canon queue s) :
    KeptOut canon queue (execVeCombine w f s) := by
  unfold execVeCombine
  try dsimp only
  repeat' (first | with_reducible assumption | intro _ | with_reducible apply kept_next | with_reducible apply keptOut_ite | with_reducible apply kept_ite | with_reducible apply st_issue_kept)

theorem execVeTopkmerge_kept (w : Who) (f : EForm) (s : State) (h_s : Kept canon queue s) :
    KeptOut canon queue (execVeTopkmerge w f s) := by
  unfold execVeTopkmerge
  try dsimp only
  repeat' (first | with_reducible assumption | intro _ | with_reducible apply kept_next | with_reducible apply keptOut_ite | with_reducible apply kept_ite | with_reducible apply st_issue_kept)

theorem execVeCvt_kept (w : Who) (f : EForm) (s : State) (h_s : Kept canon queue s) :
    KeptOut canon queue (execVeCvt w f s) := by
  unfold execVeCvt
  try dsimp only
  repeat' (first | with_reducible assumption | intro _ | with_reducible apply kept_next | with_reducible apply keptOut_ite | with_reducible apply kept_ite | with_reducible apply st_issue_kept)

theorem execVeSoftmax_kept (w : Who) (f : EForm) (s : State) (h_s : Kept canon queue s) :
    KeptOut canon queue (execVeSoftmax w f s) := by
  unfold execVeSoftmax
  try dsimp only
  repeat' (first | with_reducible assumption | intro _ | with_reducible apply kept_next | with_reducible apply keptOut_ite | with_reducible apply kept_ite | with_reducible apply st_issue_kept)

end Sys2Proof.Laws
end

