-- ==== Sys2Proof/Laws/KeptManagement.lean ====
section
/-! SUPPORT. What every operation keeps (Laws/Kept.lean): registers, start-up, sessions, attestation, time and power. -/

set_option maxRecDepth 4000

namespace Sys2Proof.Laws

open Sys2Proof.Machine

variable {canon : Prop} {queue : List Instr}

theorem st_timePacket_kept (s : State) (n : ℕ) (type : ℕ) (tag : ℕ) (h_s : Kept canon queue s) :
    Kept canon queue (State.timePacket s n type tag) := by
  unfold State.timePacket
  try dsimp only
  repeat' (first | with_reducible assumption | intro _ | with_reducible apply kept_ite | with_reducible apply st_sendOn_kept)

theorem execFabricSyncSend_kept (s : State) (h_s : Kept canon queue s) :
    KeptOut canon queue (execFabricSyncSend s) := by
  unfold execFabricSyncSend
  try dsimp only
  repeat' (first | with_reducible assumption | intro _ | with_reducible apply kept_next | with_reducible apply keptOut_ite | with_reducible apply kept_ite | with_reducible apply st_timePacket_kept | with_reducible apply kept_foldl)

theorem st_setSource_kept (s : State) (st : ℕ) (dist : ℕ) (plink : ℕ) (h_s : Kept canon queue s) :
    Kept canon queue (State.setSource s st dist plink) := by
  unfold State.setSource
  try dsimp only
  repeat' (first | with_reducible assumption | intro _ | with_reducible apply kept_ite | with_reducible apply st_baroWrite_kept | fail_if_no_progress with_reducible apply kept_mk)

theorem st_slew_kept (s : State) (offset : ℤ) (h_s : Kept canon queue s) :
    Kept canon queue (State.slew s offset) := by
  unfold State.slew
  try dsimp only
  repeat' (first | with_reducible assumption | intro _ | with_reducible apply kept_ite | fail_if_no_progress with_reducible apply kept_mk)

theorem st_recvSync_kept (s : State) (n : ℕ) (tag : Word) (h_s : Kept canon queue s) :
    Kept canon queue (State.recvSync s n tag) := by
  unfold State.recvSync
  try dsimp only
  repeat' (first | with_reducible assumption | intro _ | with_reducible apply kept_ite | with_reducible apply st_slew_kept | with_reducible apply st_setSource_kept | with_reducible apply st_setLink_kept | split)

theorem execFabricSync_kept (link : BitVec 6) (tag : Word) (s : State) (h_s : Kept canon queue s) :
    KeptOut canon queue (execFabricSync link tag s) := by
  unfold execFabricSync
  try dsimp only
  repeat' (first | with_reducible assumption | intro _ | with_reducible apply kept_next | with_reducible apply keptOut_ite | with_reducible apply kept_ite | with_reducible apply st_recvSync_kept)

theorem execFabricHoldover_kept (s : State) (h_s : Kept canon queue s) :
    KeptOut canon queue (execFabricHoldover s) := by
  unfold execFabricHoldover
  try dsimp only
  repeat' (first | with_reducible assumption | intro _ | with_reducible apply kept_next | with_reducible apply keptOut_ite | with_reducible apply kept_ite | with_reducible apply st_setSource_kept)

theorem st_recvDelayReq_kept (s : State) (n : ℕ) (_tag : Word) (h_s : Kept canon queue s) :
    Kept canon queue (State.recvDelayReq s n _tag) := by
  unfold State.recvDelayReq
  try dsimp only
  repeat' (first | with_reducible assumption | intro _ | with_reducible apply kept_ite | with_reducible apply st_timePacket_kept)

theorem st_settleSource_kept (s : State) (h_s : Kept canon queue s) :
    Kept canon queue (State.settleSource s) := by
  unfold State.settleSource
  try dsimp only
  repeat' (first | with_reducible assumption | intro _ | with_reducible apply kept_ite | with_reducible apply st_setSource_kept | split)

theorem execDelayReq_kept (link : BitVec 6) (tag : Word) (s : State) (h_s : Kept canon queue s) :
    KeptOut canon queue (execDelayReq link tag s) := by
  unfold execDelayReq
  try dsimp only
  repeat' (first | with_reducible assumption | intro _ | with_reducible apply kept_next | with_reducible apply keptOut_ite | with_reducible apply kept_ite | with_reducible apply st_recvDelayReq_kept)

theorem st_recvDelayResp_kept (s : State) (n : ℕ) (tag : Word) (h_s : Kept canon queue s) :
    Kept canon queue (State.recvDelayResp s n tag) := by
  unfold State.recvDelayResp
  try dsimp only
  repeat' (first | with_reducible assumption | intro _ | with_reducible apply kept_ite | with_reducible apply st_setLink_kept | split)

theorem execDelayResp_kept (link : BitVec 6) (tag : Word) (s : State) (h_s : Kept canon queue s) :
    KeptOut canon queue (execDelayResp link tag s) := by
  unfold execDelayResp
  try dsimp only
  repeat' (first | with_reducible assumption | intro _ | with_reducible apply kept_next | with_reducible apply keptOut_ite | with_reducible apply kept_ite | with_reducible apply st_recvDelayResp_kept)

theorem execDelayMeasure_kept (s : State) (h_s : Kept canon queue s) :
    KeptOut canon queue (execDelayMeasure s) := by
  unfold execDelayMeasure
  try dsimp only
  repeat' (first | with_reducible assumption | intro _ | with_reducible apply kept_next | with_reducible apply keptOut_ite | with_reducible apply kept_ite | with_reducible apply st_timePacket_kept | with_reducible apply st_setLink_kept | split)

theorem st_closeTransport_kept (s : State) (t : Transport) (h_s : Kept canon queue s) :
    Kept canon queue (State.closeTransport s t) := by
  unfold State.closeTransport
  try dsimp only
  repeat' (first | with_reducible assumption | intro _ | with_reducible apply kept_ite | fail_if_no_progress with_reducible apply kept_mk)

theorem st_regWrite_kept (s : State) (r : Reg) (v : Word) (h_s : Kept canon queue s) :
    KeptOpt canon queue (State.regWrite s r v) := by
  unfold State.regWrite
  try dsimp only
  repeat' (first | with_reducible assumption | intro _ | with_reducible apply kept_ite | with_reducible apply st_settleSource_kept | with_reducible apply st_setFn_kept | with_reducible apply st_setWp_kept | with_reducible apply st_setWho_kept | with_reducible apply st_setFrame_kept | with_reducible apply keptOpt_some | with_reducible apply keptOpt_none | with_reducible apply keptOpt_ite | with_reducible apply kept_getD | with_reducible apply keptOpt_mapSt | with_reducible apply keptOpt_map | refine keptOpt_elim ?_ (by with_reducible assumption) | fail_if_no_progress with_reducible apply kept_mk | split)

theorem st_regWriteChecked_kept (s : State) (r : Reg) (v : Word) (fails : Bool) (h_s : Kept canon queue s) :
    KeptOpt canon queue (State.regWriteChecked s r v fails) := by
  unfold State.regWriteChecked
  try dsimp only
  repeat' (first | with_reducible assumption | intro _ | with_reducible apply kept_ite | with_reducible apply st_regWrite_kept | with_reducible apply st_pageRetire_kept | with_reducible apply keptOpt_some | with_reducible apply keptOpt_none | with_reducible apply keptOpt_ite | with_reducible apply kept_getD | with_reducible apply keptOpt_mapSt | with_reducible apply keptOpt_map | refine keptOpt_elim ?_ (by with_reducible assumption) | split)

theorem execRegisterWrite_kept (r : Reg) (v : Word) (fails : Bool) (s : State) (h_s : Kept canon queue s) :
    KeptOut canon queue (execRegisterWrite r v fails s) := by
  unfold execRegisterWrite
  try dsimp only
  repeat' (first | with_reducible assumption | intro _ | with_reducible apply kept_next | with_reducible apply keptOut_ite | with_reducible apply kept_ite | with_reducible apply st_regWriteChecked_kept | with_reducible apply execJobRcfgWrite_kept | with_reducible apply keptOpt_some | with_reducible apply keptOpt_none | with_reducible apply keptOpt_ite | with_reducible apply kept_getD | with_reducible apply keptOpt_mapSt | with_reducible apply keptOpt_map | refine keptOpt_elim ?_ (by with_reducible assumption) | split)

theorem st_respond_kept (s : State) (p : Peer) (o : Out) (h_s : Kept canon queue s) :
    Kept canon queue (State.respond s p o) := by
  unfold State.respond
  try dsimp only
  repeat' (first | with_reducible assumption | intro _ | with_reducible apply kept_ite | with_reducible apply st_emit_kept | split)

theorem st_loadLane_kept (s : State) (n : ℕ) (h_s : Kept canon queue s) :
    Kept canon queue (State.loadLane s n) := by
  unfold State.loadLane
  try dsimp only
  repeat' (first | with_reducible assumption | intro _ | with_reducible apply kept_ite | with_reducible apply st_setLink_kept | split)

theorem st_plainWord_kept (s : State) (w : ℕ) (v : ℕ) (h_s : Kept canon queue s) :
    Kept canon queue (State.plainWord s w v) := by
  unfold State.plainWord
  try dsimp only
  repeat' (first | with_reducible assumption | with_reducible apply wf_setBytes | with_reducible apply wf_setNat | with_reducible apply wf_setAll | with_reducible apply wf_set | intro _ | with_reducible apply kept_ite | with_reducible apply st_verify_kept | with_reducible apply st_wearOne_kept | fail_if_no_progress with_reducible apply kept_mk | with_reducible apply kept_mem | assumption)

theorem st_plainBytes_kept (s : State) (off : ℕ) (bs : List Byte) (h_s : Kept canon queue s) :
    Kept canon queue (State.plainBytes s off bs) := by
  unfold State.plainBytes
  try dsimp only
  repeat' (first | with_reducible assumption | intro _ | with_reducible apply kept_ite | with_reducible apply st_plainWord_kept | with_reducible apply kept_foldl)

theorem st_mend_kept (s : State) (a : List Byte) (b : List Byte) (okA : Bool) (okB : Bool) (h_s : Kept canon queue s) :
    KeptOpt canon queue (State.mend s a b okA okB) := by
  unfold State.mend
  try dsimp only
  repeat' (first | with_reducible assumption | intro _ | with_reducible apply kept_ite | with_reducible apply st_plainBytes_kept | with_reducible apply st_putAt_kept | with_reducible apply keptOpt_some | with_reducible apply keptOpt_none | with_reducible apply keptOpt_ite | with_reducible apply kept_getD | with_reducible apply keptOpt_mapSt | with_reducible apply keptOpt_map | refine keptOpt_elim ?_ (by with_reducible assumption) | split)

theorem st_reconcile_kept (s : State) (h_s : Kept canon queue s) :
    KeptOpt canon queue (State.reconcile s) := by
  unfold State.reconcile
  try dsimp only
  repeat' (first | with_reducible assumption | intro _ | with_reducible apply kept_ite | with_reducible apply st_mend_kept)

theorem st_bootStat_kept (s : State) (slot : ℕ) (fallback : Bool) (failA : ℕ) (failB : ℕ) (h_s : Kept canon queue s) :
    Kept canon queue (State.bootStat s slot fallback failA failB) := by
  unfold State.bootStat
  try dsimp only
  repeat' (first | with_reducible assumption | intro _ | with_reducible apply kept_ite | fail_if_no_progress with_reducible apply kept_mk)

theorem st_loadSlots_kept (s : State) (f : ℕ) (h_s : Kept canon queue s) :
    Kept canon queue (State.loadSlots s f) := by
  unfold State.loadSlots
  try dsimp only
  repeat' (first | with_reducible assumption | intro _ | with_reducible apply kept_ite | with_reducible apply st_setFrame_kept)

theorem st_loadBank_kept (s : State) (h_s : Kept canon queue s) :
    Kept canon queue (State.loadBank s) := by
  unfold State.loadBank
  try dsimp only
  repeat' (first | with_reducible assumption | intro _ | with_reducible apply kept_ite | with_reducible apply st_loadSlots_kept | with_reducible apply st_setSpmap_kept | with_reducible apply st_setSite_kept | with_reducible apply kept_foldl | fail_if_no_progress with_reducible apply kept_mk)

theorem st_loadTables_kept (s : State) (h_s : Kept canon queue s) :
    Kept canon queue (State.loadTables s) := by
  unfold State.loadTables
  try dsimp only
  repeat' (first | with_reducible assumption | with_reducible apply wf_setBytes | with_reducible apply wf_setNat | with_reducible apply wf_setAll | with_reducible apply wf_set | intro _ | with_reducible apply kept_ite | fail_if_no_progress with_reducible apply kept_mk)

theorem st_reachPhase_kept (s : State) (n : ℕ) (h_s : Kept canon queue s) :
    Kept canon queue (State.reachPhase s n) := by
  unfold State.reachPhase
  try dsimp only
  repeat' (first | with_reducible assumption | intro _ | with_reducible apply kept_ite | fail_if_no_progress with_reducible apply kept_mk)

theorem st_phase5_kept (s : State) (h_s : Kept canon queue s) :
    Kept canon queue (State.phase5 s) := by
  unfold State.phase5
  try dsimp only
  repeat' (first | with_reducible assumption | intro _ | with_reducible apply kept_ite | with_reducible apply st_reachPhase_kept | with_reducible apply st_loadTables_kept | with_reducible apply st_draw_kept | fail_if_no_progress with_reducible apply kept_mk)

theorem st_extend_kept (s : State) (n : ℕ) (d : List Byte) (h_s : Kept canon queue s) :
    Kept canon queue (State.extend s n d) := by
  unfold State.extend
  try dsimp only
  repeat' (first | with_reducible assumption | intro _ | with_reducible apply kept_ite | fail_if_no_progress with_reducible apply kept_mk)

theorem st_cleared_kept (s : State) (phase : Phase) (reached : ℕ) (h_s : Kept canon queue s) :
    Kept canon queue (State.cleared s phase reached) := by
  exact ⟨h_s.1, fun p => wf_filter keptCell (h_s.2 p)⟩

theorem st_phase1_kept (s : State) (h_s : Kept canon queue s) :
    Kept canon queue (State.phase1 s) := by
  unfold State.phase1
  try dsimp only
  repeat' (first | with_reducible assumption | intro _ | with_reducible apply kept_ite | with_reducible apply st_cleared_kept)

theorem st_enterRecovery_kept (s : State) (h_s : Kept canon queue s) :
    Kept canon queue (State.enterRecovery s) := by
  unfold State.enterRecovery
  try dsimp only
  repeat' (first | with_reducible assumption | intro _ | with_reducible apply kept_ite | fail_if_no_progress with_reducible apply kept_mk)

theorem st_afterReconcile_kept (s : State) (o : Option State) (h_s : Kept canon queue s) (h_o : KeptOpt canon queue o) :
    Kept canon queue (State.afterReconcile s o) := by
  unfold State.afterReconcile
  cases o with
  | none => exact st_emit_kept _ _ (st_enterRecovery_kept _ (st_bootStat_kept _ _ _ _ _ (kept_mk h_s)))
  | some t => exact st_reachPhase_kept _ _ (kept_mk (h_o.1 t rfl))

theorem st_phase2_kept (s : State) (h_s : Kept canon queue s) :
    Kept canon queue (State.phase2 s) := by
  unfold State.phase2
  try dsimp only
  repeat' (first | with_reducible assumption | intro _ | with_reducible apply kept_ite | with_reducible apply st_reconcile_kept | with_reducible apply st_extend_kept | with_reducible apply st_afterReconcile_kept | with_reducible apply st_draw_kept | with_reducible apply keptOpt_some | with_reducible apply keptOpt_none | with_reducible apply keptOpt_ite | with_reducible apply kept_getD | with_reducible apply keptOpt_mapSt | with_reducible apply keptOpt_map | refine keptOpt_elim ?_ (by with_reducible assumption) | fail_if_no_progress with_reducible apply kept_mk)

theorem st_loadBody_kept (s : State) (slot : ℕ) (h_s : Kept canon queue s) :
    Kept canon queue (State.loadBody s slot) := by
  unfold State.loadBody
  try dsimp only
  repeat' (first | with_reducible assumption | with_reducible apply wf_setBytes | with_reducible apply wf_setNat | with_reducible apply wf_setAll | with_reducible apply wf_set | intro _ | with_reducible apply kept_ite | fail_if_no_progress with_reducible apply kept_mk)

theorem st_measure_kept (s : State) (slot : ℕ) (h_s : Kept canon queue s) :
    Kept canon queue (State.measure s slot) := by
  unfold State.measure
  try dsimp only
  repeat' (first | with_reducible assumption | intro _ | with_reducible apply kept_ite | with_reducible apply st_extend_kept | with_reducible apply kept_foldl)

theorem st_bootSlot_kept (s : State) (slot : ℕ) (fallback : Bool) (failA : ℕ) (failB : ℕ) (h_s : Kept canon queue s) :
    Kept canon queue (State.bootSlot s slot fallback failA failB) := by
  unfold State.bootSlot
  try dsimp only
  repeat' (first | with_reducible assumption | intro _ | with_reducible apply kept_ite | with_reducible apply st_measure_kept | with_reducible apply st_loadBody_kept | with_reducible apply st_reachPhase_kept | with_reducible apply st_bootStat_kept | fail_if_no_progress with_reducible apply kept_mk)

theorem st_phase3_kept (s : State) (h_s : Kept canon queue s) :
    Kept canon queue (State.phase3 s) := by
  unfold State.phase3
  try dsimp only
  repeat' (first | with_reducible assumption | intro _ | with_reducible apply kept_ite | with_reducible apply st_bootSlot_kept | with_reducible apply st_bootStat_kept | with_reducible apply st_enterRecovery_kept)

theorem st_loadNext_kept (s : State) (h_s : Kept canon queue s) :
    Kept canon queue (State.loadNext s) := by
  unfold State.loadNext
  try dsimp only
  repeat' (first | with_reducible assumption | intro _ | with_reducible apply kept_ite | fail_if_no_progress with_reducible apply kept_mk)

theorem st_phase4_kept (s : State) (h_s : Kept canon queue s) :
    Kept canon queue (State.phase4 s) := by
  unfold State.phase4
  try dsimp only
  repeat' (first | with_reducible assumption | intro _ | with_reducible apply kept_ite | with_reducible apply st_loadBank_kept | with_reducible apply st_loadNext_kept | with_reducible apply st_reachPhase_kept | with_reducible apply st_bankBytes_kept | with_reducible apply st_baroWrite_kept | fail_if_no_progress with_reducible apply kept_mk)

theorem st_phase6_kept (s : State) (h_s : Kept canon queue s) :
    Kept canon queue (State.phase6 s) := by
  unfold State.phase6
  try dsimp only
  repeat' (first | with_reducible assumption | intro _ | with_reducible apply kept_ite | with_reducible apply st_reachPhase_kept | fail_if_no_progress with_reducible apply kept_mk)

theorem st_phase7_kept (s : State) (h_s : Kept canon queue s) :
    Kept canon queue (State.phase7 s) := by
  unfold State.phase7
  try dsimp only
  repeat' (first | with_reducible assumption | intro _ | with_reducible apply kept_ite | with_reducible apply st_reachPhase_kept | with_reducible apply st_loadLane_kept | with_reducible apply st_setLink_kept | with_reducible apply kept_foldl)

theorem st_phase8_kept (s : State) (h_s : Kept canon queue s) :
    Kept canon queue (State.phase8 s) := by
  unfold State.phase8
  try dsimp only
  repeat' (first | with_reducible assumption | intro _ | with_reducible apply kept_ite | with_reducible apply st_identityBytes_kept | fail_if_no_progress with_reducible apply kept_mk)

theorem st_startPhase_kept (s : State) (h_s : Kept canon queue s) :
    Kept canon queue (State.startPhase s) := by
  unfold State.startPhase
  try dsimp only
  repeat' (first | with_reducible assumption | intro _ | with_reducible apply kept_ite | with_reducible apply st_phase7_kept | with_reducible apply st_phase6_kept | with_reducible apply st_phase5_kept | with_reducible apply st_phase4_kept | with_reducible apply st_phase3_kept | with_reducible apply st_phase1_kept | with_reducible apply st_phase2_kept | with_reducible apply st_phase8_kept | split)

theorem st_setIdflags_kept (s : State) (v : ℕ) (h_s : Kept canon queue s) :
    Kept canon queue (State.setIdflags s v) := by
  unfold State.setIdflags
  try dsimp only
  repeat' (first | with_reducible assumption | intro _ | with_reducible apply kept_ite | with_reducible apply st_identityBytes_kept | fail_if_no_progress with_reducible apply kept_mk)

theorem st_setSpdm_kept (s : State) (t : Transport) (n : ℕ) (h_s : Kept canon queue s) :
    Kept canon queue (State.setSpdm s t n) := by
  unfold State.setSpdm
  try dsimp only
  repeat' (first | with_reducible assumption | intro _ | with_reducible apply kept_ite | fail_if_no_progress with_reducible apply kept_mk)

theorem execEthernetLinkDown_kept (s : State) (h_s : Kept canon queue s) :
    KeptOut canon queue (execEthernetLinkDown s) := by
  unfold execEthernetLinkDown
  try dsimp only
  repeat' (first | with_reducible assumption | intro _ | with_reducible apply kept_next | with_reducible apply keptOut_ite | with_reducible apply kept_ite | with_reducible apply st_setSpdm_kept | with_reducible apply st_closeTransport_kept | fail_if_no_progress with_reducible apply kept_mk)

theorem st_spdm_kept (s : State) (p : Peer) (code : Byte) (body : List Byte) (h_s : Kept canon queue s) :
    Kept canon queue (State.spdm s p code body) := by
  unfold State.spdm
  try dsimp only
  repeat' (first | with_reducible assumption | intro _ | with_reducible apply kept_ite | with_reducible apply st_respond_kept)

theorem st_spdmErr_kept (s : State) (p : Peer) (h_s : Kept canon queue s) :
    Kept canon queue (State.spdmErr s p) := by
  unfold State.spdmErr
  try dsimp only
  repeat' (first | with_reducible assumption | intro _ | with_reducible apply kept_ite | with_reducible apply st_spdm_kept)

theorem st_spdmReq_kept (s : State) (p : Peer) (f : State → State) (h_s : Kept canon queue s) (h_f : ∀ y0, Kept canon queue y0 → Kept canon queue (f y0)) :
    KeptOut canon queue (State.spdmReq s p f) := by
  unfold State.spdmReq
  try dsimp only
  repeat' (first | with_reducible assumption | intro _ | with_reducible apply kept_next | with_reducible apply keptOut_ite | with_reducible apply kept_ite | with_reducible apply h_f | with_reducible apply st_spdmErr_kept)

theorem execGetMeasurements_kept (p : Peer) (idx : BitVec 8) (signed : Bool) (nonce : BitVec 256) (s : State) (h_s : Kept canon queue s) :
    KeptOut canon queue (execGetMeasurements p idx signed nonce s) := by
  unfold execGetMeasurements
  try dsimp only
  repeat' (first | with_reducible assumption | intro _ | with_reducible apply kept_next | with_reducible apply keptOut_ite | with_reducible apply kept_ite | with_reducible apply st_spdmReq_kept | with_reducible apply st_spdmErr_kept | with_reducible apply st_spdm_kept | with_reducible apply st_draw_kept)

theorem execNegotiateAlgorithms_kept (p : Peer) (s : State) (h_s : Kept canon queue s) :
    KeptOut canon queue (execNegotiateAlgorithms p s) := by
  unfold execNegotiateAlgorithms
  try dsimp only
  repeat' (first | with_reducible assumption | intro _ | with_reducible apply kept_next | with_reducible apply keptOut_ite | with_reducible apply kept_ite | with_reducible apply st_spdmErr_kept | with_reducible apply st_spdm_kept | with_reducible apply st_setSpdm_kept)

theorem execRstdaa_kept (s : State) (h_s : Kept canon queue s) :
    KeptOut canon queue (execRstdaa s) := by
  unfold execRstdaa
  try dsimp only
  repeat' (first | with_reducible assumption | intro _ | with_reducible apply kept_next | with_reducible apply keptOut_ite | with_reducible apply kept_ite | with_reducible apply st_setSpdm_kept | with_reducible apply st_closeTransport_kept | fail_if_no_progress with_reducible apply kept_mk)

theorem execGetCertificate_kept (p : Peer) (slot : BitVec 4) (off : BitVec 16) (len : BitVec 16) (s : State) (h_s : Kept canon queue s) :
    KeptOut canon queue (execGetCertificate p slot off len s) := by
  unfold execGetCertificate
  try dsimp only
  repeat' (first | with_reducible assumption | intro _ | with_reducible apply kept_next | with_reducible apply keptOut_ite | with_reducible apply kept_ite | with_reducible apply st_spdmReq_kept | with_reducible apply st_spdmErr_kept | with_reducible apply st_spdm_kept)

theorem execEthernetLinkUp_kept (s : State) (h_s : Kept canon queue s) :
    KeptOut canon queue (execEthernetLinkUp s) := by
  unfold execEthernetLinkUp
  try dsimp only
  repeat' (first | with_reducible assumption | intro _ | with_reducible apply kept_next | with_reducible apply keptOut_ite | with_reducible apply kept_ite | with_reducible apply st_setSpdm_kept | with_reducible apply st_closeTransport_kept | fail_if_no_progress with_reducible apply kept_mk)

theorem execGetVersion_kept (p : Peer) (s : State) (h_s : Kept canon queue s) :
    KeptOut canon queue (execGetVersion p s) := by
  unfold execGetVersion
  try dsimp only
  repeat' (first | with_reducible assumption | intro _ | with_reducible apply kept_next | with_reducible apply keptOut_ite | with_reducible apply kept_ite | with_reducible apply st_spdm_kept | with_reducible apply st_setSpdm_kept)

theorem execChallenge_kept (p : Peer) (slot : BitVec 4) (nonce : BitVec 256) (s : State) (h_s : Kept canon queue s) :
    KeptOut canon queue (execChallenge p slot nonce s) := by
  unfold execChallenge
  try dsimp only
  repeat' (first | with_reducible assumption | intro _ | with_reducible apply kept_next | with_reducible apply keptOut_ite | with_reducible apply kept_ite | with_reducible apply st_spdmReq_kept | with_reducible apply st_spdmErr_kept | with_reducible apply st_spdm_kept | with_reducible apply st_draw_kept)

theorem execIcmpEcho_kept (dst : BitVec 32) (src : Src) (data : List Byte) (s : State) (h_s : Kept canon queue s) :
    KeptOut canon queue (execIcmpEcho dst src data s) := by
  unfold execIcmpEcho
  try dsimp only
  repeat' (first | with_reducible assumption | intro _ | with_reducible apply kept_next | with_reducible apply keptOut_ite | with_reducible apply kept_ite | with_reducible apply st_emit_kept)

theorem execEntdaa_kept (da : BitVec 7) (s : State) (h_s : Kept canon queue s) :
    KeptOut canon queue (execEntdaa da s) := by
  unfold execEntdaa
  try dsimp only
  repeat' (first | with_reducible assumption | intro _ | with_reducible apply kept_next | with_reducible apply keptOut_ite | with_reducible apply kept_ite | with_reducible apply st_emit_kept | fail_if_no_progress with_reducible apply kept_mk)

theorem execGetDigests_kept (p : Peer) (s : State) (h_s : Kept canon queue s) :
    KeptOut canon queue (execGetDigests p s) := by
  unfold execGetDigests
  try dsimp only
  repeat' (first | with_reducible assumption | intro _ | with_reducible apply kept_next | with_reducible apply keptOut_ite | with_reducible apply kept_ite | with_reducible apply st_spdmReq_kept | with_reducible apply st_spdm_kept)

theorem execArpRequest_kept (target : BitVec 32) (sender : BitVec 32) (mac : BitVec 48) (s : State) (h_s : Kept canon queue s) :
    KeptOut canon queue (execArpRequest target sender mac s) := by
  unfold execArpRequest
  try dsimp only
  repeat' (first | with_reducible assumption | intro _ | with_reducible apply kept_next | with_reducible apply keptOut_ite | with_reducible apply kept_ite | with_reducible apply st_emit_kept)

theorem execGetCapabilities_kept (p : Peer) (s : State) (h_s : Kept canon queue s) :
    KeptOut canon queue (execGetCapabilities p s) := by
  unfold execGetCapabilities
  try dsimp only
  repeat' (first | with_reducible assumption | intro _ | with_reducible apply kept_next | with_reducible apply keptOut_ite | with_reducible apply kept_ite | with_reducible apply st_spdmErr_kept | with_reducible apply st_spdm_kept | with_reducible apply st_setSpdm_kept)

theorem st_setTap_kept (s : State) (t : Tap) (h_s : Kept canon queue s) :
    Kept canon queue (State.setTap s t) := by
  unfold State.setTap
  try dsimp only
  repeat' (first | with_reducible assumption | intro _ | with_reducible apply kept_ite | fail_if_no_progress with_reducible apply kept_mk)

theorem execSamplePreload_kept (preload : List Bool) (s : State) (h_s : Kept canon queue s) :
    KeptOut canon queue (execSamplePreload preload s) := by
  unfold execSamplePreload
  try dsimp only
  repeat' (first | with_reducible assumption | intro _ | with_reducible apply kept_next | with_reducible apply keptOut_ite | with_reducible apply kept_ite | with_reducible apply st_setTap_kept | with_reducible apply st_emit_kept | fail_if_no_progress with_reducible apply kept_mk)

theorem execIdcode_kept (s : State) (h_s : Kept canon queue s) :
    KeptOut canon queue (execIdcode s) := by
  unfold execIdcode
  try dsimp only
  repeat' (first | with_reducible assumption | intro _ | with_reducible apply kept_next | with_reducible apply keptOut_ite | with_reducible apply kept_ite | with_reducible apply st_setTap_kept | with_reducible apply st_emit_kept)

theorem execDbgTrigClaim_kept (s : State) (h_s : Kept canon queue s) :
    KeptOut canon queue (execDbgTrigClaim s) := by
  unfold execDbgTrigClaim
  try dsimp only
  repeat' (first | with_reducible assumption | intro _ | with_reducible apply kept_next | with_reducible apply keptOut_ite | with_reducible apply kept_ite | with_reducible apply st_emit_kept | fail_if_no_progress with_reducible apply kept_mk)

theorem execDbgToken_kept (t : Token) (s : State) (h_s : Kept canon queue s) :
    KeptOut canon queue (execDbgToken t s) := by
  unfold execDbgToken
  try dsimp only
  repeat' (first | with_reducible assumption | intro _ | with_reducible apply kept_next | with_reducible apply keptOut_ite | with_reducible apply kept_ite | with_reducible apply st_extend_kept | with_reducible apply st_draw_kept | fail_if_no_progress with_reducible apply kept_mk)

theorem execDbgNonce_kept (s : State) (h_s : Kept canon queue s) :
    KeptOut canon queue (execDbgNonce s) := by
  unfold execDbgNonce
  try dsimp only
  repeat' (first | with_reducible assumption | intro _ | with_reducible apply kept_next | with_reducible apply keptOut_ite | with_reducible apply kept_ite | with_reducible apply st_emit_kept)

theorem st_passBits_kept (s : State) (tdi : List Bool) (h_s : Kept canon queue s) :
    Kept canon queue (State.passBits s tdi) := by
  unfold State.passBits
  try dsimp only
  repeat' (first | with_reducible assumption | intro _ | with_reducible apply kept_ite | with_reducible apply st_setTap_kept | with_reducible apply st_emit_kept)

theorem execDbgTrigRelease_kept (s : State) (h_s : Kept canon queue s) :
    KeptOut canon queue (execDbgTrigRelease s) := by
  unfold execDbgTrigRelease
  try dsimp only
  repeat' (first | with_reducible assumption | intro _ | with_reducible apply kept_next | with_reducible apply keptOut_ite | with_reducible apply kept_ite | fail_if_no_progress with_reducible apply kept_mk)

theorem execExtest_kept (pins : List Bool) (s : State) (h_s : Kept canon queue s) :
    KeptOut canon queue (execExtest pins s) := by
  unfold execExtest
  try dsimp only
  repeat' (first | with_reducible assumption | intro _ | with_reducible apply kept_next | with_reducible apply keptOut_ite | with_reducible apply kept_ite | with_reducible apply st_passBits_kept | with_reducible apply st_setTap_kept | with_reducible apply st_emit_kept | fail_if_no_progress with_reducible apply kept_mk)

theorem execBypass_kept (tdi : List Bool) (s : State) (h_s : Kept canon queue s) :
    KeptOut canon queue (execBypass tdi s) := by
  unfold execBypass
  try dsimp only
  repeat' (first | with_reducible assumption | intro _ | with_reducible apply kept_next | with_reducible apply keptOut_ite | with_reducible apply kept_ite | with_reducible apply st_passBits_kept)

theorem st_endSave_kept (s : State) (allVerified : Bool) (h_s : Kept canon queue s) :
    Kept canon queue (State.endSave s allVerified) := by
  unfold State.endSave
  try dsimp only
  repeat' (first | with_reducible assumption | intro _ | with_reducible apply kept_ite | with_reducible apply st_cleared_kept | with_reducible apply st_plainBytes_kept)

theorem execVin48Removed_kept (s : State) (h_s : Kept canon queue s) :
    KeptOut canon queue (execVin48Removed s) := by
  unfold execVin48Removed
  try dsimp only
  repeat' (first | with_reducible assumption | intro _ | with_reducible apply kept_next | with_reducible apply keptOut_ite | with_reducible apply kept_ite | with_reducible apply st_cleared_kept | fail_if_no_progress with_reducible apply kept_mk | split)

theorem execThermAlert_kept (tj : BitVec 8) (s : State) (h_s : Kept canon queue s) :
    KeptOut canon queue (execThermAlert tj s) := by
  unfold execThermAlert
  try dsimp only
  repeat' (first | with_reducible assumption | intro _ | with_reducible apply kept_next | with_reducible apply keptOut_ite | with_reducible apply kept_ite | with_reducible apply st_emit_kept | fail_if_no_progress with_reducible apply kept_mk)

theorem execPowerSample_kept (watts : BitVec 16) (vin10mv : BitVec 16) (tj : BitVec 8) (hot : BitVec 8) (saveDecivolts : BitVec 8) (s : State) (h_s : Kept canon queue s) :
    KeptOut canon queue (execPowerSample watts vin10mv tj hot saveDecivolts s) := by
  unfold execPowerSample
  try dsimp only
  repeat' (first | with_reducible assumption | intro _ | with_reducible apply kept_next | with_reducible apply keptOut_ite | with_reducible apply kept_ite | fail_if_no_progress with_reducible apply kept_mk)

theorem execDvfsStep_kept (frame : BitVec 5) (s : State) (h_s : Kept canon queue s) :
    KeptOut canon queue (execDvfsStep frame s) := by
  unfold execDvfsStep
  try dsimp only
  repeat' (first | with_reducible assumption | intro _ | with_reducible apply kept_next | with_reducible apply keptOut_ite | with_reducible apply kept_ite | with_reducible apply st_setFrame_kept)

theorem execDvfsUpdate_kept (temps : List (BitVec 8)) (watts : BitVec 16) (s : State) (h_s : Kept canon queue s) :
    KeptOut canon queue (execDvfsUpdate temps watts s) := by
  unfold execDvfsUpdate
  try dsimp only
  repeat' (first | with_reducible assumption | intro _ | with_reducible apply kept_next | with_reducible apply keptOut_ite | with_reducible apply kept_ite | with_reducible apply st_setFrame_kept | with_reducible apply st_retarget_kept | with_reducible apply kept_foldl | fail_if_no_progress with_reducible apply kept_mk)

theorem st_configure_kept (s : State) (f : ℕ) (req : CfgReq) (h_s : Kept canon queue s) :
    Kept canon queue (State.configure s f req) := by
  unfold State.configure
  try dsimp only
  repeat' (first | with_reducible assumption | intro _ | with_reducible apply kept_ite | with_reducible apply st_emit_kept | with_reducible apply st_setFn_kept | with_reducible apply st_setVfs_kept | fail_if_no_progress with_reducible apply kept_mk | assumption | split)

theorem execConfigRequest_kept (ask : CfgTo) (s : State) (h_s : Kept canon queue s) :
    KeptOut canon queue (execConfigRequest ask s) := by
  unfold execConfigRequest
  try dsimp only
  repeat' (first | with_reducible assumption | intro _ | with_reducible apply kept_next | with_reducible apply keptOut_ite | with_reducible apply kept_ite | with_reducible apply st_emit_kept | with_reducible apply st_configure_kept)

theorem execPerstAssert_kept (s : State) (h_s : Kept canon queue s) :
    KeptOut canon queue (execPerstAssert s) := by
  unfold execPerstAssert
  try dsimp only
  repeat' (first | with_reducible assumption | intro _ | with_reducible apply kept_next | with_reducible apply keptOut_ite | with_reducible apply kept_ite | with_reducible apply st_resetPf_kept | with_reducible apply st_closeTransport_kept | fail_if_no_progress with_reducible apply kept_mk)

theorem st_save_kept (s : State) (cause : ℕ) (h_s : Kept canon queue s) :
    Kept canon queue (State.save s cause) := by
  unfold State.save
  try dsimp only
  repeat' (first | with_reducible assumption | intro _ | with_reducible apply kept_ite | with_reducible apply st_plainBytes_kept | fail_if_no_progress with_reducible apply kept_mk)

theorem execBrownoutSave_kept (cause : BitVec 2) (saveDecivolts : BitVec 8) (s : State) (h_s : Kept canon queue s) :
    KeptOut canon queue (execBrownoutSave cause saveDecivolts s) := by
  unfold execBrownoutSave
  try dsimp only
  repeat' (first | with_reducible assumption | intro _ | with_reducible apply kept_next | with_reducible apply keptOut_ite | with_reducible apply kept_ite | with_reducible apply st_save_kept)

theorem execThermalShutdown_kept (saveDecivolts : BitVec 8) (s : State) (h_s : Kept canon queue s) :
    KeptOut canon queue (execThermalShutdown saveDecivolts s) := by
  unfold execThermalShutdown
  try dsimp only
  repeat' (first | with_reducible assumption | intro _ | with_reducible apply kept_next | with_reducible apply keptOut_ite | with_reducible apply kept_ite | with_reducible apply st_save_kept | with_reducible apply st_cleared_kept | fail_if_no_progress with_reducible apply kept_mk | split)

theorem execPerstDeassert_kept (s : State) (h_s : Kept canon queue s) :
    KeptOut canon queue (execPerstDeassert s) := by
  unfold execPerstDeassert
  try dsimp only
  repeat' (first | with_reducible assumption | intro _ | with_reducible apply kept_next | with_reducible apply keptOut_ite | with_reducible apply kept_ite | fail_if_no_progress with_reducible apply kept_mk)

theorem execThermalEmergency_kept (s : State) (h_s : Kept canon queue s) :
    KeptOut canon queue (execThermalEmergency s) := by
  unfold execThermalEmergency
  try dsimp only
  repeat' (first | with_reducible assumption | intro _ | with_reducible apply kept_next | with_reducible apply keptOut_ite | with_reducible apply kept_ite | with_reducible apply st_setFrame_kept | with_reducible apply kept_foldl)

theorem execStartUpAbort_kept (s : State) (h_s : Kept canon queue s) :
    KeptOut canon queue (execStartUpAbort s) := by
  unfold execStartUpAbort
  try dsimp only
  repeat' (first | with_reducible assumption | intro _ | with_reducible apply kept_next | with_reducible apply keptOut_ite | with_reducible apply kept_ite | with_reducible apply st_cleared_kept)

theorem execSaveEnd_kept (allVerified : Bool) (vinGood : Bool) (s : State) (h_s : Kept canon queue s) :
    KeptOut canon queue (execSaveEnd allVerified vinGood s) := by
  unfold execSaveEnd
  try dsimp only
  repeat' (first | with_reducible assumption | intro _ | with_reducible apply kept_next | with_reducible apply keptOut_ite | with_reducible apply kept_ite | with_reducible apply st_endSave_kept | with_reducible apply st_startPhase_kept)

theorem execModuleReset_kept (s : State) (h_s : Kept canon queue s) :
    KeptOut canon queue (execModuleReset s) := by
  unfold execModuleReset
  try dsimp only
  repeat' (first | with_reducible assumption | intro _ | with_reducible apply kept_next | with_reducible apply keptOut_ite | with_reducible apply kept_ite | with_reducible apply st_cleared_kept | split)

theorem execStartUp_kept (s : State) (h_s : Kept canon queue s) :
    KeptOut canon queue (execStartUp s) := by
  unfold execStartUp
  try dsimp only
  repeat' (first | with_reducible assumption | intro _ | with_reducible apply kept_next | with_reducible apply keptOut_ite | with_reducible apply kept_ite | with_reducible apply st_startPhase_kept)

theorem st_wrongProof_kept (s : State) (c : Chal) (h_s : Kept canon queue s) :
    Kept canon queue (State.wrongProof s c) := by
  unfold State.wrongProof
  try dsimp only
  repeat' (first | with_reducible assumption | intro _ | with_reducible apply kept_ite | fail_if_no_progress with_reducible apply kept_mk)

theorem execOpenProof_kept (sid : BitVec 32) (proof : Proof) (s : State) (h_s : Kept canon queue s) :
    KeptOut canon queue (execOpenProof sid proof s) := by
  unfold execOpenProof
  try dsimp only
  repeat' (first | with_reducible assumption | intro _ | with_reducible apply kept_next | with_reducible apply keptOut_ite | with_reducible apply kept_ite | with_reducible apply st_wrongProof_kept | with_reducible apply st_respond_kept | fail_if_no_progress with_reducible apply kept_mk | split)

theorem execSessionChallengeExpiry_kept (sid : BitVec 32) (s : State) (h_s : Kept canon queue s) :
    KeptOut canon queue (execSessionChallengeExpiry sid s) := by
  unfold execSessionChallengeExpiry
  try dsimp only
  repeat' (first | with_reducible assumption | intro _ | with_reducible apply kept_next | with_reducible apply keptOut_ite | with_reducible apply kept_ite | fail_if_no_progress with_reducible apply kept_mk)

theorem st_newSid_kept (s : State) (h_s : Kept canon queue s) :
    Kept canon queue (State.newSid s).2 := by
  unfold State.newSid
  try dsimp only
  repeat' (first | with_reducible assumption | intro _ | with_reducible apply kept_ite | fail_if_no_progress with_reducible apply kept_mk)

theorem execOpenReq_kept (from_ : Peer) (cred : BitVec 8) (nc : BitVec 256) (s : State) (h_s : Kept canon queue s) :
    KeptOut canon queue (execOpenReq from_ cred nc s) := by
  unfold execOpenReq
  try dsimp only
  repeat' (first | with_reducible assumption | intro _ | with_reducible apply kept_next | with_reducible apply keptOut_ite | with_reducible apply kept_ite | with_reducible apply st_newSid_kept | with_reducible apply st_respond_kept | with_reducible apply st_draw_kept | fail_if_no_progress with_reducible apply kept_mk)

theorem st_setSession_kept (s : State) (x : Session) (h_s : Kept canon queue s) :
    Kept canon queue (State.setSession s x) := by
  unfold State.setSession
  try dsimp only
  repeat' (first | with_reducible assumption | intro _ | with_reducible apply kept_ite | fail_if_no_progress with_reducible apply kept_mk)

theorem st_answer_kept (s : State) (x : Session) (a : Answer) (h_s : Kept canon queue s) :
    Kept canon queue (State.answer s x a) := by
  unfold State.answer
  try dsimp only
  repeat' (first | with_reducible assumption | intro _ | with_reducible apply kept_ite | with_reducible apply st_setSession_kept | with_reducible apply st_respond_kept)

theorem st_message_kept (s : State) (m : Msg) (roles : List ℕ) (f : Session → State → State × Answer) (h_s : Kept canon queue s) (h_f : ∀ y0 y1, Kept canon queue y1 → Kept canon queue (f y0 y1).1) :
    Kept canon queue (State.message s m roles f) := by
  unfold State.message
  try dsimp only
  repeat' (first | with_reducible assumption | intro _ | with_reducible apply kept_ite | with_reducible apply h_f | with_reducible apply st_answer_kept | with_reducible apply st_setSession_kept | split)

theorem st_sessionMsg_kept (s : State) (m : Msg) (code : ℕ) (ops : List Byte) (roles : List ℕ) (f : Session → State → State × Answer) (h_s : Kept canon queue s) (h_f : ∀ y0 y1, Kept canon queue y1 → Kept canon queue (f y0 y1).1) :
    KeptOut canon queue (State.sessionMsg s m code ops roles f) := by
  unfold State.sessionMsg
  try dsimp only
  repeat' (first | with_reducible assumption | intro _ | with_reducible apply kept_next | with_reducible apply keptOut_ite | with_reducible apply kept_ite | with_reducible apply h_f | with_reducible apply st_message_kept)

theorem st_closeCred_kept (s : State) (i : ℕ) (h_s : Kept canon queue s) :
    Kept canon queue (State.closeCred s i) := by
  unfold State.closeCred
  try dsimp only
  repeat' (first | with_reducible assumption | intro _ | with_reducible apply kept_ite | fail_if_no_progress with_reducible apply kept_mk)

theorem st_setCred_kept (s : State) (i : ℕ) (v : ℕ) (h_s : Kept canon queue s) :
    Kept canon queue (State.setCred s i v) := by
  unfold State.setCred
  try dsimp only
  repeat' (first | with_reducible assumption | intro _ | with_reducible apply kept_ite | with_reducible apply st_closeCred_kept | with_reducible apply st_bankBytes_kept)

theorem execRelease_kept (m : Msg) (key : BitVec 4096) (sig : BitVec 4096) (s : State) (h_s : Kept canon queue s) :
    KeptOut canon queue (execRelease m key sig s) := by
  unfold execRelease
  try dsimp only
  repeat' (first | with_reducible assumption | intro _ | with_reducible apply kept_next | with_reducible apply keptOut_ite | with_reducible apply kept_ite | with_reducible apply st_setCred_kept | with_reducible apply st_sessionMsg_kept | with_reducible apply st_setIdflags_kept | with_reducible apply st_identityBytes_kept | with_reducible apply st_bankBytes_kept | with_reducible apply kept_foldl | split)

theorem execJobCmd_kept (m : Msg) (entry : Line) (s : State) (h_s : Kept canon queue s) :
    KeptOut canon queue (execJobCmd m entry s) := by
  unfold execJobCmd
  try dsimp only
  repeat' (first | with_reducible assumption | intro _ | with_reducible apply kept_next | with_reducible apply keptOut_ite | with_reducible apply kept_ite | with_reducible apply st_sessionMsg_kept | with_reducible apply st_command_kept | fail_if_no_progress with_reducible apply kept_mk)

theorem execBaroRead_kept (m : Msg) (seq : Word) (s : State) (h_s : Kept canon queue s) :
    KeptOut canon queue (execBaroRead m seq s) := by
  unfold execBaroRead
  try dsimp only
  repeat' (first | with_reducible assumption | intro _ | with_reducible apply kept_next | with_reducible apply keptOut_ite | with_reducible apply kept_ite | with_reducible apply st_sessionMsg_kept)

theorem st_flashSlot_kept (s : State) (slot : ℕ) (image : List Byte) (h_s : Kept canon queue s) :
    Kept canon queue (State.flashSlot s slot image) := by
  unfold State.flashSlot
  try dsimp only
  repeat' (first | with_reducible assumption | intro _ | with_reducible apply kept_ite | with_reducible apply st_putAt_kept)

theorem st_updateFirmware_kept (s : State) (image : List Byte) (h_s : Kept canon queue s) :
    Kept canon queue (State.updateFirmware s image).1 := by
  unfold State.updateFirmware
  try dsimp only
  repeat' (first | with_reducible assumption | intro _ | with_reducible apply kept_ite | with_reducible apply st_flashSlot_kept | with_reducible apply st_bankWord_kept | split)

theorem execRegRead_kept (m : Msg) (r : Reg) (s : State) (h_s : Kept canon queue s) :
    KeptOut canon queue (execRegRead m r s) := by
  unfold execRegRead
  try dsimp only
  repeat' (first | with_reducible assumption | intro _ | with_reducible apply kept_next | with_reducible apply keptOut_ite | with_reducible apply kept_ite | with_reducible apply st_sessionMsg_kept)

theorem execRegWrite_kept (m : Msg) (r : Reg) (v : Word) (fails : Bool) (s : State) (h_s : Kept canon queue s) :
    KeptOut canon queue (execRegWrite m r v fails s) := by
  unfold execRegWrite
  try dsimp only
  repeat' (first | with_reducible assumption | intro _ | with_reducible apply kept_next | with_reducible apply keptOut_ite | with_reducible apply kept_ite | with_reducible apply st_sessionMsg_kept | with_reducible apply st_regWriteChecked_kept | with_reducible apply keptOpt_some | with_reducible apply keptOpt_none | with_reducible apply keptOpt_ite | with_reducible apply kept_getD | with_reducible apply keptOpt_mapSt | with_reducible apply keptOpt_map | refine keptOpt_elim ?_ (by with_reducible assumption) | split)

theorem execClaim_kept (t : Transport) (key : BitVec 4096) (cred : BitVec 1024) (sig : BitVec 4096) (s : State) (h_s : Kept canon queue s) :
    KeptOut canon queue (execClaim t key cred sig s) := by
  unfold execClaim
  try dsimp only
  repeat' (first | with_reducible assumption | intro _ | with_reducible apply kept_next | with_reducible apply keptOut_ite | with_reducible apply kept_ite | with_reducible apply st_setCred_kept | with_reducible apply st_setIdflags_kept | with_reducible apply st_respond_kept | with_reducible apply st_identityBytes_kept)

theorem st_recoverFirmware_kept (s : State) (image : List Byte) (h_s : Kept canon queue s) :
    Kept canon queue (State.recoverFirmware s image).1 := by
  unfold State.recoverFirmware
  try dsimp only
  repeat' (first | with_reducible assumption | intro _ | with_reducible apply kept_ite | with_reducible apply st_flashSlot_kept | with_reducible apply st_cleared_kept | split)

theorem execProvision_kept (key : BitVec 4096) (sig : BitVec 4096) (s : State) (h_s : Kept canon queue s) :
    KeptOut canon queue (execProvision key sig s) := by
  unfold execProvision
  try dsimp only
  repeat' (first | with_reducible assumption | intro _ | with_reducible apply kept_next | with_reducible apply keptOut_ite | with_reducible apply kept_ite | with_reducible apply st_setIdflags_kept | with_reducible apply st_draw_kept | with_reducible apply st_identityBytes_kept | with_reducible apply st_emit_kept)

theorem execSessionIdleTimeout_kept (sid : BitVec 32) (s : State) (h_s : Kept canon queue s) :
    KeptOut canon queue (execSessionIdleTimeout sid s) := by
  unfold execSessionIdleTimeout
  try dsimp only
  repeat' (first | with_reducible assumption | intro _ | with_reducible apply kept_next | with_reducible apply keptOut_ite | with_reducible apply kept_ite | fail_if_no_progress with_reducible apply kept_mk)

theorem execBaroClear_kept (m : Msg) (seq : Word) (s : State) (h_s : Kept canon queue s) :
    KeptOut canon queue (execBaroClear m seq s) := by
  unfold execBaroClear
  try dsimp only
  repeat' (first | with_reducible assumption | intro _ | with_reducible apply kept_next | with_reducible apply keptOut_ite | with_reducible apply kept_ite | with_reducible apply st_sessionMsg_kept | with_reducible apply st_baroWrite_kept | fail_if_no_progress with_reducible apply kept_mk)

theorem execFwWrite_kept (m : Option Msg) (image : List Byte) (s : State) (h_s : Kept canon queue s) :
    KeptOut canon queue (execFwWrite m image s) := by
  unfold execFwWrite
  try dsimp only
  repeat' (first | with_reducible assumption | intro _ | with_reducible apply kept_next | with_reducible apply keptOut_ite | with_reducible apply kept_ite | with_reducible apply st_recoverFirmware_kept | with_reducible apply st_updateFirmware_kept | with_reducible apply st_message_kept | split)

theorem execCredentialBarExpiry_kept (cred : BitVec 8) (s : State) (h_s : Kept canon queue s) :
    KeptOut canon queue (execCredentialBarExpiry cred s) := by
  unfold execCredentialBarExpiry
  try dsimp only
  repeat' (first | with_reducible assumption | intro _ | with_reducible apply kept_next | with_reducible apply keptOut_ite | with_reducible apply kept_ite | fail_if_no_progress with_reducible apply kept_mk)

theorem execClose_kept (m : Msg) (s : State) (h_s : Kept canon queue s) :
    KeptOut canon queue (execClose m s) := by
  unfold execClose
  try dsimp only
  repeat' (first | with_reducible assumption | intro _ | with_reducible apply kept_next | with_reducible apply keptOut_ite | with_reducible apply kept_ite | fail_if_no_progress with_reducible apply kept_mk | split)

theorem execCredDel_kept (m : Msg) (idx : BitVec 8) (s : State) (h_s : Kept canon queue s) :
    KeptOut canon queue (execCredDel m idx s) := by
  unfold execCredDel
  try dsimp only
  repeat' (first | with_reducible assumption | intro _ | with_reducible apply kept_next | with_reducible apply keptOut_ite | with_reducible apply kept_ite | with_reducible apply st_setCred_kept | with_reducible apply st_sessionMsg_kept | split)

theorem execMeasExtend_kept (m : Msg) (n : BitVec 4) (d : BitVec 512) (s : State) (h_s : Kept canon queue s) :
    KeptOut canon queue (execMeasExtend m n d s) := by
  unfold execMeasExtend
  try dsimp only
  repeat' (first | with_reducible assumption | intro _ | with_reducible apply kept_next | with_reducible apply keptOut_ite | with_reducible apply kept_ite | with_reducible apply st_sessionMsg_kept | with_reducible apply st_extend_kept | split)

theorem execRevoke_kept (key : BitVec 4096) (sig : BitVec 4096) (s : State) (h_s : Kept canon queue s) :
    KeptOut canon queue (execRevoke key sig s) := by
  unfold execRevoke
  try dsimp only
  repeat' (first | with_reducible assumption | intro _ | with_reducible apply kept_next | with_reducible apply keptOut_ite | with_reducible apply kept_ite | with_reducible apply st_setIdflags_kept)

theorem execJobDone_kept (m : Msg) (s : State) (h_s : Kept canon queue s) :
    KeptOut canon queue (execJobDone m s) := by
  unfold execJobDone
  try dsimp only
  repeat' (first | with_reducible assumption | intro _ | with_reducible apply kept_next | with_reducible apply keptOut_ite | with_reducible apply kept_ite | with_reducible apply st_sessionMsg_kept | fail_if_no_progress with_reducible apply kept_mk | split)

theorem execCredSet_kept (m : Msg) (idx : BitVec 8) (entry : BitVec 1024) (s : State) (h_s : Kept canon queue s) :
    KeptOut canon queue (execCredSet m idx entry s) := by
  unfold execCredSet
  try dsimp only
  repeat' (first | with_reducible assumption | intro _ | with_reducible apply kept_next | with_reducible apply keptOut_ite | with_reducible apply kept_ite | with_reducible apply st_setCred_kept | with_reducible apply st_sessionMsg_kept | split)

theorem execBind_kept (m : Msg) (client : BitVec 8) (v : Word) (s : State) (h_s : Kept canon queue s) :
    KeptOut canon queue (execBind m client v s) := by
  unfold execBind
  try dsimp only
  repeat' (first | with_reducible assumption | intro _ | with_reducible apply kept_next | with_reducible apply keptOut_ite | with_reducible apply kept_ite | with_reducible apply st_sessionMsg_kept | with_reducible apply st_bankWord_kept | split)

theorem execArbCommit_kept (m : Msg) (s : State) (h_s : Kept canon queue s) :
    KeptOut canon queue (execArbCommit m s) := by
  unfold execArbCommit
  try dsimp only
  repeat' (first | with_reducible assumption | intro _ | with_reducible apply kept_next | with_reducible apply keptOut_ite | with_reducible apply kept_ite | with_reducible apply st_sessionMsg_kept | with_reducible apply st_identityBytes_kept)

theorem execPtpDelayRequest_kept (s : State) (h_s : Kept canon queue s) :
    KeptOut canon queue (execPtpDelayRequest s) := by
  unfold execPtpDelayRequest
  try dsimp only
  repeat' (first | with_reducible assumption | intro _ | with_reducible apply kept_next | with_reducible apply keptOut_ite | with_reducible apply kept_ite | with_reducible apply st_emit_kept | fail_if_no_progress with_reducible apply kept_mk)

theorem execPtpSync_kept (m : PtpMsg) (s : State) (h_s : Kept canon queue s) :
    KeptOut canon queue (execPtpSync m s) := by
  unfold execPtpSync
  try dsimp only
  repeat' (first | with_reducible assumption | intro _ | with_reducible apply kept_next | with_reducible apply keptOut_ite | with_reducible apply kept_ite | with_reducible apply st_slew_kept | with_reducible apply st_settleSource_kept | fail_if_no_progress with_reducible apply kept_mk)

theorem execPpsOut_kept (s : State) (h_s : Kept canon queue s) :
    KeptOut canon queue (execPpsOut s) := by
  unfold execPpsOut
  try dsimp only
  repeat' (first | with_reducible assumption | intro _ | with_reducible apply kept_next | with_reducible apply keptOut_ite | with_reducible apply kept_ite | with_reducible apply st_emit_kept | fail_if_no_progress with_reducible apply kept_mk)

theorem execPtpDelayResp_kept (m : PtpMsg) (s : State) (h_s : Kept canon queue s) :
    KeptOut canon queue (execPtpDelayResp m s) := by
  unfold execPtpDelayResp
  try dsimp only
  repeat' (first | with_reducible assumption | intro _ | with_reducible apply kept_next | with_reducible apply keptOut_ite | with_reducible apply kept_ite | fail_if_no_progress with_reducible apply kept_mk | split)

theorem execPpsInEdge_kept (s : State) (h_s : Kept canon queue s) :
    KeptOut canon queue (execPpsInEdge s) := by
  unfold execPpsInEdge
  try dsimp only
  repeat' (first | with_reducible assumption | intro _ | with_reducible apply kept_next | with_reducible apply keptOut_ite | with_reducible apply kept_ite | with_reducible apply st_slew_kept | fail_if_no_progress with_reducible apply kept_mk)

theorem execPtpHoldover_kept (s : State) (h_s : Kept canon queue s) :
    KeptOut canon queue (execPtpHoldover s) := by
  unfold execPtpHoldover
  try dsimp only
  repeat' (first | with_reducible assumption | intro _ | with_reducible apply kept_next | with_reducible apply keptOut_ite | with_reducible apply kept_ite | with_reducible apply st_settleSource_kept | fail_if_no_progress with_reducible apply kept_mk)

theorem execCompareFire_kept (u : BitVec 3) (s : State) (h_s : Kept canon queue s) :
    KeptOut canon queue (execCompareFire u s) := by
  unfold execCompareFire
  try dsimp only
  repeat' (first | with_reducible assumption | intro _ | with_reducible apply kept_next | with_reducible apply keptOut_ite | with_reducible apply kept_ite | with_reducible apply st_baroWrite_kept | fail_if_no_progress with_reducible apply kept_mk)

theorem st_flushLinks_kept (s : State) (h_s : Kept canon queue s) :
    Kept canon queue (State.flushLinks s) := by
  unfold State.flushLinks
  try dsimp only
  repeat' (first | with_reducible assumption | intro _ | with_reducible apply kept_ite | with_reducible apply st_flushLink_kept | with_reducible apply kept_foldl)

theorem st_countStalls_kept (s : State) (h_s : Kept canon queue s) :
    Kept canon queue (State.countStalls s) := by
  unfold State.countStalls
  try dsimp only
  repeat' (first | with_reducible assumption | intro _ | with_reducible apply kept_ite | with_reducible apply st_setFrame_kept | with_reducible apply kept_foldl)

theorem st_tick_kept (s : State) (h_s : Kept canon queue s) :
    Kept canon queue (State.tick s) := by
  unfold State.tick
  try dsimp only
  repeat' (first | with_reducible assumption | intro _ | with_reducible apply kept_ite | with_reducible apply st_countStalls_kept | with_reducible apply st_flushLinks_kept | with_reducible apply st_emit_kept | fail_if_no_progress with_reducible apply kept_mk | split)

end Sys2Proof.Laws
end

