-- ==== Sys2Proof/Laws/KeptFabric.lean ====
section
/-! SUPPORT. What every operation keeps (Laws/Kept.lean): links, packets, collectives, memory and reliability. -/

set_option maxRecDepth 4000

namespace Sys2Proof.Laws

open Sys2Proof.Machine

variable {canon : Prop} {queue : List Instr}

theorem st_colRec_kept (s : State) (b : Job) (n : ℕ) (h_s : Kept canon queue s) :
    Kept canon queue (State.colRec s b n) := by
  unfold State.colRec
  try dsimp only
  repeat' (first | with_reducible assumption | intro _ | with_reducible apply kept_ite | with_reducible apply st_modResidue_kept)

theorem st_recvResend_kept (s : State) (h : PHdr) (h_s : Kept canon queue s) :
    Kept canon queue (State.recvResend s h) := by
  unfold State.recvResend
  try dsimp only
  repeat' (first | with_reducible assumption | intro _ | with_reducible apply kept_ite | with_reducible apply st_colRec_kept | with_reducible apply st_forJob_kept | with_reducible apply st_sendDir_kept | with_reducible apply st_needReplay_kept | with_reducible apply st_setJob_kept | with_reducible apply kept_foldl | split)

theorem execResend_kept (h : PHdr) (s : State) (h_s : Kept canon queue s) :
    KeptOut canon queue (execResend h s) := by
  unfold execResend
  try dsimp only
  repeat' (first | with_reducible assumption | intro _ | with_reducible apply kept_next | with_reducible apply keptOut_ite | with_reducible apply kept_ite | with_reducible apply st_recvResend_kept)

theorem execCollectiveEnd_kept (j : ℕ) (entry : BitVec 6) (s : State) (h_s : Kept canon queue s) :
    KeptOut canon queue (execCollectiveEnd j entry s) := by
  unfold execCollectiveEnd
  try dsimp only
  repeat' (first | with_reducible assumption | intro _ | with_reducible apply kept_next | with_reducible apply keptOut_ite | with_reducible apply kept_ite | with_reducible apply st_setJob_kept | with_reducible apply done_kept | with_reducible apply st_reap_kept | with_reducible apply st_jobPuts_kept | with_reducible apply st_jobPut_kept | fail_if_no_progress with_reducible apply kept_mk | assumption | split)

theorem st_addUnit_kept (s : State) (b : Job) (c : ColEnt) (u : ℕ) (vals : List ℕ) (h_s : Kept canon queue s) :
    Kept canon queue (State.addUnit s b c u vals) := by
  unfold State.addUnit
  try dsimp only
  repeat' (first | with_reducible assumption | intro _ | with_reducible apply kept_ite | with_reducible apply st_atomicAt_kept | with_reducible apply kept_foldl | split)

theorem st_recvScatter_kept (s : State) (h : PHdr) (data : List Byte) (h_s : Kept canon queue s) :
    Kept canon queue (State.recvScatter s h data) := by
  unfold State.recvScatter
  try dsimp only
  repeat' (first | with_reducible assumption | intro _ | with_reducible apply kept_ite | with_reducible apply st_addUnit_kept | with_reducible apply st_forJob_kept | split)

theorem st_recvData_kept (s : State) (h : PHdr) (data : List Byte) (h_s : Kept canon queue s) :
    Kept canon queue (State.recvData s h data) := by
  unfold State.recvData
  try dsimp only
  repeat' (first | with_reducible assumption | intro _ | with_reducible apply kept_ite | with_reducible apply st_forJob_kept | with_reducible apply st_setJob_kept)

theorem st_sendCon_kept (s : State) (j : ℕ) (b : Job) (dir : ℕ) (peer : Coord) (tag : ℕ) (data : List Byte) (h_s : Kept canon queue s) :
    Kept canon queue (State.sendCon s j b dir peer tag data) := by
  unfold State.sendCon
  try dsimp only
  repeat' (first | with_reducible assumption | intro _ | with_reducible apply kept_ite | with_reducible apply st_sendDir_kept | with_reducible apply st_modJob_kept | with_reducible apply kept_foldl)

theorem st_sendRing_kept (s : State) (j : ℕ) (b : Job) (c : ColEnt) (gs : List ColStage) (f : Flight) (ph : ColDo × ℕ) (minus : Bool) (r : ℕ) (h_s : Kept canon queue s) :
    Kept canon queue (State.sendRing s j b c gs f ph minus r) := by
  unfold State.sendRing
  try dsimp only
  repeat' (first | with_reducible assumption | intro _ | with_reducible apply kept_ite | with_reducible apply st_sendCon_kept)

theorem st_openPhase_kept (s : State) (j : ℕ) (c : ColEnt) (gs : List ColStage) (f : Flight) (h_s : Kept canon queue s) :
    Kept canon queue (State.openPhase s j c gs f) := by
  unfold State.openPhase
  try dsimp only
  repeat' (first | with_reducible assumption | intro _ | with_reducible apply kept_ite | with_reducible apply st_sendRing_kept | split)

theorem st_ringStep_kept (s : State) (j : ℕ) (c : ColEnt) (gs : List ColStage) (f : Flight) (minus : Bool) (h_s : Kept canon queue s) :
    KeptOpt canon queue (State.ringStep s j c gs f minus) := by
  unfold State.ringStep
  try dsimp only
  repeat' (first | with_reducible assumption | intro _ | with_reducible apply kept_ite | with_reducible apply st_sendRing_kept | with_reducible apply st_setJob_kept | with_reducible apply keptOpt_some | with_reducible apply keptOpt_none | with_reducible apply keptOpt_ite | with_reducible apply kept_getD | with_reducible apply keptOpt_mapSt | with_reducible apply keptOpt_map | refine keptOpt_elim ?_ (by with_reducible assumption) | split)

theorem st_advance_kept (s : State) (j : ℕ) (e : ℕ) (x4 : ℕ) (h_s : Kept canon queue s) :
    Kept canon queue (State.advance s j e x4) := by
  induction x4 generalizing s with
  | zero => exact h_s
  | succ n ih =>
    unfold State.advance
    split
    · exact h_s
    · dsimp only
      split
      · exact h_s
      · refine kept_ite (ih _ (st_openPhase_kept _ _ _ _ _ (st_setJob_kept _ _ _ h_s))) ?_
        split
        · rename_i t e
          exact ih _ ((st_ringStep_kept _ _ _ _ _ _ h_s).1 t e)
        · split
          · rename_i t e
            exact ih _ ((st_ringStep_kept _ _ _ _ _ _ h_s).1 t e)
          · exact h_s

theorem st_colFailed_kept (s : State) (b : Job) (outcome : ℕ) (unit : ℕ) (h_s : Kept canon queue s) :
    Kept canon queue (State.colFailed s b outcome unit) := by
  unfold State.colFailed
  try dsimp only
  repeat' (first | with_reducible assumption | intro _ | with_reducible apply kept_ite | with_reducible apply st_modResidue_kept | fail_if_no_progress with_reducible apply kept_mk)

theorem st_strayCombine_kept (s : State) (j : ℕ) (f : Flight) (i : ℕ) (h_s : Kept canon queue s) :
    Kept canon queue (State.strayCombine s j f i) := by
  unfold State.strayCombine
  try dsimp only
  repeat' (first | with_reducible assumption | intro _ | with_reducible apply kept_ite | with_reducible apply st_modJob_kept | with_reducible apply st_skipFree_kept)

theorem st_advanceChecked_kept (s : State) (j : ℕ) (e : ℕ) (u : Upset) (h_s : Kept canon queue s) :
    Kept canon queue (State.advanceChecked s j e u) := by
  unfold State.advanceChecked
  try dsimp only
  repeat' (first | with_reducible assumption | intro _ | with_reducible apply kept_ite | with_reducible apply st_strayCombine_kept | with_reducible apply st_colFailed_kept | with_reducible apply st_advance_kept | with_reducible apply st_modResidue_kept | with_reducible apply st_reap_kept | with_reducible apply st_replayOrEnd_kept | with_reducible apply st_endJob_kept | split)

theorem st_answerCon_kept (s : State) (b : Job) (h : PHdr) (type : ℕ) (h_s : Kept canon queue s) :
    Kept canon queue (State.answerCon s b h type) := by
  unfold State.answerCon
  try dsimp only
  repeat' (first | with_reducible assumption | intro _ | with_reducible apply kept_ite | with_reducible apply st_send_kept)

theorem st_recvDigest_kept (s : State) (h : PHdr) (dig : BitVec 128) (u : Upset) (h_s : Kept canon queue s) :
    Kept canon queue (State.recvDigest s h dig u) := by
  unfold State.recvDigest
  try dsimp only
  repeat' (first | with_reducible assumption | intro _ | with_reducible apply kept_ite | with_reducible apply st_colRec_kept | with_reducible apply st_answerCon_kept | with_reducible apply st_advanceChecked_kept | with_reducible apply st_forJob_kept | with_reducible apply st_setJob_kept)

theorem execCollectiveData_kept (h : PHdr) (data : List Byte) (s : State) (h_s : Kept canon queue s) :
    KeptOut canon queue (execCollectiveData h data s) := by
  unfold execCollectiveData
  try dsimp only
  repeat' (first | with_reducible assumption | intro _ | with_reducible apply kept_next | with_reducible apply keptOut_ite | with_reducible apply kept_ite | with_reducible apply st_recvData_kept)

theorem st_scatter_kept (s : State) (b : Job) (c : ColEnt) (gs : List ColStage) (f : Flight) (h_s : Kept canon queue s) :
    Kept canon queue (State.scatter s b c gs f) := by
  unfold State.scatter
  try dsimp only
  repeat' (first | with_reducible assumption | intro _ | with_reducible apply kept_ite | with_reducible apply st_addUnit_kept | with_reducible apply st_send_kept | with_reducible apply kept_foldl)

theorem execContributionDigest_kept (h : PHdr) (dig : BitVec 128) (u : Upset) (s : State) (h_s : Kept canon queue s) :
    KeptOut canon queue (execContributionDigest h dig u s) := by
  unfold execContributionDigest
  try dsimp only
  repeat' (first | with_reducible assumption | intro _ | with_reducible apply kept_next | with_reducible apply keptOut_ite | with_reducible apply kept_ite | with_reducible apply st_recvDigest_kept)

theorem st_recvAck_kept (s : State) (h : PHdr) (h_s : Kept canon queue s) :
    Kept canon queue (State.recvAck s h) := by
  unfold State.recvAck
  try dsimp only
  repeat' (first | with_reducible assumption | intro _ | with_reducible apply kept_ite | with_reducible apply st_forJob_kept | with_reducible apply st_setJob_kept | split)

theorem execCollectiveAck_kept (h : PHdr) (s : State) (h_s : Kept canon queue s) :
    KeptOut canon queue (execCollectiveAck h s) := by
  unfold execCollectiveAck
  try dsimp only
  repeat' (first | with_reducible assumption | intro _ | with_reducible apply kept_next | with_reducible apply keptOut_ite | with_reducible apply kept_ite | with_reducible apply st_recvAck_kept)

theorem execScatterAdd_kept (h : PHdr) (data : List Byte) (s : State) (h_s : Kept canon queue s) :
    KeptOut canon queue (execScatterAdd h data s) := by
  unfold execScatterAdd
  try dsimp only
  repeat' (first | with_reducible assumption | intro _ | with_reducible apply kept_next | with_reducible apply keptOut_ite | with_reducible apply kept_ite | with_reducible apply st_recvScatter_kept)

theorem execCollectiveStart_kept (j : ℕ) (entry : BitVec 6) (u : Upset) (s : State) (h_s : Kept canon queue s) :
    KeptOut canon queue (execCollectiveStart j entry u s) := by
  unfold execCollectiveStart
  try dsimp only
  repeat' (first | with_reducible assumption | intro _ | with_reducible apply kept_next | with_reducible apply keptOut_ite | with_reducible apply kept_ite | with_reducible apply st_scatter_kept | with_reducible apply st_advanceChecked_kept | with_reducible apply st_openPhase_kept | with_reducible apply st_setJob_kept | split)

theorem st_linkRec_kept (s : State) (loc : Word) (ncoord : ℕ) (n : ℕ) (h_s : Kept canon queue s) :
    Kept canon queue (State.linkRec s loc ncoord n) := by
  unfold State.linkRec
  try dsimp only
  repeat' (first | with_reducible assumption | intro _ | with_reducible apply kept_ite | with_reducible apply st_baroWrite_kept)

theorem st_failLink_kept (s : State) (n : ℕ) (h_s : Kept canon queue s) :
    Kept canon queue (State.failLink s n) := by
  unfold State.failLink
  try dsimp only
  repeat' (first | with_reducible assumption | intro _ | with_reducible apply kept_ite | with_reducible apply st_linkRec_kept | with_reducible apply st_transmit_kept | with_reducible apply st_setLink_kept | with_reducible apply kept_foldl | fail_if_no_progress with_reducible apply kept_mk | split)

theorem st_fabricDown_kept (s : State) (j : ℕ) (b : Job) (h_s : Kept canon queue s) :
    Kept canon queue (State.fabricDown s j b) := by
  unfold State.fabricDown
  try dsimp only
  repeat' (first | with_reducible assumption | intro _ | with_reducible apply kept_ite | with_reducible apply st_endJob_kept | with_reducible apply st_baroWrite_kept)

theorem execLinkReplayRequest_kept (link : BitVec 6) (fseq : BitVec 12) (s : State) (h_s : Kept canon queue s) :
    KeptOut canon queue (execLinkReplayRequest link fseq s) := by
  unfold execLinkReplayRequest
  try dsimp only
  repeat' (first | with_reducible assumption | intro _ | with_reducible apply kept_next | with_reducible apply keptOut_ite | with_reducible apply kept_ite | with_reducible apply st_flushLink_kept | with_reducible apply st_emit_kept | with_reducible apply kept_foldl)

theorem execLinkFail_kept (link : BitVec 6) (s : State) (h_s : Kept canon queue s) :
    KeptOut canon queue (execLinkFail link s) := by
  unfold execLinkFail
  try dsimp only
  repeat' (first | with_reducible assumption | intro _ | with_reducible apply kept_next | with_reducible apply keptOut_ite | with_reducible apply kept_ite | with_reducible apply st_failLink_kept)

theorem st_spareLane_kept (s : State) (n : ℕ) (lane : ℕ) (h_s : Kept canon queue s) :
    Kept canon queue (State.spareLane s n lane) := by
  unfold State.spareLane
  try dsimp only
  repeat' (first | with_reducible assumption | intro _ | with_reducible apply kept_ite | with_reducible apply st_linkRec_kept | with_reducible apply st_repairNote_kept | with_reducible apply st_setLink_kept)

theorem execLaneSpare_kept (link : BitVec 6) (lane : BitVec 3) (s : State) (h_s : Kept canon queue s) :
    KeptOut canon queue (execLaneSpare link lane s) := by
  unfold execLaneSpare
  try dsimp only
  repeat' (first | with_reducible assumption | intro _ | with_reducible apply kept_next | with_reducible apply keptOut_ite | with_reducible apply kept_ite | with_reducible apply st_spareLane_kept | with_reducible apply st_failLink_kept | with_reducible apply st_control_kept | with_reducible apply st_flushLink_kept)

theorem execNeighbourLost_kept (g : RingBreak) (s : State) (h_s : Kept canon queue s) :
    KeptOut canon queue (execNeighbourLost g s) := by
  unfold execNeighbourLost
  try dsimp only
  repeat' (first | with_reducible assumption | intro _ | with_reducible apply kept_next | with_reducible apply keptOut_ite | with_reducible apply kept_ite | with_reducible apply st_fabricDown_kept | with_reducible apply st_needReplay_kept | with_reducible apply st_release_kept | with_reducible apply kept_foldl | fail_if_no_progress with_reducible apply kept_mk)

theorem execLinkDiscovery_kept (link : BitVec 6) (theirs : BitVec 32) (nlink : BitVec 6) (s : State) (h_s : Kept canon queue s) :
    KeptOut canon queue (execLinkDiscovery link theirs nlink s) := by
  unfold execLinkDiscovery
  try dsimp only
  repeat' (first | with_reducible assumption | intro _ | with_reducible apply kept_next | with_reducible apply keptOut_ite | with_reducible apply kept_ite | with_reducible apply st_linkRec_kept | with_reducible apply st_release_kept | with_reducible apply st_setLink_kept | with_reducible apply st_emit_kept | fail_if_no_progress with_reducible apply kept_mk)

theorem execLinkRetrain_kept (link : BitVec 6) (trained : Bool) (s : State) (h_s : Kept canon queue s) :
    KeptOut canon queue (execLinkRetrain link trained s) := by
  unfold execLinkRetrain
  try dsimp only
  repeat' (first | with_reducible assumption | intro _ | with_reducible apply kept_next | with_reducible apply keptOut_ite | with_reducible apply kept_ite | with_reducible apply st_linkRec_kept | with_reducible apply st_repairNote_kept | with_reducible apply st_baroWrite_kept | with_reducible apply st_setLink_kept)

theorem st_laneAsked_kept (s : State) (n : ℕ) (lane : ℕ) (h_s : Kept canon queue s) :
    Kept canon queue (State.laneAsked s n lane) := by
  unfold State.laneAsked
  try dsimp only
  repeat' (first | with_reducible assumption | intro _ | with_reducible apply kept_ite | with_reducible apply st_spareLane_kept)

theorem st_deliver_kept (s : State) (n : ℕ) (h : PHdr) (data : List Byte) (h_s : Kept canon queue s) :
    Kept canon queue (State.deliver s n h data) := by
  unfold State.deliver
  try dsimp only
  repeat' (first | with_reducible assumption | intro _ | with_reducible apply kept_ite | with_reducible apply st_recvResend_kept | with_reducible apply st_recvDigest_kept | with_reducible apply st_recvScatter_kept | with_reducible apply st_recvData_kept | with_reducible apply st_recvAck_kept | with_reducible apply st_recvDelayReq_kept | with_reducible apply st_recvSync_kept | with_reducible apply st_recvDelayResp_kept | with_reducible apply st_recvCommand_kept | with_reducible apply st_recvNotice_kept | with_reducible apply st_recvRecord_kept | with_reducible apply st_recvRewind_kept | with_reducible apply st_recvPipe_kept | with_reducible apply st_recvCredit_kept | split)

theorem st_arrive_kept (s : State) (n : ℕ) (h : PHdr) (data : List Byte) (h_s : Kept canon queue s) :
    Kept canon queue (State.arrive s n h data) := by
  unfold State.arrive
  try dsimp only
  repeat' (first | with_reducible assumption | intro _ | with_reducible apply kept_ite | with_reducible apply st_deliver_kept | with_reducible apply st_routeOut_kept | with_reducible apply st_credit_kept | fail_if_no_progress with_reducible apply kept_mk)

theorem st_unpack_kept (s : State) (n : ℕ) (x3 : ℕ) (x4 : List Byte) (h_s : Kept canon queue s) :
    Kept canon queue (State.unpack s n x3 x4).1 := by
  induction x3 generalizing s x4 with
  | zero => exact h_s
  | succ k ih =>
    unfold State.unpack
    split
    · exact h_s
    · dsimp only
      split
      · exact h_s
      · exact ih _ _ (st_arrive_kept _ _ _ _ h_s)

theorem st_controlFlit_kept (s : State) (n : ℕ) (data : List Byte) (h_s : Kept canon queue s) :
    Kept canon queue (State.controlFlit s n data) := by
  unfold State.controlFlit
  try dsimp only
  repeat' (first | with_reducible assumption | intro _ | with_reducible apply kept_ite | with_reducible apply st_laneAsked_kept | with_reducible apply st_drain_kept | with_reducible apply st_setLink_kept | with_reducible apply kept_foldl | split)

theorem st_countFixes_kept (s : State) (n : ℕ) (fixed : List ℕ) (h_s : Kept canon queue s) :
    Kept canon queue (State.countFixes s n fixed) := by
  unfold State.countFixes
  try dsimp only
  repeat' (first | with_reducible assumption | intro _ | with_reducible apply kept_ite | with_reducible apply st_setLink_kept)

theorem st_badFlit_kept (s : State) (n : ℕ) (h_s : Kept canon queue s) :
    Kept canon queue (State.badFlit s n) := by
  unfold State.badFlit
  try dsimp only
  repeat' (first | with_reducible assumption | intro _ | with_reducible apply kept_ite | with_reducible apply st_failLink_kept | with_reducible apply st_setLink_kept | with_reducible apply st_emit_kept)

theorem st_goodFlit_kept (s : State) (n : ℕ) (data : List Byte) (h_s : Kept canon queue s) :
    Kept canon queue (State.goodFlit s n data) := by
  unfold State.goodFlit
  try dsimp only
  repeat' (first | with_reducible assumption | intro _ | with_reducible apply kept_ite | with_reducible apply st_unpack_kept | with_reducible apply st_setLink_kept)

theorem execFlitReceive_kept (link : BitVec 6) (flit : List Byte) (fixed : List ℕ) (s : State) (h_s : Kept canon queue s) :
    KeptOut canon queue (execFlitReceive link flit fixed s) := by
  unfold execFlitReceive
  try dsimp only
  repeat' (first | with_reducible assumption | intro _ | with_reducible apply kept_next | with_reducible apply keptOut_ite | with_reducible apply kept_ite | with_reducible apply st_goodFlit_kept | with_reducible apply st_badFlit_kept | with_reducible apply st_countFixes_kept | with_reducible apply st_controlFlit_kept | with_reducible apply st_setLink_kept)

theorem st_movePageTo_kept (s : State) (j : ℕ) (creel : Bool) (n : ℕ) (e : Word) (dest : Option (ℕ × ℕ)) (h_s : Kept canon queue s) :
    Kept canon queue (State.movePageTo s j creel n e dest) := by
  unfold State.movePageTo
  try dsimp only
  repeat' (first | with_reducible assumption | intro _ | with_reducible apply kept_ite | with_reducible apply st_copyTo_kept | with_reducible apply st_reap_kept | with_reducible apply st_endJob_kept | split)

theorem st_moveSavePage_kept (s : State) (j : ℕ) (ppn : ℕ) (h_s : Kept canon queue s) :
    Kept canon queue (State.moveSavePage s j ppn) := by
  unfold State.moveSavePage
  try dsimp only
  repeat' (first | with_reducible assumption | intro _ | with_reducible apply kept_ite | with_reducible apply st_modJob_kept | with_reducible apply st_endJob_kept | with_reducible apply st_reap_kept | fail_if_no_progress with_reducible apply kept_mk | assumption | split)

theorem st_setPort_kept (s : State) (p : ℕ) (x : Port) (h_s : Kept canon queue s) :
    Kept canon queue (State.setPort s p x) := by
  unfold State.setPort
  try dsimp only
  repeat' (first | with_reducible assumption | intro _ | with_reducible apply kept_ite | fail_if_no_progress with_reducible apply kept_mk)

theorem st_movePage_kept (s : State) (j : ℕ) (creel : Bool) (page : ℕ) (e : Word) (h_s : Kept canon queue s) :
    Kept canon queue (State.movePage s j creel page e) := by
  unfold State.movePage
  try dsimp only
  repeat' (first | with_reducible assumption | intro _ | with_reducible apply kept_ite | with_reducible apply st_movePageTo_kept | split)

theorem st_vacate_kept (s : State) (tier : ℕ) (ppn : ℕ) (h_s : Kept canon queue s) :
    Kept canon queue (State.vacate s tier ppn) := by
  unfold State.vacate
  try dsimp only
  repeat' (first | with_reducible assumption | intro _ | with_reducible apply kept_ite | with_reducible apply st_movePage_kept | with_reducible apply st_moveSavePage_kept | with_reducible apply kept_foldl)

theorem st_retirePart_kept (s : State) (key : ℕ) (n : ℕ) (h_s : Kept canon queue s) :
    Kept canon queue (State.retirePart s key n) := by
  unfold State.retirePart
  try dsimp only
  repeat' (first | with_reducible assumption | intro _ | with_reducible apply kept_ite | with_reducible apply st_vacate_kept | with_reducible apply st_retireSite_kept | with_reducible apply st_repairNote_kept | with_reducible apply st_baroWrite_kept | with_reducible apply st_setFrame_kept | fail_if_no_progress with_reducible apply kept_mk)

theorem st_repairRow_kept (s : State) (key : ℕ) (n : ℕ) (h_s : Kept canon queue s) :
    Kept canon queue (State.repairRow s key n) := by
  unfold State.repairRow
  try dsimp only
  repeat' (first | with_reducible assumption | intro _ | with_reducible apply kept_ite | with_reducible apply st_spareRow_kept | with_reducible apply st_retirePart_kept | fail_if_no_progress with_reducible apply kept_mk | refine keptOpt_elim ?_ (by with_reducible assumption) | assumption | split)

theorem execPatrolScrub_kept (addr : ℕ) (found : EccFound) (s : State) (h_s : Kept canon queue s) :
    KeptOut canon queue (execPatrolScrub addr found s) := by
  unfold execPatrolScrub
  try dsimp only
  repeat' (first | with_reducible assumption | intro _ | with_reducible apply kept_next | with_reducible apply keptOut_ite | with_reducible apply kept_ite | with_reducible apply st_countRow_kept | with_reducible apply st_repairRow_kept | fail_if_no_progress with_reducible apply kept_mk | assumption | split)

theorem st_atomicCmd_kept (s : State) (kind : AtomKind) (key : ℕ) (size : ℕ) (v : ℕ) (h_s : Kept canon queue s) :
    Kept canon queue (State.atomicCmd s kind key size v) := by
  unfold State.atomicCmd
  try dsimp only
  repeat' (first | with_reducible assumption | intro _ | with_reducible apply kept_ite | with_reducible apply st_atomicAt_kept)

theorem execAtomicFp32Add_kept (addr : ℕ) (v : BitVec 32) (s : State) (h_s : Kept canon queue s) :
    KeptOut canon queue (execAtomicFp32Add addr v s) := by
  unfold execAtomicFp32Add
  try dsimp only
  repeat' (first | with_reducible assumption | intro _ | with_reducible apply kept_next | with_reducible apply keptOut_ite | with_reducible apply kept_ite | with_reducible apply st_atomicCmd_kept)

theorem execAtomicByteOr_kept (addr : ℕ) (v : Byte) (s : State) (h_s : Kept canon queue s) :
    KeptOut canon queue (execAtomicByteOr addr v s) := by
  unfold execAtomicByteOr
  try dsimp only
  repeat' (first | with_reducible assumption | intro _ | with_reducible apply kept_next | with_reducible apply keptOut_ite | with_reducible apply kept_ite | with_reducible apply st_atomicCmd_kept)

theorem st_portRec_kept (s : State) (p : ℕ) (n : ℕ) (h_s : Kept canon queue s) :
    Kept canon queue (State.portRec s p n) := by
  unfold State.portRec
  try dsimp only
  repeat' (first | with_reducible assumption | intro _ | with_reducible apply kept_ite | with_reducible apply st_baroWrite_kept)

theorem st_giveUp_kept (s : State) (p : ℕ) (h_s : Kept canon queue s) :
    Kept canon queue (State.giveUp s p) := by
  unfold State.giveUp
  try dsimp only
  repeat' (first | with_reducible assumption | intro _ | with_reducible apply kept_ite | with_reducible apply st_setPort_kept | with_reducible apply st_portRec_kept | with_reducible apply st_reap_kept | with_reducible apply st_endJob_kept | with_reducible apply st_modJob_kept | with_reducible apply kept_foldl)

theorem execHbmRequest_kept (stack : BitVec 4) (unit : BitVec 30) (store : Option Line) (s : State) (h_s : Kept canon queue s) :
    KeptOut canon queue (execHbmRequest stack unit store s) := by
  unfold execHbmRequest
  dsimp only
  refine kept_next (kept_ite h_s ?_)
  cases store with
  | none => exact st_emit_kept _ _ h_s
  | some v => exact kept_mem h_s fun h => wf_setAll _ h

theorem execCxlPortLost_kept (port : Bool) (s : State) (h_s : Kept canon queue s) :
    KeptOut canon queue (execCxlPortLost port s) := by
  unfold execCxlPortLost
  try dsimp only
  repeat' (first | with_reducible assumption | intro _ | with_reducible apply kept_next | with_reducible apply keptOut_ite | with_reducible apply kept_ite | with_reducible apply st_mapSpns_kept | with_reducible apply st_portRec_kept | with_reducible apply st_setPort_kept)

theorem execAtomicU64Add_kept (addr : ℕ) (v : Word) (s : State) (h_s : Kept canon queue s) :
    KeptOut canon queue (execAtomicU64Add addr v s) := by
  unfold execAtomicU64Add
  try dsimp only
  repeat' (first | with_reducible assumption | intro _ | with_reducible apply kept_next | with_reducible apply keptOut_ite | with_reducible apply kept_ite | with_reducible apply st_atomicCmd_kept)

theorem execAtomicFp32Max_kept (addr : ℕ) (v : BitVec 32) (s : State) (h_s : Kept canon queue s) :
    KeptOut canon queue (execAtomicFp32Max addr v s) := by
  unfold execAtomicFp32Max
  try dsimp only
  repeat' (first | with_reducible assumption | intro _ | with_reducible apply kept_next | with_reducible apply keptOut_ite | with_reducible apply kept_ite | with_reducible apply st_atomicCmd_kept)

theorem execCxlGiveUp_kept (port : Bool) (s : State) (h_s : Kept canon queue s) :
    KeptOut canon queue (execCxlGiveUp port s) := by
  unfold execCxlGiveUp
  try dsimp only
  repeat' (first | with_reducible assumption | intro _ | with_reducible apply kept_next | with_reducible apply keptOut_ite | with_reducible apply kept_ite | with_reducible apply st_giveUp_kept)

theorem execCxlRetrain_kept (port : Bool) (trained : Bool) (ids : List (Word × Word)) (s : State) (h_s : Kept canon queue s) :
    KeptOut canon queue (execCxlRetrain port trained ids s) := by
  unfold execCxlRetrain
  try dsimp only
  repeat' (first | with_reducible assumption | intro _ | with_reducible apply kept_next | with_reducible apply keptOut_ite | with_reducible apply kept_ite | with_reducible apply st_giveUp_kept | with_reducible apply st_setPort_kept | with_reducible apply st_portRec_kept)

theorem st_lendMap_kept (s : State) (l : ℕ) (p : ℕ) (h_s : Kept canon queue s) :
    Kept canon queue (State.lendMap s l p) := by
  unfold State.lendMap
  try dsimp only
  repeat' (first | with_reducible assumption | intro _ | with_reducible apply kept_ite | with_reducible apply st_setSpmap_kept)

theorem st_lendSite_kept (s : State) (p : ℕ) (st : ℕ) (h_s : Kept canon queue s) :
    Kept canon queue (State.lendSite s p st) := by
  unfold State.lendSite
  try dsimp only
  repeat' (first | with_reducible assumption | intro _ | with_reducible apply kept_ite | with_reducible apply st_setSite_kept)

theorem st_moveBobbin_kept (s : State) (p : ℕ) (q : ℕ) (h_s : Kept canon queue s) :
    Kept canon queue (State.moveBobbin s p q) := by
  unfold State.moveBobbin
  try dsimp only
  repeat' (first | with_reducible assumption | with_reducible apply wf_setBytes | with_reducible apply wf_setNat | with_reducible apply wf_setAll | with_reducible apply wf_set | intro _ | with_reducible apply kept_ite | fail_if_no_progress with_reducible apply kept_mk | with_reducible apply kept_mem)

theorem st_lend_kept (s : State) (l : ℕ) (p : ℕ) (q : ℕ) (h_s : Kept canon queue s) :
    Kept canon queue (State.lend s l p q) := by
  unfold State.lend
  try dsimp only
  repeat' (first | with_reducible assumption | intro _ | with_reducible apply kept_ite | with_reducible apply st_moveBobbin_kept | with_reducible apply st_lendMap_kept | with_reducible apply st_lendSite_kept)

theorem st_unlend_kept (s : State) (p : ℕ) (q : ℕ) (h_s : Kept canon queue s) :
    Kept canon queue (State.unlend s p q) := by
  unfold State.unlend
  try dsimp only
  repeat' (first | with_reducible assumption | intro _ | with_reducible apply kept_ite | with_reducible apply st_moveBobbin_kept | with_reducible apply st_lendSite_kept | with_reducible apply st_lendMap_kept | with_reducible apply st_markSite_kept | split)

theorem st_spotRec_kept (s : State) (t : Spot) (third : Word) (n : ℕ) (lost : ℕ) (h_s : Kept canon queue s) :
    Kept canon queue (State.spotRec s t third n lost) := by
  unfold State.spotRec
  try dsimp only
  repeat' (first | with_reducible assumption | intro _ | with_reducible apply kept_ite | with_reducible apply st_baroWrite_kept)

theorem st_noLoser_kept (s : State) (t : Spot) (third : Word) (h_s : Kept canon queue s) :
    Kept canon queue (State.noLoser s t third) := by
  unfold State.noLoser
  try dsimp only
  repeat' (first | with_reducible assumption | intro _ | with_reducible apply kept_ite | with_reducible apply st_spotRec_kept | fail_if_no_progress with_reducible apply kept_mk)

theorem st_markTesting_kept (s : State) (p : ℕ) (h_s : Kept canon queue s) :
    Kept canon queue (State.markTesting s p) := by
  unfold State.markTesting
  try dsimp only
  repeat' (first | with_reducible assumption | intro _ | with_reducible apply kept_ite | with_reducible apply st_lendSite_kept)

theorem st_startTest_kept (s : State) (t : Spot) (h_s : Kept canon queue s) :
    Kept canon queue (State.startTest s t) := by
  unfold State.startTest
  try dsimp only
  repeat' (first | with_reducible assumption | intro _ | with_reducible apply kept_ite | with_reducible apply st_markTesting_kept | with_reducible apply kept_foldl | fail_if_no_progress with_reducible apply kept_mk)

theorem st_tryTest_kept (s : State) (p : ℕ) (h_s : Kept canon queue s) :
    Kept canon queue (State.tryTest s p) := by
  unfold State.tryTest
  try dsimp only
  repeat' (first | with_reducible assumption | intro _ | with_reducible apply kept_ite | with_reducible apply st_startTest_kept | fail_if_no_progress with_reducible apply kept_mk | split)

theorem st_startTwinTests_kept (s : State) (h_s : Kept canon queue s) :
    Kept canon queue (State.startTwinTests s) := by
  unfold State.startTwinTests
  try dsimp only
  repeat' (first | with_reducible assumption | intro _ | with_reducible apply kept_ite | with_reducible apply st_startTest_kept | with_reducible apply kept_foldl | fail_if_no_progress with_reducible apply kept_mk)

theorem st_forceTest_kept (s : State) (p : ℕ) (h_s : Kept canon queue s) :
    Kept canon queue (State.forceTest s p) := by
  unfold State.forceTest
  try dsimp only
  repeat' (first | with_reducible assumption | intro _ | with_reducible apply kept_ite | with_reducible apply st_startTest_kept | with_reducible apply st_lend_kept | fail_if_no_progress with_reducible apply kept_mk | split)

theorem execSpotTestDeferExpiry_kept (site : BitVec 9) (s : State) (h_s : Kept canon queue s) :
    KeptOut canon queue (execSpotTestDeferExpiry site s) := by
  unfold execSpotTestDeferExpiry
  try dsimp only
  repeat' (first | with_reducible assumption | intro _ | with_reducible apply kept_next | with_reducible apply keptOut_ite | with_reducible apply kept_ite | with_reducible apply st_forceTest_kept)

theorem st_twinMismatch_kept (s : State) (t : Twin) (h_s : Kept canon queue s) :
    Kept canon queue (State.twinMismatch s t) := by
  unfold State.twinMismatch
  try dsimp only
  repeat' (first | with_reducible assumption | intro _ | with_reducible apply kept_ite | with_reducible apply st_startTest_kept | with_reducible apply st_needReplay_kept | with_reducible apply st_baroWrite_kept | fail_if_no_progress with_reducible apply kept_mk | split)

theorem execTwinSampleCompare_kept (sample : ℕ) (dig : BitVec 128) (s : State) (h_s : Kept canon queue s) :
    KeptOut canon queue (execTwinSampleCompare sample dig s) := by
  unfold execTwinSampleCompare
  try dsimp only
  repeat' (first | with_reducible assumption | intro _ | with_reducible apply kept_next | with_reducible apply keptOut_ite | with_reducible apply kept_ite | with_reducible apply sample_kept | with_reducible apply st_twinMismatch_kept | fail_if_no_progress with_reducible apply kept_mk | assumption | split)

theorem st_countTest_kept (s : State) (differ : Bool) (h_s : Kept canon queue s) :
    Kept canon queue (State.countTest s differ) := by
  unfold State.countTest
  try dsimp only
  repeat' (first | with_reducible assumption | intro _ | with_reducible apply kept_ite | fail_if_no_progress with_reducible apply kept_mk)

theorem st_endTest_kept (s : State) (t : Spot) (h_s : Kept canon queue s) :
    Kept canon queue (State.endTest s t) := by
  unfold State.endTest
  try dsimp only
  repeat' (first | with_reducible assumption | intro _ | with_reducible apply kept_ite | with_reducible apply st_unlend_kept | with_reducible apply st_lendSite_kept | with_reducible apply kept_foldl | fail_if_no_progress with_reducible apply kept_mk | split)

theorem st_passed_kept (s : State) (p : ℕ) (h_s : Kept canon queue s) :
    Kept canon queue (State.passed s p) := by
  unfold State.passed
  try dsimp only
  repeat' (first | with_reducible assumption | intro _ | with_reducible apply kept_ite | fail_if_no_progress with_reducible apply kept_mk)

theorem st_passTest_kept (s : State) (t : Spot) (h_s : Kept canon queue s) :
    Kept canon queue (State.passTest s t) := by
  unfold State.passTest
  try dsimp only
  repeat' (first | with_reducible assumption | intro _ | with_reducible apply kept_ite | with_reducible apply st_passed_kept)

theorem st_loseVote_kept (s : State) (p : ℕ) (h_s : Kept canon queue s) :
    Kept canon queue (State.loseVote s p) := by
  unfold State.loseVote
  try dsimp only
  repeat' (first | with_reducible assumption | intro _ | with_reducible apply kept_ite | with_reducible apply st_retireSite_kept | with_reducible apply st_countFault_kept)

theorem st_vote_kept (s : State) (t : Spot) (third : ℕ) (d1 : BitVec 128) (d2 : BitVec 128) (d3 : BitVec 128) (h_s : Kept canon queue s) :
    Kept canon queue (State.vote s t third d1 d2 d3) := by
  unfold State.vote
  try dsimp only
  repeat' (first | with_reducible assumption | intro _ | with_reducible apply kept_ite | with_reducible apply st_loseVote_kept | with_reducible apply st_passTest_kept | with_reducible apply st_endTest_kept | with_reducible apply st_noLoser_kept | with_reducible apply st_spotRec_kept | split)

theorem st_testOver_kept (s : State) (t : Spot) (d1 : BitVec 128) (d2 : BitVec 128) (d3 : BitVec 128) (h_s : Kept canon queue s) :
    Kept canon queue (State.testOver s t d1 d2 d3) := by
  unfold State.testOver
  try dsimp only
  repeat' (first | with_reducible assumption | intro _ | with_reducible apply kept_ite | with_reducible apply st_vote_kept | with_reducible apply st_passTest_kept | with_reducible apply st_endTest_kept | with_reducible apply st_countTest_kept | with_reducible apply st_markTesting_kept | with_reducible apply st_noLoser_kept | fail_if_no_progress with_reducible apply kept_mk | split)

theorem execCommandCoreFail_kept (core : BitVec 3) (s : State) (h_s : Kept canon queue s) :
    KeptOut canon queue (execCommandCoreFail core s) := by
  unfold execCommandCoreFail
  try dsimp only
  repeat' (first | with_reducible assumption | intro _ | with_reducible apply kept_next | with_reducible apply keptOut_ite | with_reducible apply kept_ite | with_reducible apply st_repairNote_kept | with_reducible apply st_baroWrite_kept | with_reducible apply st_emit_kept | fail_if_no_progress with_reducible apply kept_mk)

theorem execSpotTestDue_kept (site : BitVec 9) (s : State) (h_s : Kept canon queue s) :
    KeptOut canon queue (execSpotTestDue site s) := by
  unfold execSpotTestDue
  try dsimp only
  repeat' (first | with_reducible assumption | intro _ | with_reducible apply kept_next | with_reducible apply keptOut_ite | with_reducible apply kept_ite | with_reducible apply st_tryTest_kept)

theorem execSpotTestComplete_kept (site : BitVec 9) (d1 : BitVec 128) (d2 : BitVec 128) (d3 : BitVec 128) (s : State) (h_s : Kept canon queue s) :
    KeptOut canon queue (execSpotTestComplete site d1 d2 d3 s) := by
  unfold execSpotTestComplete
  try dsimp only
  repeat' (first | with_reducible assumption | intro _ | with_reducible apply kept_next | with_reducible apply keptOut_ite | with_reducible apply kept_ite | with_reducible apply st_testOver_kept | with_reducible apply st_startTwinTests_kept | split)

theorem execSpotTestRetry_kept (site : BitVec 9) (s : State) (h_s : Kept canon queue s) :
    KeptOut canon queue (execSpotTestRetry site s) := by
  unfold execSpotTestRetry
  try dsimp only
  repeat' (first | with_reducible assumption | intro _ | with_reducible apply kept_next | with_reducible apply keptOut_ite | with_reducible apply kept_ite | with_reducible apply st_tryTest_kept)

end Sys2Proof.Laws
end

