-- ==== Sys2Proof/Laws/Table.lean ====
section
/-! SUPPORT. Sparse tables: what a table reads after a write (Word.lean). The laws that need it take the canonical form. -/

namespace Sys2Proof.Table

variable {α : Type}

/-- The numbers of a table rise strictly from `lo` on. -/
def rising (lo : Nat) : Table α → Prop
  | [] => True
  | p :: r => lo ≤ p.1 ∧ rising (p.1 + 1) r

theorem get_put_same (t : Table α) (k : Nat) (v d : α) : (t.put k v).get k d = v := by
  induction t with
  | nil => simp [put, get]
  | cons p r ih =>
    obtain ⟨i, w⟩ := p
    unfold put
    split
    · simp [get]
    · split
      · simp [get]
      · rename_i h1 h2
        simp only [get, if_neg h1, if_neg h2, ih]

theorem get_put_other (t : Table α) {k n : Nat} (v d : α) (h : k ≠ n) : (t.put k v).get n d = t.get n d := by
  induction t with
  | nil => simp [put, get, h]
  | cons p r ih =>
    obtain ⟨i, w⟩ := p
    unfold put
    split
    · rename_i e
      subst e
      simp [get, h]
    · split
      · rename_i h1 h2
        unfold get
        by_cases h3 : n < k
        · have h4 : ¬ i = n := by omega
          have h5 : n < i := by omega
          simp [h, h3, h4, h5]
        · simp only [if_neg h, if_neg h3]
          rfl
      · simp only [get, ih]

theorem find_put_same (t : Table α) (k : Nat) (v : α) : (t.put k v).find? k = some v := by
  induction t with
  | nil => simp [put, find?]
  | cons p r ih =>
    obtain ⟨i, w⟩ := p
    unfold put
    split
    · simp [find?]
    · split
      · simp [find?]
      · rename_i h1 h2
        simp only [find?, if_neg h1, if_neg h2, ih]

theorem find_put_other (t : Table α) {k n : Nat} (v : α) (h : k ≠ n) : (t.put k v).find? n = t.find? n := by
  induction t with
  | nil => simp [put, find?, h]
  | cons p r ih =>
    obtain ⟨i, w⟩ := p
    unfold put
    split
    · rename_i e
      subst e
      simp [find?, h]
    · split
      · rename_i h1 h2
        unfold find?
        by_cases h3 : n < k
        · have h4 : ¬ i = n := by omega
          have h5 : n < i := by omega
          simp [h, h3, h4, h5]
        · simp only [if_neg h, if_neg h3]
          rfl
      · simp only [find?, ih]

theorem get_below (d : α) : ∀ {t : Table α} {lo n : Nat}, rising lo t → n < lo → t.get n d = d
  | [], _, _, _, _ => rfl
  | (i, v) :: r, lo, n, h, hn => by
    have h1 : lo ≤ i := h.1
    unfold get
    rw [if_neg (by omega), if_pos (by omega)]

theorem get_drop_same (d : α) (k : Nat) : ∀ {t : Table α} {lo : Nat}, rising lo t → (t.drop k).get k d = d
  | [], _, _ => rfl
  | (i, v) :: r, lo, h => by
    unfold drop
    split
    · rename_i e
      subst e
      exact get_below d h.2 (Nat.lt_succ_self _)
    · split
      · rename_i h1 h2
        unfold get
        rw [if_neg h1, if_pos h2]
      · rename_i h1 h2
        unfold get
        rw [if_neg h1, if_neg h2]
        exact get_drop_same d k h.2

theorem get_drop_other (d : α) {k n : Nat} (hk : k ≠ n) : ∀ {t : Table α} {lo : Nat}, rising lo t →
    (t.drop k).get n d = t.get n d
  | [], _, _ => rfl
  | (i, v) :: r, lo, h => by
    unfold drop
    split
    · rename_i e
      subst e
      by_cases h1 : n < i
      · rw [get_below d h.2 (by omega)]
        unfold get
        rw [if_neg hk, if_pos h1]
      · conv => rhs; unfold get
        rw [if_neg hk, if_neg h1]
    · split
      · rfl
      · unfold get
        rw [get_drop_other d hk h.2]

variable [DecidableEq α]

/-- A table reads back what was written. -/
theorem get_set_same {t : Table α} (h : rising 0 t) (k : Nat) (v d : α) : (t.set k v d).get k d = v := by
  unfold set
  split
  · rename_i e
    rw [get_drop_same d k h, e]
  · exact get_put_same t k v d

/-- Every other number reads as before. -/
theorem get_set_other {t : Table α} (h : rising 0 t) {k n : Nat} (v d : α) (hk : k ≠ n) : (t.set k v d).get n d = t.get n d := by
  unfold set
  split
  · exact get_drop_other d hk h
  · exact get_put_other t v d hk

end Sys2Proof.Table
end

