-- ==== Sys2Proof/Laws/State.lean ====
section
/-! SUPPORT. What each update of the state leaves of each field, so that no proof unfolds an update. -/

namespace Sys2Proof.Machine

variable (s : State)

/-! ### State.setSpn -/

@[simp] theorem State.setSpn_pending (l : Nat) (x : Spindle) : (s.setSpn l x).pending = s.pending := rfl
@[simp] theorem State.setSpn_mem (l : Nat) (x : Spindle) : (s.setSpn l x).mem = s.mem := rfl
@[simp] theorem State.setSpn_spindles (l : Nat) (x : Spindle) : (s.setSpn l x).spindles = s.spindles.set l x {} := rfl
@[simp] theorem State.setSpn_frames (l : Nat) (x : Spindle) : (s.setSpn l x).frames = s.frames := rfl
@[simp] theorem State.setSpn_mill (l : Nat) (x : Spindle) : (s.setSpn l x).mill = s.mill := rfl
@[simp] theorem State.setSpn_host (l : Nat) (x : Spindle) : (s.setSpn l x).host = s.host := rfl
@[simp] theorem State.setSpn_fabric (l : Nat) (x : Spindle) : (s.setSpn l x).fabric = s.fabric := rfl
@[simp] theorem State.setSpn_time (l : Nat) (x : Spindle) : (s.setSpn l x).time = s.time := rfl
@[simp] theorem State.setSpn_sec (l : Nat) (x : Spindle) : (s.setSpn l x).sec = s.sec := rfl
@[simp] theorem State.setSpn_baro (l : Nat) (x : Spindle) : (s.setSpn l x).baro = s.baro := rfl
@[simp] theorem State.setSpn_power (l : Nat) (x : Spindle) : (s.setSpn l x).power = s.power := rfl
@[simp] theorem State.setSpn_ports (l : Nat) (x : Spindle) : (s.setSpn l x).ports = s.ports := rfl
@[simp] theorem State.setSpn_poison (l : Nat) (x : Spindle) : (s.setSpn l x).poison = s.poison := rfl
@[simp] theorem State.setSpn_rowErr (l : Nat) (x : Spindle) : (s.setSpn l x).rowErr = s.rowErr := rfl
@[simp] theorem State.setSpn_spares (l : Nat) (x : Spindle) : (s.setSpn l x).spares = s.spares := rfl
@[simp] theorem State.setSpn_retired (l : Nat) (x : Spindle) : (s.setSpn l x).retired = s.retired := rfl
@[simp] theorem State.setSpn_wear (l : Nat) (x : Spindle) : (s.setSpn l x).wear = s.wear := rfl
@[simp] theorem State.setSpn_weak (l : Nat) (x : Spindle) : (s.setSpn l x).weak = s.weak := rfl
@[simp] theorem State.setSpn_out (l : Nat) (x : Spindle) : (s.setSpn l x).out = s.out := rfl
@[simp] theorem State.setSpn_free (l : Nat) (x : Spindle) : (s.setSpn l x).free = s.free := rfl

/-! ### State.setCtx -/

@[simp] theorem State.setCtx_pending (l c : Nat) (x : Ctx) : (s.setCtx l c x).pending = s.pending := rfl
@[simp] theorem State.setCtx_mem (l c : Nat) (x : Ctx) : (s.setCtx l c x).mem = s.mem := rfl
@[simp] theorem State.setCtx_frames (l c : Nat) (x : Ctx) : (s.setCtx l c x).frames = s.frames := rfl
@[simp] theorem State.setCtx_mill (l c : Nat) (x : Ctx) : (s.setCtx l c x).mill = s.mill := rfl
@[simp] theorem State.setCtx_host (l c : Nat) (x : Ctx) : (s.setCtx l c x).host = s.host := rfl
@[simp] theorem State.setCtx_fabric (l c : Nat) (x : Ctx) : (s.setCtx l c x).fabric = s.fabric := rfl
@[simp] theorem State.setCtx_time (l c : Nat) (x : Ctx) : (s.setCtx l c x).time = s.time := rfl
@[simp] theorem State.setCtx_sec (l c : Nat) (x : Ctx) : (s.setCtx l c x).sec = s.sec := rfl
@[simp] theorem State.setCtx_baro (l c : Nat) (x : Ctx) : (s.setCtx l c x).baro = s.baro := rfl
@[simp] theorem State.setCtx_power (l c : Nat) (x : Ctx) : (s.setCtx l c x).power = s.power := rfl
@[simp] theorem State.setCtx_ports (l c : Nat) (x : Ctx) : (s.setCtx l c x).ports = s.ports := rfl
@[simp] theorem State.setCtx_poison (l c : Nat) (x : Ctx) : (s.setCtx l c x).poison = s.poison := rfl
@[simp] theorem State.setCtx_rowErr (l c : Nat) (x : Ctx) : (s.setCtx l c x).rowErr = s.rowErr := rfl
@[simp] theorem State.setCtx_spares (l c : Nat) (x : Ctx) : (s.setCtx l c x).spares = s.spares := rfl
@[simp] theorem State.setCtx_retired (l c : Nat) (x : Ctx) : (s.setCtx l c x).retired = s.retired := rfl
@[simp] theorem State.setCtx_wear (l c : Nat) (x : Ctx) : (s.setCtx l c x).wear = s.wear := rfl
@[simp] theorem State.setCtx_weak (l c : Nat) (x : Ctx) : (s.setCtx l c x).weak = s.weak := rfl
@[simp] theorem State.setCtx_out (l c : Nat) (x : Ctx) : (s.setCtx l c x).out = s.out := rfl
@[simp] theorem State.setCtx_free (l c : Nat) (x : Ctx) : (s.setCtx l c x).free = s.free := rfl

/-! ### State.setWho -/

@[simp] theorem State.setWho_pending (w : Who) (x : Ctx) : (s.setWho w x).pending = s.pending := rfl
@[simp] theorem State.setWho_mem (w : Who) (x : Ctx) : (s.setWho w x).mem = s.mem := rfl
@[simp] theorem State.setWho_frames (w : Who) (x : Ctx) : (s.setWho w x).frames = s.frames := rfl
@[simp] theorem State.setWho_mill (w : Who) (x : Ctx) : (s.setWho w x).mill = s.mill := rfl
@[simp] theorem State.setWho_host (w : Who) (x : Ctx) : (s.setWho w x).host = s.host := rfl
@[simp] theorem State.setWho_fabric (w : Who) (x : Ctx) : (s.setWho w x).fabric = s.fabric := rfl
@[simp] theorem State.setWho_time (w : Who) (x : Ctx) : (s.setWho w x).time = s.time := rfl
@[simp] theorem State.setWho_sec (w : Who) (x : Ctx) : (s.setWho w x).sec = s.sec := rfl
@[simp] theorem State.setWho_baro (w : Who) (x : Ctx) : (s.setWho w x).baro = s.baro := rfl
@[simp] theorem State.setWho_power (w : Who) (x : Ctx) : (s.setWho w x).power = s.power := rfl
@[simp] theorem State.setWho_ports (w : Who) (x : Ctx) : (s.setWho w x).ports = s.ports := rfl
@[simp] theorem State.setWho_poison (w : Who) (x : Ctx) : (s.setWho w x).poison = s.poison := rfl
@[simp] theorem State.setWho_rowErr (w : Who) (x : Ctx) : (s.setWho w x).rowErr = s.rowErr := rfl
@[simp] theorem State.setWho_spares (w : Who) (x : Ctx) : (s.setWho w x).spares = s.spares := rfl
@[simp] theorem State.setWho_retired (w : Who) (x : Ctx) : (s.setWho w x).retired = s.retired := rfl
@[simp] theorem State.setWho_wear (w : Who) (x : Ctx) : (s.setWho w x).wear = s.wear := rfl
@[simp] theorem State.setWho_weak (w : Who) (x : Ctx) : (s.setWho w x).weak = s.weak := rfl
@[simp] theorem State.setWho_out (w : Who) (x : Ctx) : (s.setWho w x).out = s.out := rfl
@[simp] theorem State.setWho_free (w : Who) (x : Ctx) : (s.setWho w x).free = s.free := rfl

/-! ### State.setFrame -/

@[simp] theorem State.setFrame_pending (f : Nat) (x : Frame) : (s.setFrame f x).pending = s.pending := rfl
@[simp] theorem State.setFrame_mem (f : Nat) (x : Frame) : (s.setFrame f x).mem = s.mem := rfl
@[simp] theorem State.setFrame_spindles (f : Nat) (x : Frame) : (s.setFrame f x).spindles = s.spindles := rfl
@[simp] theorem State.setFrame_frames (f : Nat) (x : Frame) : (s.setFrame f x).frames = s.frames.set f x {} := rfl
@[simp] theorem State.setFrame_mill (f : Nat) (x : Frame) : (s.setFrame f x).mill = s.mill := rfl
@[simp] theorem State.setFrame_host (f : Nat) (x : Frame) : (s.setFrame f x).host = s.host := rfl
@[simp] theorem State.setFrame_fabric (f : Nat) (x : Frame) : (s.setFrame f x).fabric = s.fabric := rfl
@[simp] theorem State.setFrame_time (f : Nat) (x : Frame) : (s.setFrame f x).time = s.time := rfl
@[simp] theorem State.setFrame_sec (f : Nat) (x : Frame) : (s.setFrame f x).sec = s.sec := rfl
@[simp] theorem State.setFrame_baro (f : Nat) (x : Frame) : (s.setFrame f x).baro = s.baro := rfl
@[simp] theorem State.setFrame_power (f : Nat) (x : Frame) : (s.setFrame f x).power = s.power := rfl
@[simp] theorem State.setFrame_ports (f : Nat) (x : Frame) : (s.setFrame f x).ports = s.ports := rfl
@[simp] theorem State.setFrame_poison (f : Nat) (x : Frame) : (s.setFrame f x).poison = s.poison := rfl
@[simp] theorem State.setFrame_rowErr (f : Nat) (x : Frame) : (s.setFrame f x).rowErr = s.rowErr := rfl
@[simp] theorem State.setFrame_spares (f : Nat) (x : Frame) : (s.setFrame f x).spares = s.spares := rfl
@[simp] theorem State.setFrame_retired (f : Nat) (x : Frame) : (s.setFrame f x).retired = s.retired := rfl
@[simp] theorem State.setFrame_wear (f : Nat) (x : Frame) : (s.setFrame f x).wear = s.wear := rfl
@[simp] theorem State.setFrame_weak (f : Nat) (x : Frame) : (s.setFrame f x).weak = s.weak := rfl
@[simp] theorem State.setFrame_out (f : Nat) (x : Frame) : (s.setFrame f x).out = s.out := rfl
@[simp] theorem State.setFrame_free (f : Nat) (x : Frame) : (s.setFrame f x).free = s.free := rfl

/-! ### State.setJob -/

@[simp] theorem State.setJob_pending (j : Nat) (b : Job) : (s.setJob j b).pending = s.pending := rfl
@[simp] theorem State.setJob_mem (j : Nat) (b : Job) : (s.setJob j b).mem = s.mem := rfl
@[simp] theorem State.setJob_spindles (j : Nat) (b : Job) : (s.setJob j b).spindles = s.spindles := rfl
@[simp] theorem State.setJob_frames (j : Nat) (b : Job) : (s.setJob j b).frames = s.frames := rfl
@[simp] theorem State.setJob_mill (j : Nat) (b : Job) : (s.setJob j b).mill = { s.mill with jobs := s.mill.jobs.put j b } := rfl
@[simp] theorem State.setJob_host (j : Nat) (b : Job) : (s.setJob j b).host = s.host := rfl
@[simp] theorem State.setJob_fabric (j : Nat) (b : Job) : (s.setJob j b).fabric = s.fabric := rfl
@[simp] theorem State.setJob_time (j : Nat) (b : Job) : (s.setJob j b).time = s.time := rfl
@[simp] theorem State.setJob_sec (j : Nat) (b : Job) : (s.setJob j b).sec = s.sec := rfl
@[simp] theorem State.setJob_baro (j : Nat) (b : Job) : (s.setJob j b).baro = s.baro := rfl
@[simp] theorem State.setJob_power (j : Nat) (b : Job) : (s.setJob j b).power = s.power := rfl
@[simp] theorem State.setJob_ports (j : Nat) (b : Job) : (s.setJob j b).ports = s.ports := rfl
@[simp] theorem State.setJob_poison (j : Nat) (b : Job) : (s.setJob j b).poison = s.poison := rfl
@[simp] theorem State.setJob_rowErr (j : Nat) (b : Job) : (s.setJob j b).rowErr = s.rowErr := rfl
@[simp] theorem State.setJob_spares (j : Nat) (b : Job) : (s.setJob j b).spares = s.spares := rfl
@[simp] theorem State.setJob_retired (j : Nat) (b : Job) : (s.setJob j b).retired = s.retired := rfl
@[simp] theorem State.setJob_wear (j : Nat) (b : Job) : (s.setJob j b).wear = s.wear := rfl
@[simp] theorem State.setJob_weak (j : Nat) (b : Job) : (s.setJob j b).weak = s.weak := rfl
@[simp] theorem State.setJob_out (j : Nat) (b : Job) : (s.setJob j b).out = s.out := rfl
@[simp] theorem State.setJob_free (j : Nat) (b : Job) : (s.setJob j b).free = s.free := rfl

/-! ### State.setSpmap -/

@[simp] theorem State.setSpmap_pending (n : Nat) (v : BitVec 32) : (s.setSpmap n v).pending = s.pending := rfl
@[simp] theorem State.setSpmap_mem (n : Nat) (v : BitVec 32) : (s.setSpmap n v).mem = s.mem := rfl
@[simp] theorem State.setSpmap_spindles (n : Nat) (v : BitVec 32) : (s.setSpmap n v).spindles = s.spindles := rfl
@[simp] theorem State.setSpmap_frames (n : Nat) (v : BitVec 32) : (s.setSpmap n v).frames = s.frames := rfl
@[simp] theorem State.setSpmap_host (n : Nat) (v : BitVec 32) : (s.setSpmap n v).host = s.host := rfl
@[simp] theorem State.setSpmap_fabric (n : Nat) (v : BitVec 32) : (s.setSpmap n v).fabric = s.fabric := rfl
@[simp] theorem State.setSpmap_time (n : Nat) (v : BitVec 32) : (s.setSpmap n v).time = s.time := rfl
@[simp] theorem State.setSpmap_sec (n : Nat) (v : BitVec 32) : (s.setSpmap n v).sec = s.sec := rfl
@[simp] theorem State.setSpmap_baro (n : Nat) (v : BitVec 32) : (s.setSpmap n v).baro = s.baro := rfl
@[simp] theorem State.setSpmap_power (n : Nat) (v : BitVec 32) : (s.setSpmap n v).power = s.power := rfl
@[simp] theorem State.setSpmap_ports (n : Nat) (v : BitVec 32) : (s.setSpmap n v).ports = s.ports := rfl
@[simp] theorem State.setSpmap_poison (n : Nat) (v : BitVec 32) : (s.setSpmap n v).poison = s.poison := rfl
@[simp] theorem State.setSpmap_rowErr (n : Nat) (v : BitVec 32) : (s.setSpmap n v).rowErr = s.rowErr := rfl
@[simp] theorem State.setSpmap_spares (n : Nat) (v : BitVec 32) : (s.setSpmap n v).spares = s.spares := rfl
@[simp] theorem State.setSpmap_retired (n : Nat) (v : BitVec 32) : (s.setSpmap n v).retired = s.retired := rfl
@[simp] theorem State.setSpmap_wear (n : Nat) (v : BitVec 32) : (s.setSpmap n v).wear = s.wear := rfl
@[simp] theorem State.setSpmap_weak (n : Nat) (v : BitVec 32) : (s.setSpmap n v).weak = s.weak := rfl
@[simp] theorem State.setSpmap_out (n : Nat) (v : BitVec 32) : (s.setSpmap n v).out = s.out := rfl
@[simp] theorem State.setSpmap_free (n : Nat) (v : BitVec 32) : (s.setSpmap n v).free = s.free := rfl

/-! ### State.setSite -/

@[simp] theorem State.setSite_pending (p : Nat) (v : BitVec 32) : (s.setSite p v).pending = s.pending := rfl
@[simp] theorem State.setSite_mem (p : Nat) (v : BitVec 32) : (s.setSite p v).mem = s.mem := rfl
@[simp] theorem State.setSite_spindles (p : Nat) (v : BitVec 32) : (s.setSite p v).spindles = s.spindles := rfl
@[simp] theorem State.setSite_frames (p : Nat) (v : BitVec 32) : (s.setSite p v).frames = s.frames := rfl
@[simp] theorem State.setSite_host (p : Nat) (v : BitVec 32) : (s.setSite p v).host = s.host := rfl
@[simp] theorem State.setSite_fabric (p : Nat) (v : BitVec 32) : (s.setSite p v).fabric = s.fabric := rfl
@[simp] theorem State.setSite_time (p : Nat) (v : BitVec 32) : (s.setSite p v).time = s.time := rfl
@[simp] theorem State.setSite_sec (p : Nat) (v : BitVec 32) : (s.setSite p v).sec = s.sec := rfl
@[simp] theorem State.setSite_baro (p : Nat) (v : BitVec 32) : (s.setSite p v).baro = s.baro := rfl
@[simp] theorem State.setSite_power (p : Nat) (v : BitVec 32) : (s.setSite p v).power = s.power := rfl
@[simp] theorem State.setSite_ports (p : Nat) (v : BitVec 32) : (s.setSite p v).ports = s.ports := rfl
@[simp] theorem State.setSite_poison (p : Nat) (v : BitVec 32) : (s.setSite p v).poison = s.poison := rfl
@[simp] theorem State.setSite_rowErr (p : Nat) (v : BitVec 32) : (s.setSite p v).rowErr = s.rowErr := rfl
@[simp] theorem State.setSite_spares (p : Nat) (v : BitVec 32) : (s.setSite p v).spares = s.spares := rfl
@[simp] theorem State.setSite_retired (p : Nat) (v : BitVec 32) : (s.setSite p v).retired = s.retired := rfl
@[simp] theorem State.setSite_wear (p : Nat) (v : BitVec 32) : (s.setSite p v).wear = s.wear := rfl
@[simp] theorem State.setSite_weak (p : Nat) (v : BitVec 32) : (s.setSite p v).weak = s.weak := rfl
@[simp] theorem State.setSite_out (p : Nat) (v : BitVec 32) : (s.setSite p v).out = s.out := rfl
@[simp] theorem State.setSite_free (p : Nat) (v : BitVec 32) : (s.setSite p v).free = s.free := rfl

/-! ### State.setFn -/

@[simp] theorem State.setFn_pending (f : Nat) (x : Fn) : (s.setFn f x).pending = s.pending := rfl
@[simp] theorem State.setFn_mem (f : Nat) (x : Fn) : (s.setFn f x).mem = s.mem := rfl
@[simp] theorem State.setFn_spindles (f : Nat) (x : Fn) : (s.setFn f x).spindles = s.spindles := rfl
@[simp] theorem State.setFn_frames (f : Nat) (x : Fn) : (s.setFn f x).frames = s.frames := rfl
@[simp] theorem State.setFn_mill (f : Nat) (x : Fn) : (s.setFn f x).mill = s.mill := rfl
@[simp] theorem State.setFn_fabric (f : Nat) (x : Fn) : (s.setFn f x).fabric = s.fabric := rfl
@[simp] theorem State.setFn_time (f : Nat) (x : Fn) : (s.setFn f x).time = s.time := rfl
@[simp] theorem State.setFn_sec (f : Nat) (x : Fn) : (s.setFn f x).sec = s.sec := rfl
@[simp] theorem State.setFn_baro (f : Nat) (x : Fn) : (s.setFn f x).baro = s.baro := rfl
@[simp] theorem State.setFn_power (f : Nat) (x : Fn) : (s.setFn f x).power = s.power := rfl
@[simp] theorem State.setFn_ports (f : Nat) (x : Fn) : (s.setFn f x).ports = s.ports := rfl
@[simp] theorem State.setFn_poison (f : Nat) (x : Fn) : (s.setFn f x).poison = s.poison := rfl
@[simp] theorem State.setFn_rowErr (f : Nat) (x : Fn) : (s.setFn f x).rowErr = s.rowErr := rfl
@[simp] theorem State.setFn_spares (f : Nat) (x : Fn) : (s.setFn f x).spares = s.spares := rfl
@[simp] theorem State.setFn_retired (f : Nat) (x : Fn) : (s.setFn f x).retired = s.retired := rfl
@[simp] theorem State.setFn_wear (f : Nat) (x : Fn) : (s.setFn f x).wear = s.wear := rfl
@[simp] theorem State.setFn_weak (f : Nat) (x : Fn) : (s.setFn f x).weak = s.weak := rfl
@[simp] theorem State.setFn_out (f : Nat) (x : Fn) : (s.setFn f x).out = s.out := rfl
@[simp] theorem State.setFn_free (f : Nat) (x : Fn) : (s.setFn f x).free = s.free := rfl

/-! ### State.setLink -/

@[simp] theorem State.setLink_pending (n : Nat) (x : Link) : (s.setLink n x).pending = s.pending := rfl
@[simp] theorem State.setLink_mem (n : Nat) (x : Link) : (s.setLink n x).mem = s.mem := rfl
@[simp] theorem State.setLink_spindles (n : Nat) (x : Link) : (s.setLink n x).spindles = s.spindles := rfl
@[simp] theorem State.setLink_frames (n : Nat) (x : Link) : (s.setLink n x).frames = s.frames := rfl
@[simp] theorem State.setLink_mill (n : Nat) (x : Link) : (s.setLink n x).mill = s.mill := rfl
@[simp] theorem State.setLink_host (n : Nat) (x : Link) : (s.setLink n x).host = s.host := rfl
@[simp] theorem State.setLink_time (n : Nat) (x : Link) : (s.setLink n x).time = s.time := rfl
@[simp] theorem State.setLink_sec (n : Nat) (x : Link) : (s.setLink n x).sec = s.sec := rfl
@[simp] theorem State.setLink_baro (n : Nat) (x : Link) : (s.setLink n x).baro = s.baro := rfl
@[simp] theorem State.setLink_power (n : Nat) (x : Link) : (s.setLink n x).power = s.power := rfl
@[simp] theorem State.setLink_ports (n : Nat) (x : Link) : (s.setLink n x).ports = s.ports := rfl
@[simp] theorem State.setLink_poison (n : Nat) (x : Link) : (s.setLink n x).poison = s.poison := rfl
@[simp] theorem State.setLink_rowErr (n : Nat) (x : Link) : (s.setLink n x).rowErr = s.rowErr := rfl
@[simp] theorem State.setLink_spares (n : Nat) (x : Link) : (s.setLink n x).spares = s.spares := rfl
@[simp] theorem State.setLink_retired (n : Nat) (x : Link) : (s.setLink n x).retired = s.retired := rfl
@[simp] theorem State.setLink_wear (n : Nat) (x : Link) : (s.setLink n x).wear = s.wear := rfl
@[simp] theorem State.setLink_weak (n : Nat) (x : Link) : (s.setLink n x).weak = s.weak := rfl
@[simp] theorem State.setLink_out (n : Nat) (x : Link) : (s.setLink n x).out = s.out := rfl
@[simp] theorem State.setLink_free (n : Nat) (x : Link) : (s.setLink n x).free = s.free := rfl

/-! ### State.setPort -/

@[simp] theorem State.setPort_pending (p : Nat) (x : Port) : (s.setPort p x).pending = s.pending := rfl
@[simp] theorem State.setPort_mem (p : Nat) (x : Port) : (s.setPort p x).mem = s.mem := rfl
@[simp] theorem State.setPort_spindles (p : Nat) (x : Port) : (s.setPort p x).spindles = s.spindles := rfl
@[simp] theorem State.setPort_frames (p : Nat) (x : Port) : (s.setPort p x).frames = s.frames := rfl
@[simp] theorem State.setPort_mill (p : Nat) (x : Port) : (s.setPort p x).mill = s.mill := rfl
@[simp] theorem State.setPort_host (p : Nat) (x : Port) : (s.setPort p x).host = s.host := rfl
@[simp] theorem State.setPort_fabric (p : Nat) (x : Port) : (s.setPort p x).fabric = s.fabric := rfl
@[simp] theorem State.setPort_time (p : Nat) (x : Port) : (s.setPort p x).time = s.time := rfl
@[simp] theorem State.setPort_sec (p : Nat) (x : Port) : (s.setPort p x).sec = s.sec := rfl
@[simp] theorem State.setPort_baro (p : Nat) (x : Port) : (s.setPort p x).baro = s.baro := rfl
@[simp] theorem State.setPort_power (p : Nat) (x : Port) : (s.setPort p x).power = s.power := rfl
@[simp] theorem State.setPort_poison (p : Nat) (x : Port) : (s.setPort p x).poison = s.poison := rfl
@[simp] theorem State.setPort_rowErr (p : Nat) (x : Port) : (s.setPort p x).rowErr = s.rowErr := rfl
@[simp] theorem State.setPort_spares (p : Nat) (x : Port) : (s.setPort p x).spares = s.spares := rfl
@[simp] theorem State.setPort_retired (p : Nat) (x : Port) : (s.setPort p x).retired = s.retired := rfl
@[simp] theorem State.setPort_wear (p : Nat) (x : Port) : (s.setPort p x).wear = s.wear := rfl
@[simp] theorem State.setPort_weak (p : Nat) (x : Port) : (s.setPort p x).weak = s.weak := rfl
@[simp] theorem State.setPort_out (p : Nat) (x : Port) : (s.setPort p x).out = s.out := rfl
@[simp] theorem State.setPort_free (p : Nat) (x : Port) : (s.setPort p x).free = s.free := rfl

/-! ### State.emit -/

@[simp] theorem State.emit_pending (o : Out) : (s.emit o).pending = s.pending := rfl
@[simp] theorem State.emit_mem (o : Out) : (s.emit o).mem = s.mem := rfl
@[simp] theorem State.emit_spindles (o : Out) : (s.emit o).spindles = s.spindles := rfl
@[simp] theorem State.emit_frames (o : Out) : (s.emit o).frames = s.frames := rfl
@[simp] theorem State.emit_mill (o : Out) : (s.emit o).mill = s.mill := rfl
@[simp] theorem State.emit_host (o : Out) : (s.emit o).host = s.host := rfl
@[simp] theorem State.emit_fabric (o : Out) : (s.emit o).fabric = s.fabric := rfl
@[simp] theorem State.emit_time (o : Out) : (s.emit o).time = s.time := rfl
@[simp] theorem State.emit_sec (o : Out) : (s.emit o).sec = s.sec := rfl
@[simp] theorem State.emit_baro (o : Out) : (s.emit o).baro = s.baro := rfl
@[simp] theorem State.emit_power (o : Out) : (s.emit o).power = s.power := rfl
@[simp] theorem State.emit_ports (o : Out) : (s.emit o).ports = s.ports := rfl
@[simp] theorem State.emit_poison (o : Out) : (s.emit o).poison = s.poison := rfl
@[simp] theorem State.emit_rowErr (o : Out) : (s.emit o).rowErr = s.rowErr := rfl
@[simp] theorem State.emit_spares (o : Out) : (s.emit o).spares = s.spares := rfl
@[simp] theorem State.emit_retired (o : Out) : (s.emit o).retired = s.retired := rfl
@[simp] theorem State.emit_wear (o : Out) : (s.emit o).wear = s.wear := rfl
@[simp] theorem State.emit_weak (o : Out) : (s.emit o).weak = s.weak := rfl
@[simp] theorem State.emit_out (o : Out) : (s.emit o).out = s.out ++ [o] := rfl
@[simp] theorem State.emit_free (o : Out) : (s.emit o).free = s.free := rfl

/-! ### State.putAt -/

@[simp] theorem State.putAt_pending (k : Nat) (bs : List Byte) : (s.putAt k bs).pending = s.pending := rfl
@[simp] theorem State.putAt_mem (k : Nat) (bs : List Byte) : (s.putAt k bs).mem = Mem.setBytes s.mem k bs := rfl
@[simp] theorem State.putAt_spindles (k : Nat) (bs : List Byte) : (s.putAt k bs).spindles = s.spindles := rfl
@[simp] theorem State.putAt_frames (k : Nat) (bs : List Byte) : (s.putAt k bs).frames = s.frames := rfl
@[simp] theorem State.putAt_mill (k : Nat) (bs : List Byte) : (s.putAt k bs).mill = s.mill := rfl
@[simp] theorem State.putAt_host (k : Nat) (bs : List Byte) : (s.putAt k bs).host = s.host := rfl
@[simp] theorem State.putAt_fabric (k : Nat) (bs : List Byte) : (s.putAt k bs).fabric = s.fabric := rfl
@[simp] theorem State.putAt_time (k : Nat) (bs : List Byte) : (s.putAt k bs).time = s.time := rfl
@[simp] theorem State.putAt_sec (k : Nat) (bs : List Byte) : (s.putAt k bs).sec = s.sec := rfl
@[simp] theorem State.putAt_baro (k : Nat) (bs : List Byte) : (s.putAt k bs).baro = s.baro := rfl
@[simp] theorem State.putAt_power (k : Nat) (bs : List Byte) : (s.putAt k bs).power = s.power := rfl
@[simp] theorem State.putAt_ports (k : Nat) (bs : List Byte) : (s.putAt k bs).ports = s.ports := rfl
@[simp] theorem State.putAt_poison (k : Nat) (bs : List Byte) : (s.putAt k bs).poison = s.healedAt k bs.length := rfl
@[simp] theorem State.putAt_rowErr (k : Nat) (bs : List Byte) : (s.putAt k bs).rowErr = s.rowErr := rfl
@[simp] theorem State.putAt_spares (k : Nat) (bs : List Byte) : (s.putAt k bs).spares = s.spares := rfl
@[simp] theorem State.putAt_retired (k : Nat) (bs : List Byte) : (s.putAt k bs).retired = s.retired := rfl
@[simp] theorem State.putAt_wear (k : Nat) (bs : List Byte) : (s.putAt k bs).wear = s.wear := rfl
@[simp] theorem State.putAt_weak (k : Nat) (bs : List Byte) : (s.putAt k bs).weak = s.weak := rfl
@[simp] theorem State.putAt_out (k : Nat) (bs : List Byte) : (s.putAt k bs).out = s.out := rfl
@[simp] theorem State.putAt_free (k : Nat) (bs : List Byte) : (s.putAt k bs).free = s.free := rfl

/-! ### State.wearOne -/

@[simp] theorem State.wearOne_pending (w : Nat) : (s.wearOne w).pending = s.pending := rfl
@[simp] theorem State.wearOne_mem (w : Nat) : (s.wearOne w).mem = s.mem := rfl
@[simp] theorem State.wearOne_spindles (w : Nat) : (s.wearOne w).spindles = s.spindles := rfl
@[simp] theorem State.wearOne_frames (w : Nat) : (s.wearOne w).frames = s.frames := rfl
@[simp] theorem State.wearOne_mill (w : Nat) : (s.wearOne w).mill = s.mill := rfl
@[simp] theorem State.wearOne_host (w : Nat) : (s.wearOne w).host = s.host := rfl
@[simp] theorem State.wearOne_fabric (w : Nat) : (s.wearOne w).fabric = s.fabric := rfl
@[simp] theorem State.wearOne_time (w : Nat) : (s.wearOne w).time = s.time := rfl
@[simp] theorem State.wearOne_sec (w : Nat) : (s.wearOne w).sec = s.sec := rfl
@[simp] theorem State.wearOne_baro (w : Nat) : (s.wearOne w).baro = s.baro := rfl
@[simp] theorem State.wearOne_power (w : Nat) : (s.wearOne w).power = s.power := rfl
@[simp] theorem State.wearOne_ports (w : Nat) : (s.wearOne w).ports = s.ports := rfl
@[simp] theorem State.wearOne_poison (w : Nat) : (s.wearOne w).poison = s.poison := rfl
@[simp] theorem State.wearOne_rowErr (w : Nat) : (s.wearOne w).rowErr = s.rowErr := rfl
@[simp] theorem State.wearOne_spares (w : Nat) : (s.wearOne w).spares = s.spares := rfl
@[simp] theorem State.wearOne_retired (w : Nat) : (s.wearOne w).retired = s.retired := rfl
@[simp] theorem State.wearOne_wear (w : Nat) : (s.wearOne w).wear = s.wear.set w (s.wearOf w + 1) 0 := rfl
@[simp] theorem State.wearOne_weak (w : Nat) : (s.wearOne w).weak = s.weak := rfl
@[simp] theorem State.wearOne_out (w : Nat) : (s.wearOne w).out = s.out := rfl
@[simp] theorem State.wearOne_free (w : Nat) : (s.wearOne w).free = s.free := rfl

/-! ### State.closeTransport -/

@[simp] theorem State.closeTransport_pending (t : Transport) : (s.closeTransport t).pending = s.pending := rfl
@[simp] theorem State.closeTransport_mem (t : Transport) : (s.closeTransport t).mem = s.mem := rfl
@[simp] theorem State.closeTransport_spindles (t : Transport) : (s.closeTransport t).spindles = s.spindles := rfl
@[simp] theorem State.closeTransport_frames (t : Transport) : (s.closeTransport t).frames = s.frames := rfl
@[simp] theorem State.closeTransport_mill (t : Transport) : (s.closeTransport t).mill = s.mill := rfl
@[simp] theorem State.closeTransport_host (t : Transport) : (s.closeTransport t).host = s.host := rfl
@[simp] theorem State.closeTransport_fabric (t : Transport) : (s.closeTransport t).fabric = s.fabric := rfl
@[simp] theorem State.closeTransport_time (t : Transport) : (s.closeTransport t).time = s.time := rfl
@[simp] theorem State.closeTransport_baro (t : Transport) : (s.closeTransport t).baro = s.baro := rfl
@[simp] theorem State.closeTransport_power (t : Transport) : (s.closeTransport t).power = s.power := rfl
@[simp] theorem State.closeTransport_ports (t : Transport) : (s.closeTransport t).ports = s.ports := rfl
@[simp] theorem State.closeTransport_poison (t : Transport) : (s.closeTransport t).poison = s.poison := rfl
@[simp] theorem State.closeTransport_rowErr (t : Transport) : (s.closeTransport t).rowErr = s.rowErr := rfl
@[simp] theorem State.closeTransport_spares (t : Transport) : (s.closeTransport t).spares = s.spares := rfl
@[simp] theorem State.closeTransport_retired (t : Transport) : (s.closeTransport t).retired = s.retired := rfl
@[simp] theorem State.closeTransport_wear (t : Transport) : (s.closeTransport t).wear = s.wear := rfl
@[simp] theorem State.closeTransport_weak (t : Transport) : (s.closeTransport t).weak = s.weak := rfl
@[simp] theorem State.closeTransport_out (t : Transport) : (s.closeTransport t).out = s.out := rfl
@[simp] theorem State.closeTransport_free (t : Transport) : (s.closeTransport t).free = s.free := rfl

/-! ### State.setTap -/

@[simp] theorem State.setTap_pending (t : Tap) : (s.setTap t).pending = s.pending := rfl
@[simp] theorem State.setTap_mem (t : Tap) : (s.setTap t).mem = s.mem := rfl
@[simp] theorem State.setTap_spindles (t : Tap) : (s.setTap t).spindles = s.spindles := rfl
@[simp] theorem State.setTap_frames (t : Tap) : (s.setTap t).frames = s.frames := rfl
@[simp] theorem State.setTap_mill (t : Tap) : (s.setTap t).mill = s.mill := rfl
@[simp] theorem State.setTap_host (t : Tap) : (s.setTap t).host = s.host := rfl
@[simp] theorem State.setTap_fabric (t : Tap) : (s.setTap t).fabric = s.fabric := rfl
@[simp] theorem State.setTap_time (t : Tap) : (s.setTap t).time = s.time := rfl
@[simp] theorem State.setTap_sec (t : Tap) : (s.setTap t).sec = { s.sec with tap := t } := rfl
@[simp] theorem State.setTap_baro (t : Tap) : (s.setTap t).baro = s.baro := rfl
@[simp] theorem State.setTap_power (t : Tap) : (s.setTap t).power = s.power := rfl
@[simp] theorem State.setTap_ports (t : Tap) : (s.setTap t).ports = s.ports := rfl
@[simp] theorem State.setTap_poison (t : Tap) : (s.setTap t).poison = s.poison := rfl
@[simp] theorem State.setTap_rowErr (t : Tap) : (s.setTap t).rowErr = s.rowErr := rfl
@[simp] theorem State.setTap_spares (t : Tap) : (s.setTap t).spares = s.spares := rfl
@[simp] theorem State.setTap_retired (t : Tap) : (s.setTap t).retired = s.retired := rfl
@[simp] theorem State.setTap_wear (t : Tap) : (s.setTap t).wear = s.wear := rfl
@[simp] theorem State.setTap_weak (t : Tap) : (s.setTap t).weak = s.weak := rfl
@[simp] theorem State.setTap_out (t : Tap) : (s.setTap t).out = s.out := rfl
@[simp] theorem State.setTap_free (t : Tap) : (s.setTap t).free = s.free := rfl

/-! ### State.setSpdm -/

@[simp] theorem State.setSpdm_pending (t : Transport) (n : Nat) : (s.setSpdm t n).pending = s.pending := rfl
@[simp] theorem State.setSpdm_mem (t : Transport) (n : Nat) : (s.setSpdm t n).mem = s.mem := rfl
@[simp] theorem State.setSpdm_spindles (t : Transport) (n : Nat) : (s.setSpdm t n).spindles = s.spindles := rfl
@[simp] theorem State.setSpdm_frames (t : Transport) (n : Nat) : (s.setSpdm t n).frames = s.frames := rfl
@[simp] theorem State.setSpdm_mill (t : Transport) (n : Nat) : (s.setSpdm t n).mill = s.mill := rfl
@[simp] theorem State.setSpdm_host (t : Transport) (n : Nat) : (s.setSpdm t n).host = s.host := rfl
@[simp] theorem State.setSpdm_fabric (t : Transport) (n : Nat) : (s.setSpdm t n).fabric = s.fabric := rfl
@[simp] theorem State.setSpdm_time (t : Transport) (n : Nat) : (s.setSpdm t n).time = s.time := rfl
@[simp] theorem State.setSpdm_baro (t : Transport) (n : Nat) : (s.setSpdm t n).baro = s.baro := rfl
@[simp] theorem State.setSpdm_power (t : Transport) (n : Nat) : (s.setSpdm t n).power = s.power := rfl
@[simp] theorem State.setSpdm_ports (t : Transport) (n : Nat) : (s.setSpdm t n).ports = s.ports := rfl
@[simp] theorem State.setSpdm_poison (t : Transport) (n : Nat) : (s.setSpdm t n).poison = s.poison := rfl
@[simp] theorem State.setSpdm_rowErr (t : Transport) (n : Nat) : (s.setSpdm t n).rowErr = s.rowErr := rfl
@[simp] theorem State.setSpdm_spares (t : Transport) (n : Nat) : (s.setSpdm t n).spares = s.spares := rfl
@[simp] theorem State.setSpdm_retired (t : Transport) (n : Nat) : (s.setSpdm t n).retired = s.retired := rfl
@[simp] theorem State.setSpdm_wear (t : Transport) (n : Nat) : (s.setSpdm t n).wear = s.wear := rfl
@[simp] theorem State.setSpdm_weak (t : Transport) (n : Nat) : (s.setSpdm t n).weak = s.weak := rfl
@[simp] theorem State.setSpdm_out (t : Transport) (n : Nat) : (s.setSpdm t n).out = s.out := rfl
@[simp] theorem State.setSpdm_free (t : Transport) (n : Nat) : (s.setSpdm t n).free = s.free := rfl

/-! ### State.setSession -/

@[simp] theorem State.setSession_pending (x : Session) : (s.setSession x).pending = s.pending := rfl
@[simp] theorem State.setSession_mem (x : Session) : (s.setSession x).mem = s.mem := rfl
@[simp] theorem State.setSession_spindles (x : Session) : (s.setSession x).spindles = s.spindles := rfl
@[simp] theorem State.setSession_frames (x : Session) : (s.setSession x).frames = s.frames := rfl
@[simp] theorem State.setSession_mill (x : Session) : (s.setSession x).mill = s.mill := rfl
@[simp] theorem State.setSession_host (x : Session) : (s.setSession x).host = s.host := rfl
@[simp] theorem State.setSession_fabric (x : Session) : (s.setSession x).fabric = s.fabric := rfl
@[simp] theorem State.setSession_time (x : Session) : (s.setSession x).time = s.time := rfl
@[simp] theorem State.setSession_baro (x : Session) : (s.setSession x).baro = s.baro := rfl
@[simp] theorem State.setSession_power (x : Session) : (s.setSession x).power = s.power := rfl
@[simp] theorem State.setSession_ports (x : Session) : (s.setSession x).ports = s.ports := rfl
@[simp] theorem State.setSession_poison (x : Session) : (s.setSession x).poison = s.poison := rfl
@[simp] theorem State.setSession_rowErr (x : Session) : (s.setSession x).rowErr = s.rowErr := rfl
@[simp] theorem State.setSession_spares (x : Session) : (s.setSession x).spares = s.spares := rfl
@[simp] theorem State.setSession_retired (x : Session) : (s.setSession x).retired = s.retired := rfl
@[simp] theorem State.setSession_wear (x : Session) : (s.setSession x).wear = s.wear := rfl
@[simp] theorem State.setSession_weak (x : Session) : (s.setSession x).weak = s.weak := rfl
@[simp] theorem State.setSession_out (x : Session) : (s.setSession x).out = s.out := rfl
@[simp] theorem State.setSession_free (x : Session) : (s.setSession x).free = s.free := rfl

/-! ### State.reachPhase -/

@[simp] theorem State.reachPhase_pending (n : Nat) : (s.reachPhase n).pending = s.pending := rfl
@[simp] theorem State.reachPhase_mem (n : Nat) : (s.reachPhase n).mem = s.mem := rfl
@[simp] theorem State.reachPhase_spindles (n : Nat) : (s.reachPhase n).spindles = s.spindles := rfl
@[simp] theorem State.reachPhase_frames (n : Nat) : (s.reachPhase n).frames = s.frames := rfl
@[simp] theorem State.reachPhase_mill (n : Nat) : (s.reachPhase n).mill = s.mill := rfl
@[simp] theorem State.reachPhase_host (n : Nat) : (s.reachPhase n).host = s.host := rfl
@[simp] theorem State.reachPhase_fabric (n : Nat) : (s.reachPhase n).fabric = s.fabric := rfl
@[simp] theorem State.reachPhase_time (n : Nat) : (s.reachPhase n).time = s.time := rfl
@[simp] theorem State.reachPhase_sec (n : Nat) : (s.reachPhase n).sec = s.sec := rfl
@[simp] theorem State.reachPhase_baro (n : Nat) : (s.reachPhase n).baro = s.baro := rfl
@[simp] theorem State.reachPhase_power (n : Nat) : (s.reachPhase n).power = { s.power with reached := n } := rfl
@[simp] theorem State.reachPhase_ports (n : Nat) : (s.reachPhase n).ports = s.ports := rfl
@[simp] theorem State.reachPhase_poison (n : Nat) : (s.reachPhase n).poison = s.poison := rfl
@[simp] theorem State.reachPhase_rowErr (n : Nat) : (s.reachPhase n).rowErr = s.rowErr := rfl
@[simp] theorem State.reachPhase_spares (n : Nat) : (s.reachPhase n).spares = s.spares := rfl
@[simp] theorem State.reachPhase_retired (n : Nat) : (s.reachPhase n).retired = s.retired := rfl
@[simp] theorem State.reachPhase_wear (n : Nat) : (s.reachPhase n).wear = s.wear := rfl
@[simp] theorem State.reachPhase_weak (n : Nat) : (s.reachPhase n).weak = s.weak := rfl
@[simp] theorem State.reachPhase_out (n : Nat) : (s.reachPhase n).out = s.out := rfl
@[simp] theorem State.reachPhase_free (n : Nat) : (s.reachPhase n).free = s.free := rfl

/-! ### State.enterRecovery -/

@[simp] theorem State.enterRecovery_pending : (s.enterRecovery).pending = s.pending := rfl
@[simp] theorem State.enterRecovery_mem : (s.enterRecovery).mem = s.mem := rfl
@[simp] theorem State.enterRecovery_spindles : (s.enterRecovery).spindles = s.spindles := rfl
@[simp] theorem State.enterRecovery_frames : (s.enterRecovery).frames = s.frames := rfl
@[simp] theorem State.enterRecovery_mill : (s.enterRecovery).mill = s.mill := rfl
@[simp] theorem State.enterRecovery_host : (s.enterRecovery).host = s.host := rfl
@[simp] theorem State.enterRecovery_fabric : (s.enterRecovery).fabric = s.fabric := rfl
@[simp] theorem State.enterRecovery_time : (s.enterRecovery).time = s.time := rfl
@[simp] theorem State.enterRecovery_sec : (s.enterRecovery).sec = s.sec := rfl
@[simp] theorem State.enterRecovery_baro : (s.enterRecovery).baro = s.baro := rfl
@[simp] theorem State.enterRecovery_power : (s.enterRecovery).power = { s.power with phase := .recovery } := rfl
@[simp] theorem State.enterRecovery_ports : (s.enterRecovery).ports = s.ports := rfl
@[simp] theorem State.enterRecovery_poison : (s.enterRecovery).poison = s.poison := rfl
@[simp] theorem State.enterRecovery_rowErr : (s.enterRecovery).rowErr = s.rowErr := rfl
@[simp] theorem State.enterRecovery_spares : (s.enterRecovery).spares = s.spares := rfl
@[simp] theorem State.enterRecovery_retired : (s.enterRecovery).retired = s.retired := rfl
@[simp] theorem State.enterRecovery_wear : (s.enterRecovery).wear = s.wear := rfl
@[simp] theorem State.enterRecovery_weak : (s.enterRecovery).weak = s.weak := rfl
@[simp] theorem State.enterRecovery_out : (s.enterRecovery).out = s.out := rfl
@[simp] theorem State.enterRecovery_free : (s.enterRecovery).free = s.free := rfl

/-! ### State.extend -/

@[simp] theorem State.extend_pending (n : Nat) (d : List Byte) : (s.extend n d).pending = s.pending := rfl
@[simp] theorem State.extend_mem (n : Nat) (d : List Byte) : (s.extend n d).mem = s.mem := rfl
@[simp] theorem State.extend_spindles (n : Nat) (d : List Byte) : (s.extend n d).spindles = s.spindles := rfl
@[simp] theorem State.extend_frames (n : Nat) (d : List Byte) : (s.extend n d).frames = s.frames := rfl
@[simp] theorem State.extend_mill (n : Nat) (d : List Byte) : (s.extend n d).mill = s.mill := rfl
@[simp] theorem State.extend_host (n : Nat) (d : List Byte) : (s.extend n d).host = s.host := rfl
@[simp] theorem State.extend_fabric (n : Nat) (d : List Byte) : (s.extend n d).fabric = s.fabric := rfl
@[simp] theorem State.extend_time (n : Nat) (d : List Byte) : (s.extend n d).time = s.time := rfl
@[simp] theorem State.extend_baro (n : Nat) (d : List Byte) : (s.extend n d).baro = s.baro := rfl
@[simp] theorem State.extend_power (n : Nat) (d : List Byte) : (s.extend n d).power = s.power := rfl
@[simp] theorem State.extend_ports (n : Nat) (d : List Byte) : (s.extend n d).ports = s.ports := rfl
@[simp] theorem State.extend_poison (n : Nat) (d : List Byte) : (s.extend n d).poison = s.poison := rfl
@[simp] theorem State.extend_rowErr (n : Nat) (d : List Byte) : (s.extend n d).rowErr = s.rowErr := rfl
@[simp] theorem State.extend_spares (n : Nat) (d : List Byte) : (s.extend n d).spares = s.spares := rfl
@[simp] theorem State.extend_retired (n : Nat) (d : List Byte) : (s.extend n d).retired = s.retired := rfl
@[simp] theorem State.extend_wear (n : Nat) (d : List Byte) : (s.extend n d).wear = s.wear := rfl
@[simp] theorem State.extend_weak (n : Nat) (d : List Byte) : (s.extend n d).weak = s.weak := rfl
@[simp] theorem State.extend_out (n : Nat) (d : List Byte) : (s.extend n d).out = s.out := rfl
@[simp] theorem State.extend_free (n : Nat) (d : List Byte) : (s.extend n d).free = s.free := rfl

/-! ### Parts read back -/

@[simp] theorem State.job?_setJob_same (j : Nat) (b : Job) : (s.setJob j b).job? j = some b :=
  Table.find_put_same _ _ _

theorem State.job?_setJob_other {j k : Nat} (b : Job) (h : j ≠ k) : (s.setJob j b).job? k = s.job? k :=
  Table.find_put_other _ _ h

@[simp] theorem State.draw_fst : s.draw.1 = Config.entropy s.sec.draws := rfl
@[simp] theorem State.draw_mem : s.draw.2.mem = s.mem := rfl
@[simp] theorem State.draw_pending : s.draw.2.pending = s.pending := rfl
@[simp] theorem State.draw_mill : s.draw.2.mill = s.mill := rfl
@[simp] theorem State.draw_baro : s.draw.2.baro = s.baro := rfl
@[simp] theorem State.draw_power : s.draw.2.power = s.power := rfl

theorem State.on_eq (h : s.power.phase = .ready) : s.on = true := by
  unfold State.on
  rw [h]
  rfl

/-! ### Respond, by transport -/

@[simp] theorem State.respond_i3c (f : Src) (o : Out) : s.respond ⟨.i3c, f⟩ o = (s.emit o).emit (.ibi Config.ibiByte) := rfl
@[simp] theorem State.respond_ethernet (f : Src) (o : Out) :
    s.respond ⟨.ethernet, f⟩ o = (s.emit (.datagram f 6190 ((o.size + 1023) / 1024))).emit o := rfl
@[simp] theorem State.respond_doe (f : Src) (o : Out) : s.respond ⟨.doe, f⟩ o = s.emit o := rfl

end Sys2Proof.Machine
end

