-- ==== Sys2Proof/Tests/Slice0.lean ====
section
/-! SUPPORT. The author's tests: an ill-formed term for each check of WellFormed, words written out from the manual's layouts,
small one-command tests, and for each statement with hypotheses a state and operands that meet them. -/

namespace Sys2Proof.Tests

set_option Elab.async false

open Machine Claims

/-! ### Well-formedness: one ill-formed term for each check -/

/-- A FUNC that is another row's. -/
theorem test_wf_func : Instr.wf (.aluAdd ⟨0, 0⟩ ⟨1, 2, 3, 1 <<< 37⟩) = false := by decide
/-- A SHAPE that is another row's. -/
theorem test_wf_shape : Instr.wf (.mxF ⟨0, 0⟩ ⟨0, 0, 0, 0, 0x100⟩) = false := by decide
/-- An OP at [25:24] that is another row's. -/
theorem test_wf_op : Instr.wf (.shutTake ⟨0, 0⟩ ⟨0, 0, 0, 0, 0x01000000⟩) = false := by decide
/-- A link that is not there. -/
theorem test_wf_link : Instr.wf (.linkFail 48) = false := by decide
/-- A neighbour's link number that is not there. -/
theorem test_wf_neighbour : Instr.wf (.linkDiscovery 0 0 48) = false := by decide
/-- A site that is not there. -/
theorem test_wf_site : Instr.wf (.spotTestDue 288) = false := by decide
/-- Registers that are not there: sites, counters, functions, links, words of the save area, context registers. -/
theorem test_wf_regs :
    (Reg.millSite 288).wf = false ∧ (Reg.millRstat 3).wf = false ∧ (Reg.sknLstat 48).wf = false ∧
    (Reg.pwrSave 3584).wf = false ∧ (Reg.ctxReg ⟨0, 0⟩ 10).wf = false ∧ Instr.wf (.registerWrite (.sknLerr 48) 0 false) = false := by
  decide

/-! ### Words of the controller, field by field as the manual's tables lay them out -/

/-- A word from its fields, each a value and a width, the highest first. -/
def word (fs : List (Nat × Nat)) : Word := BitVec.ofNat 64 (fs.foldl (fun a f => a * 2 ^ f.2 + f.1) 0)

/-- MAJOR 6, DST 5, SRC1 5, SRC2 5, FUNC 6, 37 bits: SLL s31, s1, s2. -/
theorem test_word_sll : decodeWord ⟨0, 0⟩ (word [(1, 6), (31, 5), (1, 5), (2, 5), (5, 6), (0, 37)]) =
    some (.aluSll ⟨0, 0⟩ ⟨31, 1, 2, 5 <<< 37⟩) := by decide
/-- ADDI s1, s2, −1: 43 bits of immediate. -/
theorem test_word_addi : decodeWord ⟨0, 0⟩ (word [(2, 6), (1, 5), (2, 5), (0, 5), (2 ^ 43 - 1, 43)]) =
    some (.addi ⟨0, 0⟩ ⟨1, 2, 0, BitVec.ofNat 43 (2 ^ 43 - 1)⟩) := by decide
/-- ST and CMPP.LTU, of MAJOR 5 and of MAJOR 7 with FUNC 3. -/
theorem test_word_st : decodeWord ⟨0, 0⟩ (word [(5, 6), (0, 5), (15, 5), (3, 5), (8, 43)]) = some (.st ⟨0, 0⟩ ⟨0, 15, 3, 8⟩) ∧
    decodeWord ⟨0, 0⟩ (word [(7, 6), (7, 5), (1, 5), (2, 5), (3, 6), (0, 37)]) =
      some (.cmppLtu ⟨0, 0⟩ ⟨7, 1, 2, 3 <<< 37⟩) := by decide
/-- ACC.OPEN: MAJOR 6, DESC 8, TILE 6, KOUT 6, KWAIT 6, MOD 32. -/
theorem test_word_acc : decodeWord ⟨0, 0⟩ (word [(0x11, 6), (7, 8), (63, 6), (1, 6), (2, 6), (0x00280480, 32)]) =
    some (.accOpen ⟨0, 0⟩ ⟨7, 63, 1, 2, 0x00280480⟩) := by decide
/-- VE.TOPK with 0x16, QZ's VE.XPOSE with OP 3 at [25:24], and TW.UNIF with OP 2. -/
theorem test_word_engines :
    decodeWord ⟨0, 0⟩ (word [(0x16, 6), (1, 8), (0, 6), (2, 6), (0, 6), (0x00020800, 32)]) =
      some (.veTopk ⟨0, 0⟩ ⟨1, 0, 2, 0, 0x00020800⟩) ∧
    decodeWord ⟨0, 0⟩ (word [(0x18, 6), (1, 8), (0, 6), (2, 6), (0, 6), (0x03020000, 32)]) =
      some (.veXpose ⟨0, 0⟩ ⟨1, 0, 2, 0, 0x03020000⟩) ∧
    decodeWord ⟨0, 0⟩ (word [(0x1C, 6), (1, 8), (0, 6), (2, 6), (0, 6), (0x02004000, 32)]) =
      some (.twUnif ⟨0, 0⟩ ⟨1, 0, 2, 0, 0x02004000⟩) := by decide
/-- REEL.PSEND, SYNC.PRECV and SYS.WR. -/
theorem test_word_others :
    decodeWord ⟨0, 0⟩ (word [(0x1B, 6), (3, 8), (0, 6), (0, 6), (0, 6), (0x00014000, 32)]) =
      some (.reelPsend ⟨0, 0⟩ ⟨3, 0, 0, 0, 0x00014000⟩) ∧
    decodeWord ⟨0, 0⟩ (word [(0x1E, 6), (0, 8), (0, 6), (5, 6), (0, 6), (0x00014000, 32)]) =
      some (.syncPrecv ⟨0, 0⟩ ⟨0, 0, 5, 0, 0x00014000⟩) ∧
    decodeWord ⟨0, 0⟩ (word [(0x22, 6), (0, 5), (4, 5), (0, 5), (1, 6), (2, 37)]) =
      some (.sysWr ⟨0, 0⟩ ⟨0, 4, 0, BitVec.ofNat 43 (2 ^ 37 + 2)⟩) := by decide

/-! ### Small states -/

/-- A module that has just become ready, with nothing placed. -/
def ready : State := { power := { phase := .ready } }

/-- The context that issues in the tests. -/
def w0 : Who := ⟨0, 0⟩

/-- A job of client 0 on spindle 0 that commits in steps, resident, with one executable page at address 0. -/
def job1 : Job :=
  { jid := 1, client := 0, ref := 7, tag := 9, irq := false, vec := 0, crit := true, steps := true, qunits := 0, fjob := 5
    seed := 0, firstStep := 0, arith := 0x40, qz := 0x020C4180, eps := 60, bpart := 1, lspns := 1, args := 0, img0 := 0, img1 := 0
    space := 0, regions := [], pair := none, chans := [], cols := [], camp := none, flog := 0, st := .resident
    pages := [(0, 0xA200000000000000)] }

/-- A context of job 1 that runs at address 0, with one bobbin unit. -/
def ctx1 : Ctx := { status := .running, job := 1, codeSize := 0x1000, bpSize := 1, p := 0x02 }

/-- A ready module with a context on spindle 0 and a job. -/
def with1 (x : Ctx) (b : Job) : State :=
  { ready with spindles := [(0, { ctxs := [(0, x)] })], mill := { jobs := [(1, b)] } }

/-- A ready module whose context of job 1 runs. -/
def run : State := with1 ctx1 job1

/-- The running context issues. -/
theorem run_issues : Issues run w0 job1 := ⟨rfl, rfl, rfl, rfl, rfl, rfl, rfl, rfl, _, rfl, rfl⟩

/-! ### One command at a time -/

/-- ADD of s1 and s2 wraps and leaves s1; the program counter goes on. -/
theorem test_add_wraps : (match exec (.aluAdd w0 ⟨3, 1, 2, 0⟩) (with1 { ctx1 with s := [(1, -1), (2, 3)] } job1) with
    | .next t => ((t.who w0).sreg 3, (t.who w0).sreg 1, (t.who w0).pc)
    | _ => (0, 0, 0)) = (2, -1, 8) := by decide
/-- SLT is signed, SLTU is not. -/
theorem test_slt : (match exec (.aluSlt w0 ⟨3, 1, 2, 12 <<< 37⟩) (with1 { ctx1 with s := [(1, -1), (2, 3)] } job1) with
    | .next t => (t.who w0).sreg 3
    | _ => 0) = 1 ∧ (match exec (.aluSltu w0 ⟨3, 1, 2, 13 <<< 37⟩) (with1 { ctx1 with s := [(1, -1), (2, 3)] } job1) with
    | .next t => (t.who w0).sreg 3
    | _ => 1) = 0 := by decide
/-- BR under !p1, with p1 = 0, goes 4 instructions on. -/
theorem test_br : (match exec (.br w0 ⟨0, 9, 0, 4⟩) (with1 { ctx1 with p := 0 } job1) with
    | .next t => (t.who w0).pc
    | _ => 0) = 32 := by decide
/-- ST puts s2 little-endian behind the base of the partition, in spindle 0's bobbin at site 0. -/
theorem test_st : (match exec (.st w0 ⟨0, 0, 2, 16⟩) (with1 { ctx1 with s := [(2, 0x0102)] } job1) with
    | .next t => t.mem
    | _ => []) = [(keyOf 4 16, 2), (keyOf 4 17, 1)] := by decide
/-- An instruction with a reserved field that is not zero is ILLEGAL: SPN_CFAULT says so, with the program counter. -/
theorem test_illegal : (match exec (.addi w0 ⟨1, 0, 1, 0⟩) (with1 { ctx1 with pc := 8 } job1) with
    | .next t => (t.who w0).cfault
    | _ => 0) = BitVec.ofNat 64 (2 ^ 63 + 2 ^ 57 + 8) := by decide
/-- An engine instruction under a false predicate signals its knot with code 0 and queues nothing. -/
theorem test_skip : (match exec (.veAdd w0 ⟨1, 0, 5, 0, 0x60000000⟩) run with
    | .next t => ((t.spn 0).vectorQ, ((t.who w0).knot 5).pending, ((t.who w0).knot 5).arm)
    | _ => ([], true, 0)) = ([], false, 1) := by decide
/-- An engine instruction that executes is queued with its knot armed. -/
theorem test_issue : (match exec (.veAdd w0 ⟨1, 0, 5, 0, 0⟩) run with
    | .next t => ((t.spn 0).vectorQ.map (·.seq), ((t.who w0).knot 5).pending)
    | _ => ([], false)) = ([0], true) := by decide
/-- A write of MILL_RCFG keeps its own MAXREP where the new one is the reserved 0. -/
theorem test_rcfg : (match exec (.registerWrite .millRcfg 0x5000 false) ready with
    | .next t => t.wp 3
    | _ => 0) = 0x5300 := by decide
/-- The first phase of start-up from reset, and an abort of it. -/
theorem test_start : (match exec .startUp State.reset with
    | .next t => (t.power.phase, t.power.reached)
    | _ => (.off, 0)) = (.starting, 1) := by decide

/-! ### Witnesses: states and operands that meet the hypotheses of the statements, clause by clause -/

/-- A register-form word of zeros, and one whose fields are as large as the narrow registers allow. -/
def f0 : SForm := ⟨0, 0, 0, 0⟩
def f15 : SForm := ⟨15, 15, 0, 0⟩
def f7 : SForm := ⟨7, 7, 7, 0⟩

/-- EmptyQueueTicks: ready, starting, off, and off after a thermal shutdown, each with an empty queue. -/
theorem witness_ticks : ready.pending = [] ∧ ready.power.phase = .ready ∧ State.reset.pending = [] ∧
    ({ power := { phase := .starting } } : State).power.phase ≠ .off ∧
    State.reset.power.phase = .off ∧ ({ power := { phase := .thermalOff } } : State).power.phase = .thermalOff := by decide
/-- AluTwoOperandResults, at the largest register numbers. -/
theorem witness_alu : Issues run w0 job1 ∧ (⟨31, 31, 31, 15 <<< 37⟩ : SForm).imm.extractLsb' 0 37 = 0 :=
  ⟨run_issues, by decide⟩
/-- ScalarAddressAndPredicateResults: each row's reserved fields zero, address registers up to a15, predicates up to p7. -/
theorem witness_scalar : Issues run w0 job1 ∧ f15.src2 = 0 ∧ f15.imm.extractLsb' 0 37 = 0 ∧ f15.imm.extractLsb' 21 22 = 0 ∧
    f15.dst.toNat < 16 ∧ f15.src1.toNat < 16 ∧ f7.dst.toNat < 8 ∧ f7.src1.toNat < 8 ∧ f7.src2.toNat < 8 ∧
    f7.imm.extractLsb' 0 37 = 0 ∧ (⟨7, 7, 0, 8 <<< 37⟩ : SForm).src2 = 0 := ⟨run_issues, by decide⟩
/-- HardWiredRegisters: the lowest and the highest predicate that can be written, and two that differ. -/
theorem witness_hardwired : 0 < 1 ∧ 1 < 8 ∧ 7 < 8 ∧ 7 ≠ 1 := by decide
/-- LoadAndStoreBobbin: an offset at the end of the partition, one outside it, and a canonical memory. -/
theorem witness_bobbin : Issues run w0 job1 ∧ (⟨0, 15, 0, 65528⟩ : SForm).src1.toNat < 16 ∧ (⟨0, 15, 0, 65528⟩ : SForm).src2 = 0 ∧
    (⟨0, 15, 31, 65528⟩ : SForm).dst = 0 ∧ run.memKey w0 (run.who w0) ⟨0, 15, 0, 65528⟩ = some (keyOf 4 65528) ∧
    run.memKey w0 (run.who w0) ⟨0, 15, 0, 65536⟩ = none ∧ Mem.wf run.mem = true ∧ Mem.wf [(0, 1)] = true ∧ 255 < 256 ^ 1 :=
  ⟨run_issues, by decide⟩
/-- BranchAndLoopTargets: taken to the last instruction inside and to the first outside, untaken, and reserved fields; a loop
count that is zero and one that is not; counters that are 1 and that are not. -/
theorem witness_branch : Issues run w0 job1 ∧ (⟨0, 0, 0, 0x1FF⟩ : SForm).src2 = 0 ∧
    (let dest (f : SForm) : DevAddr := (run.who w0).pc + f.imm.signExtend 57 * 8
     (dest ⟨0, 0, 0, 0x1FF⟩ - (run.who w0).imgBase).toNat < (run.who w0).codeSize.toNat ∧
     ¬(dest ⟨0, 0, 0, 0x200⟩ - (run.who w0).imgBase).toNat < (run.who w0).codeSize.toNat) ∧
    (run.who w0).pred (0 % 8) ≠ Nat.testBit 0 3 ∧ (run.who w0).pred (8 % 8) = Nat.testBit 8 3 ∧
    (⟨0, 15, 0, 0⟩ : SForm).src1.toNat < 16 ∧ 16 ≤ (⟨0, 16, 0, 0⟩ : SForm).src1.toNat ∧ (⟨1, 0, 0, 0⟩ : SForm).dst ≠ 0 ∧
    (⟨3, 0, 0, 0⟩ : SForm).dst.toNat < 4 ∧ ((run.who w0).sreg 0).toNat % 2 ^ 32 = 0 ∧
    (({ ctx1 with s := [(1, 1)] } : Ctx).sreg 1).toNat % 2 ^ 32 ≠ 0 ∧ (run.who w0).lcReg 3 ≠ 1 ∧
    ({ ctx1 with lc := [(3, 1)] } : Ctx).lcReg 3 = 1 := ⟨run_issues, by decide⟩
/-- ControllerFaultRecords: codes 1 and 4, and a context without a fault yet. -/
theorem witness_fault : run.job? (run.who w0).job = some job1 ∧ job1.endWith = none ∧ 0 < 1 ∧ 4 < 5 ∧
    (run.who w0).cfault.toNat < 2 ^ 63 ∧ (run.who w0).status = .running := by decide
/-- TaskPushAndPopOwn: an empty deque, one that holds a word, and a full one. -/
theorem witness_task : Issues run w0 job1 ∧ f7.src2.toNat < 8 ∧ f0.dst = 0 ∧ f0.src1 = 0 ∧ ([] : List Word).length < 1024 ∧
    [(1 : Word)].getLast? = some 1 :=
  ⟨run_issues, by decide⟩
/-- TaskPushAndPopOwn: every deque empty. -/
theorem witness_no_task : run.popTask 0 job1 = none := by decide +kernel
/-- TaskPushAndPopOwn: a full deque. -/
theorem witness_full (v : Word) : 1024 ≤ (List.replicate 1024 v).length := by rw [List.length_replicate]
/-- KnotInstructionResults: k63 signalled and pending, an engine that is idle and one that is not, and a join that arms k1
for k63 pending. -/
theorem witness_knots : Issues run w0 job1 ∧ f0.src2 = 0 ∧ ((run.who w0).knot 63).pending = false ∧
    (({ ctx1 with knots := [(63, { pending := true })] } : Ctx).knot 63).pending = true ∧
    (({ ctx1 with s := [(1, 0x8000000000000000)] } : Ctx).sreg 1).getLsbD 63 = true ∧ (run.spn 0).busy 0 = false ∧
    ((⟨0, 0, 0, 1⟩ : SForm).imm.extractLsb' 0 6).toNat ≠ 0 ∧ ((run.who w0).knot 1).pending = false ∧
    (run.who w0).joins = [] := ⟨run_issues, by decide⟩
/-- A queued operation of context 0 of spindle 0. -/
def op1 : QOp :=
  { lspn := 0, ctx := 0, job := 1, op := .veAdd w0 ⟨1, 0, 5, 0, 0⟩, form := ⟨1, 0, 5, 0, 0⟩, seq := 0, descs := [], params := [], kout := 5, karm := 1
    wait := {}, arith := 0x40, qz := 0, upd := 0, step := 0, ord := 0 }
/-- An operation that holds the fence, and an open tile of a job that commits in steps. -/
theorem witness_boundary : Issues run w0 job1 ∧ f0.dst = 0 ∧ f0.src1 = 0 ∧ (run.spn 0).busy 0 = false ∧ (run.spn 0).busyAll 0 = false ∧
    ({ (run.spn 0) with vectorQ := [op1] } : Spindle).busy 0 = true ∧ job1.steps = true ∧ ({ job1 with steps := false } : Job).steps = false ∧
    (∀ p ∈ (run.who w0).tiles, p.2.st = .closed) ∧
    (∃ p ∈ ({ ctx1 with tiles := [(63, { st := .opened })] } : Ctx).tiles, p.2.st ≠ .closed) ∧
    (∀ c ∈ (run.setWho w0 { ctx1 with status := .ended }).ctxsOf 1, c.2.2.status = .ended) ∧
    (∃ c ∈ ({ run with spindles := [(0, { ctxs := [(0, { ctx1 with status := .ended }), (1, ctx1)] })] } : State).ctxsOf 1,
      c.2.2.status ≠ .ended) := ⟨run_issues, by decide⟩
/-- ContextRegisterAccess: the last register, EPS codes at the edge of the reserved ones, and a step that is new. -/
theorem witness_ctxreg : Issues run w0 job1 ∧ f0.src2 = 0 ∧ ((⟨0, 0, 0, 9⟩ : SForm).imm.extractLsb' 0 8).toNat < 10 ∧
    (⟨0, 0, 0, 9⟩ : SForm).imm.extractLsb' 8 29 = 0 ∧ 127 < (128 : Word).toNat % 256 ∧ (127 : Word).toNat % 256 ≤ 127 ∧
    (1 : Word) ≠ (run.who w0).step := ⟨run_issues, by decide⟩
/-- ControllerStallsAndFaults: each way of not running, a page that is not executable, and each reserved field. -/
theorem witness_stalls : State.reset.power.phase ≠ .ready ∧ ((with1 { ctx1 with status := .atStep } job1).who w0).status ≠ .running ∧
    ({ job1 with endWith := some 0 } : Job).endWith.isSome = true ∧ ({ job1 with fault := some (0x40, 0) } : Job).fault.isSome = true ∧
    ({ job1 with stopping := true } : Job).stopping = true ∧
    ({ run with mill := { run.mill with spots := [{ site := 0, twin := 8, start := 0 }] } } : State).testing 0 = true ∧
    (with1 ctx1 { job1 with pages := [] }).locate 0 0 0 = none ∧ (with1 ctx1 { job1 with pages := [] }).testing 0 = false := by decide
/-- ControllerStallsAndFaults, the reserved fields at the edges of their ranges. -/
theorem witness_reserved : Issues run w0 job1 ∧ (⟨0, 0, 0, 1⟩ : SForm).imm.extractLsb' 0 37 ≠ 0 ∧ (⟨0, 0, 1, 0⟩ : SForm).src2 ≠ 0 ∧
    16 ≤ (⟨0, 16, 0, 0⟩ : SForm).src1.toNat ∧ 8 ≤ (⟨8, 0, 0, 0⟩ : SForm).dst.toNat ∧ 4 ≤ (⟨4, 0, 0, 0⟩ : SForm).dst.toNat ∧
    9 < ((⟨0, 0, 0, 10⟩ : SForm).imm.extractLsb' 0 8).toNat ∧ (⟨0, 0, 0, 0, 0x02000000⟩ : EForm).mod.toNat % 2 ^ 26 ≠ 0 :=
  ⟨run_issues, by decide⟩
/-- ControllerInstructionsFrame: an instruction that goes on, and a job whose completion writes no counts. -/
theorem witness_frame : run.Inv ∧ encode (.sysNop w0 f0) ≠ none ∧ (∀ w f, Instr.sysNop w0 f0 ≠ .st w f) ∧
    (∃ t, exec (.sysNop w0 f0) run = .next t) ∧ (∀ p ∈ run.mill.jobs, p.2.client < 32 ∨ p.2.flog = 0) :=
  ⟨rfl, by decide, by simp, ⟨_, rfl⟩, by decide⟩
/-- EngineInstructionsIssue and EngineInstructionsWaitOrSkip: a vector operation under p1 with its knot signalled, pending,
under !p1, and with a full queue. -/
theorem witness_engine : Issues run w0 job1 ∧ Instr.wf (.veAdd w0 ⟨1, 0, 63, 0, 0x20000000⟩) = true ∧
    engineRow run (.veAdd w0 ⟨1, 0, 63, 0, 0x20000000⟩) = some (w0, ⟨1, 0, 63, 0, 0x20000000⟩, .vector, true) ∧
    (∀ r ∈ run.runs, r.writes = []) ∧ ((run.who w0).knot 63).pending = false ∧
    (run.who w0).executes ⟨1, 0, 63, 0, 0x20000000⟩ = true ∧
    (run.who w0).executes ⟨1, 0, 63, 0, 0x30000000⟩ = false ∧ (run.spn 0).room .vector 0 = true ∧
    ({ (run.spn 0) with vectorQ := List.replicate 64 op1 } : Spindle).room .vector 0 = false := ⟨run_issues, by decide⟩
/-- EngineInstructionsIssue: for each group of rows a word that is well formed, whose reserved fields are zero and whose codes are
the largest that are defined; each executes, with k63 signalled and room on its engine. -/
theorem witness_rows :
    (let f (m : BitVec 32) : EForm := ⟨255, 63, 63, 63, m⟩
     let free (m : BitVec 32) (e : Engine) : Prop :=
       (run.who w0).executes (f m) = true ∧ (run.spn 0).room e 0 = true ∧ ((run.who w0).knot (f m).kout.toNat).pending = false
     (Instr.wf (.mxF w0 (f 0x00FFF828)) = true ∧ (f 0x00FFF828).modf 24 2 = 0 ∧ (f 0x00FFF828).modf 4 2 ≠ 3 ∧
       (f 0x00FFF828).modf 2 2 ≠ 3 ∧ (f 0x00FFF828).modf 0 2 = 0 ∧ free 0x00FFF828 .array) ∧
     (Instr.wf (.accOpen w0 (f 0x02F80240)) = true ∧ (f 0x02F80240).modf 24 2 ≠ 3 ∧ (f 0x02F80240).modf 7 3 < 5 ∧
       (f 0x02F80240).modf 5 2 ≠ 3 ∧ (f 0x02F80240).modf 0 5 = 0) ∧
     (Instr.wf (.accDrain w0 (f 0)) = true ∧ (f 0).modf 0 26 = 0) ∧
     (Instr.wf (.veAdd w0 (f 0x00FFFF00)) = true ∧ (f 0x00FFFF00).modf 24 2 = 0 ∧ free 0x00FFFF00 .vector) ∧
     (Instr.wf (.veKltopk w0 (f 0x02FFFFFF)) = true ∧ (f 0x02FFFFFF).modf 24 1 = 0) ∧
     (Instr.wf (.veTopk w0 (f 0x00FFF800)) = true ∧ (f 0x00FFF800).modf 24 2 = 0 ∧ (f 0x00FFF800).modf 8 3 = 0) ∧
     (Instr.wf (.veQz w0 (f 0x00FF0000)) = true ∧ (f 0x00FF0000).modf 0 16 = 0) ∧
     (Instr.wf (.updApply w0 (f 0x01FFC000)) = true ∧ (f 0x01FFC000).modf 0 14 = 0) ∧
     (Instr.wf (.reelIn w0 (f 0)) = true ∧ (f 0).modf 0 26 = 0 ∧ free 0 .inReel ∧ free 0 .outReel) ∧
     (Instr.wf (.reelPsend w0 (f 0x00FFC000)) = true ∧ (f 0x00FFC000).modf 24 2 = 0 ∧ (f 0x00FFC000).modf 0 14 = 0) ∧
     (Instr.wf (.twBits w0 (f 0x00FBBE00)) = true ∧ (f 0x00FBBE00).modf 0 9 = 0 ∧ (f 0x00FBBE00).modf 14 5 ≠ 0 ∧
       (f 0x00FBBE00).modf 14 5 ≠ 31 ∧ free 0x00FBBE00 .twist) ∧
     (Instr.wf (.shutScan w0 (f 0x00FFF800)) = true ∧ (f 0x00FFF800).modf 0 11 = 0) ∧
     (Instr.wf (.shutTake w0 (f 0x020007FF)) = true ∧ (f 0x020007FF).modf 11 13 = 0)) := by decide

/-- A ready module with a job that has the operations of a vector queue. -/
def queued (b : Job) (ops : List QOp) : State :=
  { ready with spindles := [(0, { ctxs := [(0, ctx1)], vectorQ := ops })], mill := { jobs := [(1, b)] } }
/-- A fill job beside a critical one whose context 1 has an operation that could start. -/
def fillBehind : State :=
  { ready with
    spindles := [(0, { ctxs := [(0, ctx1), (1, { ctx1 with job := 2 })], vectorQ := [op1, { op1 with ctx := 1, job := 2 }] })]
    mill := { jobs := [(1, { job1 with crit := false }), (2, job1)] } }
/-- OperationStartRuns: an operation whose configuration fails, of a critical job, in its turn; one of a fill job behind critical
work; and a queue with nothing to start. -/
theorem witness_start : (queued job1 [op1]).pick 0 0 .vector false = some op1 ∧ (queued job1 [op1]).turnOf 0 .vector = some 0 ∧
    op1.shape = none ∧ op1.isOpen = false ∧ op1.isDrain = false ∧ fillBehind.pick 0 0 .vector false = some op1 ∧
    fillBehind.turnOf 0 .vector = some 1 ∧ fillBehind.startable 0 .vector 1 = true ∧ (1 : Nat) < 4 ∧
    fillBehind.critical (fillBehind.ctx 0 1).job = true ∧ run.pick 0 0 .vector false = none ∧
    (let v := ((queued job1 [op1]).passOver .vector op1).served 0 .vector 0
     let u := v.setSpn 0 ((v.spn 0).setQueue .vector (((v.spn 0).queue .vector).erase op1))
     u.runs = [] ∧ (u.spn 0).running = [] ∧ (u.spn 0).vectorQ = []) := by decide +kernel
theorem witness_start_run : let v := ((queued job1 [op1]).passOver .vector op1).served 0 .vector 0
    let u := v.setSpn 0 ((v.spn 0).setQueue .vector (((v.spn 0).queue .vector).erase op1))
    (runOp u op1).1 = u := rfl
/-- KnotSignalling: an engine without an operation and one with; a pending knot of this arming and one armed since; a join that
the signal makes ready and one that it does not. -/
def rop1 : ROp := { q := op1, code := 0, flags := {}, writes := [(0, 1)], atoms := [], stages := [], closes := none, addr := 0 }
def waits1 (js : List Join) : State :=
  { run with spindles := [(0, { ctxs := [(0, { ctx1 with knots := [(5, { pending := true, arm := 1 }), (63, { pending := true, arm := 2 })], joins := js })]
                                running := [(.vector, rop1)] })] }
def join1 (ws : List Wait) : Join := { kout := 63, arm := 2, waits := ws }
theorem witness_signal : run.power.phase = .ready ∧ (run.spn 0).running.find? (fun r => r.1 = .vector) = none ∧
    (∀ p ∈ run.mill.jobs, p.2.tail = none ∧ p.2.endWith = none) ∧
    ((waits1 []).spn 0).running.find? (fun r => r.1 = .vector) = some (.vector, rop1) ∧ rop1.code = 0 ∧ rop1.atoms = [] ∧
    (∀ p ∈ (waits1 []).mill.jobs, p.2.tail = none ∧ p.2.endWith = none) ∧ ((waits1 []).ctx 0 0).joins = [] ∧
    rop1.q.kout = 5 ∧ rop1.q.karm = 1 ∧ (((waits1 []).ctx 0 0).knot 5).pending = true ∧ (((waits1 []).ctx 0 0).knot 5).arm = 1 ∧
    (((waits1 []).ctx 0 0).knot 63).arm ≠ 1 ∧ (ctx1.knot 63).pending = false ∧
    ({ knot := 63, arm := 1, done := none } : Wait).arm ≠ 2 ∧
    ((waits1 [join1 [{ knot := 5, arm := 1, done := none }]]).ctx 0 0).joins = [join1 [{ knot := 5, arm := 1, done := none }]] ∧
    (join1 [({ knot := 5, arm := 1, done := none } : Wait).resolve 5 1 0 false]).ready = true ∧
    (join1 [({ knot := 6, arm := 1, done := none } : Wait).resolve 5 1 0 false]).ready = false ∧
    (∀ j ∈ [join1 []], j.kout ≠ 5 ∧ j.kout ≠ 0) := by decide +kernel
/-- KnotSignalling: tables without repeats. -/
theorem witness_knotted : Knotted (waits1 []) 0 0 ∧ Knotted (waits1 [join1 []]) 0 0 := by
  unfold Knotted Rising
  decide +kernel
/-- LimiterLevels: the three modes, work at its greatest and below a level, and a level set in this interval and before it. -/
theorem witness_limiter : run.ns / 125 ≤ (run.spn 0).levelAt ∧
    (let s : State := { run with time := { now := 125 * 2 ^ 32 } }
     (s.spn 0).levelAt < s.ns / 125) ∧ run.power.phase = .ready ∧ (16 : BitVec 5).toNat ≤ 16 ∧ ready.limMode 0 = 1 ∧
    (with1 { ctx1 with arithCtl := 0x80 } job1).limMode 0 = 2 ∧
    ({ with1 { ctx1 with arithCtl := 0 } job1 with frames := [(0, { pwrctl := 1 })] } : State).limMode 0 = 0 ∧
    (run.spn 0).level ≤ 16 ∧ 0 < ({ (run.spn 0) with level := 1 } : Spindle).level ∧
    ({ (run.spn 0) with falling := true, drizzle := true } : Spindle).falling = true := by decide +kernel

/-- A job whose one context waits at SYNC.STEP. -/
def atStep (b : Job) : State := with1 { ctx1 with status := .atStep } b
/-- StepCommitAdvances: a step that is complete and one that is not. -/
theorem witness_commit : (atStep job1).job? 1 = some job1 ∧ (atStep job1).mayCommit 1 job1 = true ∧ run.mayCommit 1 job1 = false ∧
    (∀ r ∈ job1.records, (atStep job1).inTrouble ((atStep job1).scaleCtl 1) r.1 = false) ∧ job1.camp = none ∧ job1.stopAt = false ∧
    (atStep job1).stagingFails 1 .none = false ∧ job1.staging = [] ∧ job1.records = [] ∧
    (∀ p ∈ (atStep job1).mill.jobs, p.2.endWith = none) := by decide +kernel
/-- JobBoundaryReleases: a job without steps whose contexts have reported, one that has not, and one with steps. -/
theorem witness_jobBoundary : let b := { job1 with steps := false }
    (atStep b).job? 1 = some b ∧ b.steps = false ∧ b.st = .resident ∧ b.endWith = none ∧ (atStep b).allReported 1 = true ∧
    (atStep b).someReported 1 = true ∧ (with1 ctx1 b).allReported 1 = false ∧ job1.steps = true ∧ b.stopAt = false ∧ b.staging = [] ∧ b.records = [] := by
  decide +kernel
/-- A snapshot of the context's first step. -/
def snap1 : Snap :=
  { s := [(1, 4)], a := [], p := 0, lc := [], pc := 0, file := [], arith := 0x40, qz := 0, upd := 60, aflags := 0, qflags := 0, uflags := 0 }
/-- StepReplayRestores: the last replay that is allowed, the first that is not, and a mill without command core 0. -/
theorem witness_replay : let b := { job1 with fault := some (0x40, 0), replays := 3 }
    let s := with1 { ctx1 with snap := some snap1 } b
    s.job? 1 = some b ∧ b.fault = some (0x40, 0) ∧ b.st = .resident ∧ b.endWith = none ∧ s.started 1 = false ∧
    (∀ t ∈ s.mill.spots, t.job ≠ some 1) ∧ (∀ t ∈ s.mill.twinTests, t.2.2 ≠ 1) ∧ s.weak = [] ∧ b.replays + 1 ≤ s.maxrep ∧ s.maxrep < 4 + 1 ∧ s.core0 = true ∧
    ({ s with mill := { s.mill with cores := 0xFE } } : State).core0 = false := by decide +kernel

/-! ### Jobs and the host -/

/-- Bytes of a job descriptor at 0x1000, its image at 0x2000 and its region table at 0x3000. -/
def jobBytes : List Host.Cell :=
  [(0x1000, 0x4A), (0x1018, 0x40), (0x101C, 0x80), (0x101D, 0x41), (0x101E, 0x0C), (0x101F, 0x02), (0x1020, 60), (0x1021, 1),
   (0x1028, 1), (0x1051, 0x20), (0x1061, 0x30), (0x2000, 0x71), (0x3008, 1), (0x300C, 1), (0x300E, 0xFF), (0x300F, 0xFF)]
/-- An entry that names an address. -/
def entryAt (a : Nat) : Line := BitVec.ofNat 512 (a * 2 ^ 128)
/-- SubmitQueuesOrRefuses: a descriptor that passes the checks, and one of zeros. -/
theorem witness_submit : ready.mill.accepting = true ∧ entryBad (withOp (entryAt 0x1000) 1) = false ∧
    (({ ready with mem := jobBytes } : State).readJob 0 0 0 false 0 0x1000).isOk = true ∧
    (ready.readJob 0 0 0 false 0 0x1000).isOk = false := by decide +kernel
/-- JobControlCommands: no job, a job with steps, one without, one with a paused campaign. -/
def camp1 : Camp :=
  { evalTeacher := true, endTrouble := false, steps := 9, tprog := 0, sprog := 0, inring := 0, insize := 16, inpoll := 200, evring := 0
    evsize := 16, every := 1, evbatch := 1, ckstep := 1, ckpt := 0, cksize := 8, report := 0, rpsize := 16, vec := 0xFF }
theorem witness_control : let e := BitVec.ofNat 512 (7 * 2 ^ 192)
    entryBad (withOp e 2) = false ∧ entryBad (withOp e 3) = false ∧ entryBad (withOp e 4) = false ∧
    run.jobRef 0 (lineBytes e 31 24) = some (1, job1) ∧ ready.jobRef 0 7 = none ∧ job1.steps = true ∧
    ({ job1 with steps := false } : Job).steps = false ∧ job1.camp = none ∧
    ({ camp1 with paused := true } : Camp).paused = true := by decide +kernel
/-- JobControlCommands: a bound coordinate and none bound; a client with one new entry, with none, disabled, and overrun. -/
def bound : State := { ready with mem := [(keyOf 6 (bindBase + 264), 5), (keyOf 6 (bindBase + 271), 0x80)] }
def ringing : State := { ready with host := { fns := [(31, { rcfg := 0x8000000000440000 })], vfs := 31 }, mem := [(0, 1), (64, 2)] }
theorem witness_remote : (List.range 256).find? (fun c => bound.binding c = some 5) = some 33 ∧
    (∀ c, c < 256 → ready.binding c ≠ some 5) := by decide +kernel
theorem witness_rings : (31 : BitVec 8).toNat < 32 ∧ ringing.fnThere 31 = true ∧ ready.fnThere 1 = false ∧ (ringing.fn 31).rcfg.msb = true ∧ (ready.fn 31).rcfg.msb = false ∧
    ringing.natAt (ringing.cmdKey 31 0) 8 = ringing.natAt (ringing.cmdKey 31 8) 8 + 1 ∧
    ringing.accepts (BitVec.ofNat 512 (ringing.natAt (ringing.cmdKey 31 64) 64)) = true ∧
    (let s : State := { ringing with mem := [(0, 17)] }
     s.natAt (s.cmdKey 31 8) 8 ≤ s.natAt (s.cmdKey 31 0) 8 ∧
     2 ^ (s.fn 31).live.rlog < s.natAt (s.cmdKey 31 0) 8 - s.natAt (s.cmdKey 31 8) 8) := by decide +kernel
/-- CompletionWrites: a held completion with a ring that has room and one that is full, with no message, one that goes out and one
whose vector is masked, of a function that is there and one that is not. -/
def compl1 : Compl := { client := 31, kind := 1, status := 0, tag := 9, ref := 7 }
theorem witness_completion : let s := { ringing with mem := [], mill := { held := [compl1] } }
    s.mill.held.find? (fun c => c.client = 31) = some compl1 ∧ (s.fn 31).rcfg.msb = true ∧ compl1.flog = 0 ∧
    s.natAt (s.cplKey 31 8) 8 ≤ s.natAt (s.cplKey 31 0) 8 ∧ s.natAt (s.cplKey 31 0) 8 < 2 ^ 64 ∧
    s.natAt (s.cplKey 31 0) 8 - s.natAt (s.cplKey 31 8) 8 < 2 ^ (s.fn 31).live.clog ∧
    2 ^ (s.fn 31).live.clog ≤ ({ s with mem := [(0, 16)] } : State).natAt (s.cplKey 31 0) 8 ∧ (ready.fn 31).rcfg.msb = false ∧
    s.fnThere 31 = true ∧ ready.fnThere 31 = false ∧ compl1.last = false ∧ compl1.irq = false ∧ (s.fn 31).masked 63 = false ∧
    ({ msix := [(63, 0x00000001000000000000000000000000)] } : Fn).masked 63 = true := by
  decide +kernel
/-- RingConfigurationAndFunctionResets: EN that rises, with log sizes on both sides of the reserved ones; tables in order. -/
theorem witness_rcfg : ringing.fnThere 31 = true ∧ ready.fnThere 1 = false ∧ ready.fnThere 0 = true ∧
    (ready.fn 31).rcfg.msb = false ∧ (ringing.fn 31).rcfg.msb = true ∧ (0x8000000000430000 : Word).msb = true ∧
    4 ≤ (0x8000000000430000 : Word).toNat / 2 ^ 20 % 16 ∧ (0x8000000000430000 : Word).toNat / 2 ^ 16 % 16 < 4 ∧
    Rising ringing.host.fns ∧ Rising run.mill.jobs ∧ (31 : BitVec 5) ≠ 0 :=
  ⟨by decide, by decide, by decide, by decide, by decide, by decide, by decide, by decide, by unfold Rising; decide, by unfold Rising; decide, by decide⟩
/-- JobPlacement: a waiting job at the head of its queue, one that is not, and one whose fixed creel slot is taken. -/
def waiting (rs : List Region) : Job := { job1 with st := .waiting, regions := rs, pages := [] }
def toPlace (rs : List Region) : State :=
  { ready with frames := [(0, { owner := [(0, 9)] })], mill := { jobs := [(1, waiting rs)], critQ := [1] } }
def slot0 : Region :=
  { vbase := 2 ^ 56 + 0x10000000, npages := 1, tier := 0, wr := true, ex := false, tch := false, fix := true, pref := 0, slot := 0, host := 0 }
theorem witness_place : (toPlace []).job? 1 = some (waiting []) ∧ (toPlace []).turn 1 (waiting []) = true ∧
    (toPlace []).fits 1 (waiting []) = true ∧ (waiting []).regions.any ((toPlace []).namesHeld (waiting [])) = false ∧
    (toPlace [slot0]).turn 1 (waiting [slot0]) = true ∧ (toPlace [slot0]).fits 1 (waiting [slot0]) = true ∧
    (waiting [slot0]).regions.any ((toPlace [slot0]).namesHeld (waiting [slot0])) = false ∧
    (((toPlace [slot0]).openShuttles (waiting [slot0])).placeAll [slot0] 0).isNone = true ∧
    ({ (toPlace []) with mill := { jobs := [(1, waiting [])], critQ := [2, 1] } } : State).turn 1 (waiting []) = false := by
  decide +kernel
theorem witness_placed : ∃ p, ((toPlace []).openShuttles (waiting [])).placeAll (waiting []).regions 0 = some p := ⟨_, rfl⟩
/-- JobSwitchingAndMigration: a fill job that a critical one displaces, a switched-out job whose turn it is, and one that has
waited 100 ms and one that has not. -/
def fill1 : Job := { job1 with crit := false }
def displaced : State :=
  { ready with
    spindles := [(0, { ctxs := [(0, { ctx1 with quota := 64 })] })]
    mill := { jobs := [(1, fill1), (2, { job1 with st := .waiting, qunits := 8 })], critQ := [2] } }
def switched : State := { ready with mill := { jobs := [(1, { fill1 with st := .out })], fillQ := [1] } }
theorem witness_switch : displaced.job? 1 = some fill1 ∧ displaced.victim = some 1 ∧ displaced.started 1 = false ∧
    displaced.updPending 1 = false ∧ displaced.shuttlesEmpty fill1 = true ∧ (∀ f ∈ fill1.flights, f.done = true) ∧
    run.victim ≠ some 1 ∧ switched.turn 1 { fill1 with st := .out } = true ∧ switched.fits 1 { fill1 with st := .out } = true ∧
    (let s := { switched with time := { now := 100000000 * 2 ^ 32 } }
     fill1.since + 100000000 ≤ s.ns) ∧ switched.ns < fill1.since + 100000000 ∧ fill1.crit = false := by decide +kernel
/-- JobSwitchingAndMigration: a job that is stopping, with an operation that runs and with none, and a save area without pages. -/
def stopping1 : State := { displaced with mill := { displaced.mill with jobs := [(1, { fill1 with stopping := true }), (2, { job1 with st := .waiting, qunits := 8 })] } }
theorem witness_stopping : stopping1.job? 1 = some { fill1 with stopping := true } ∧ stopping1.started 1 = false ∧
    ({ stopping1 with spindles := [(0, { ctxs := [(0, { ctx1 with quota := 64 })], running := [(.vector, rop1)] })] } : State).started 1 = true := by
  decide +kernel
/-- JobSwitchingAndMigration: a page of a host region's copy that asked for CXL and moves there. -/
def cxl1 : Region := { slot0 with vbase := 2 ^ 21, tier := 2, fix := false, pref := 0xFF, slot := 0xFF }
def outJob : Job := { fill1 with st := .out, regions := [cxl1], pages := [(1, 0xE000000000000003)] }
def toMigrate : State := { ready with mill := { jobs := [(1, outJob)] }, ports := [(0, { ids := [(1, 2 ^ 21)] })] }
theorem witness_migrate : toMigrate.job? 1 = some outJob ∧ outJob.st = .out ∧ 1 < 2 ^ 35 ∧ outJob.regionOf 1 = some (cxl1, 0) ∧
    (toMigrate.pageLoc (outJob.pages.get 1 0) 0).isSome = true ∧
    toMigrate.placePage toMigrate.used cxl1 ((outJob.lspnList.map toMigrate.hframe).min?.getD 0 / 8) 0 = some (2, 0) ∧ cxl1.fix = false ∧
    cxl1.tier ≤ 2 ∧ 2 < entTier (outJob.pages.get 1 0) ∧ (toMigrate.pageLoc (entryOf cxl1 2 0) 0).isSome = true := by decide +kernel

/-! ### Registers and campaigns -/

/-- RegisterWritesByAccess: a module that is not ready, a register of WPREG, and a value that arms unit 7. -/
theorem witness_regs : State.reset.power.phase ≠ .ready ∧ ready.power.phase = .ready ∧ (Reg.wpFields .millRcfg).isSome = true ∧
    (Reg.wpFields .timeCtl).isSome = true ∧ (6 : BitVec 3) ≠ 7 ∧ (0x80 : Word).getLsbD 7 = true := by decide
/-- WpWritesWearTheirWord: a word one write before its endurance, and one at it. -/
def worn (n : Nat) : State := { ready with wear := [(wpBase / 8 + 3, n)] }
theorem witness_wear : ∃ fs, Reg.wpFields .millRcfg = some (3, fs) ∧ (worn 999999999).core0 = true ∧ (worn 999999999).Inv ∧ wpBase / 8 + 3 ∉ (worn 999999999).weak ∧
    (worn 999999999).wearOf (wpBase / 8 + 3) < 10 ^ 9 ∧ 10 ^ 9 ≤ (worn 1000000000).wearOf (wpBase / 8 + 3) :=
  ⟨_, rfl, rfl, rfl, by decide, by decide, by decide⟩
/-- A job at a boundary of its campaign, whose rings lie in a page of CXL memory. -/
def inCamp (c : Camp) : State :=
  with1 { ctx1 with status := .atStep } { job1 with
    camp := some { c with boundary := true }
    pages := [(0, 0xA200000000000000), (1, 0xD000000000000001)] }
def camp2 : Camp := { camp1 with inring := 0x200000, report := 0x200400, ckpt := 0x201000, evring := 0x200800 }
def job2 (c : Camp) : Job :=
  { job1 with camp := some { c with boundary := true }, pages := [(0, 0xA200000000000000), (1, 0xD000000000000001)] }
/-- CampaignBoundaries: at a boundary with nothing due; PRODUCER at its highest and at 0. -/
theorem witness_intake : (inCamp camp2).camp? 1 = some (job2 camp2, { camp2 with boundary := true }) ∧ camp2.ckDue = false ∧
    camp2.evDue = false ∧ camp2.ending = none ∧ (job2 camp2).stopAt = false ∧ camp2.paused = false ∧ camp2.reports = [] ∧
    ((inCamp camp2).jobKey (job2 camp2) camp2.inring).isSome = true ∧
    (inCamp camp2).jobNat (job2 camp2) camp2.inring 8 = 0 := by decide +kernel
theorem witness_intake_less : (0 + 2 ^ 64 - camp2.consumed) % 2 ^ 64 < (job2 camp2).perStep :=
  (by decide : (0 + 2 ^ 64 - camp2.consumed) % 2 ^ 64 = 0) ▸ Nat.succ_pos _
theorem witness_intake_more : (job2 camp2).perStep ≤ (2 ^ 64 - 1 + 2 ^ 64 - camp2.consumed) % 2 ^ 64 := by
  have h := (Config.intakeEntries (job2 camp2).jid).isLt
  have e : (2 ^ 64 - 1 + 2 ^ 64 - camp2.consumed) % 2 ^ 64 = 2 ^ 64 - 1 := by decide
  rw [e]
  unfold Job.perStep
  omega
theorem witness_intake_full :
    let s := { inCamp camp2 with mem := (List.range 8).map fun i => (keyOf 2 0x200000 + i, 0xFF) }
    s.jobNat (job2 camp2) camp2.inring 8 = 2 ^ 64 - 1 := by decide +kernel
/-- CampaignBoundaries: each stage due, with its rings within reach. -/
theorem witness_stages : let s (c : Camp) := (inCamp c).camp? 1
    let c1 := { camp2 with ckDue := true }
    let c2 := { camp2 with evDue := true, evAvail := 1 }
    let c3 := { camp2 with reports := [[0, 1]] }
    let c4 := { camp2 with ending := some 0 }
    let c5 := { camp2 with finalCk := true }
    s c1 = some (job2 c1, { c1 with boundary := true }) ∧ (inCamp c1).slotReach (job2 c1) c1 ((job2 c1).lastStep / c1.ckstep % 2) = true ∧
    s c2 = some (job2 c2, { c2 with boundary := true }) ∧ ((inCamp c2).jobKey (job2 c2) c2.evring).isSome = true ∧
    c2.ckDue = false ∧ c5.finalCk = true ∧ c2.evbatch ≤ (c2.evAvail + 2 ^ 64 - c2.evDone) % 2 ^ 64 ∧
    s c3 = some (job2 c3, { c3 with boundary := true }) ∧ (inCamp c3).reportRoom (job2 c3) c3 = true ∧
    s c4 = some (job2 c4, { c4 with boundary := true }) ∧ (inCamp c4).reportRoom (job2 c4) c4 = true ∧
    s c5 = some (job2 c5, { c5 with boundary := true }) ∧ ([] : List EvalToken).length = (inCamp c2).evalTokens (job2 c2) c2 ∧
    [(⟨0, 0, 0⟩ : EvalToken)].length ≠ (inCamp c2).evalTokens (job2 c2) c2 := by decide +kernel

/-! ### The fabric -/

/-- A header from module 2 for FJOB 5, for frame or entry `xt`, with a TAG. -/
def hdr (xt : BitVec 8) (tag : Word) : PHdr :=
  { dst := 0, src := 2, ctl := 0, flow := 0, len := 0, fjob := 5, flags := 0, xt := xt, pseq := 0, tag := tag }
/-- A job that produces into frame 31 of module 2, and one whose frame 31 consumes. -/
def pairJob : Job := { job1 with pair := some { tmask := 0, smask := 0x80000000, k := 0, temp := 0
                                                ents := [{ peer := 2, sframe := 31, pspn := 0, dir := true }] } }
def consumer (prod freed : BitVec 16) : State :=
  { with1 ctx1 pairJob with frames := [(31, { shctl := 0xC0020000, prod := prod, freed := freed })] }
/-- ShuttleArrivalsAndCredits: a record in order, the furthest ahead, and one below PROD; a credit; a rewind; FREED that has
changed and that has not. -/
theorem witness_shuttles : (consumer 0 0).fjob? (hdr 31 0) = some (1, pairJob) ∧ (31 : Nat) < 32 ∧
    (consumer 0 0).remoteShuttle pairJob 31 = true ∧ (List.replicate 384 (0 : Byte)).length = 384 ∧
    ((consumer 0 0).frame 31).prod.toNat = (hdr 31 0).tag.toNat % 2 ^ 32 % 2 ^ 16 ∧
    (0x7FFF + 2 ^ 16 - ((consumer 0 0).frame 31).prod.toNat) % 2 ^ 16 < 2 ^ 15 ∧
    2 ^ 15 ≤ (0x8000 + 2 ^ 16 - ((consumer 0 0).frame 31).prod.toNat) % 2 ^ 16 ∧
    producing pairJob (hdr 31 0) = some 0 ∧
    (with1 ctx1 pairJob).fjob? (hdr 31 0) = some (1, pairJob) ∧ (with1 ctx1 pairJob).remoteShuttle pairJob 31 = false ∧
    pairJob.steps = true ∧ pairJob.fault = none ∧ (hdr 31 0).tag.toNat / 2 ^ 32 = pairJob.step % 2 ^ 32 ∧
    (hdr 31 0x100000000).tag.toNat / 2 ^ 32 ≠ pairJob.step % 2 ^ 32 := by decide +kernel
theorem witness_credits : (List.find? (fun p => (consumer 0 0).remoteShuttle p.2 31 && decide (p.2.st ≠ .waiting))
    (consumer 0 0).mill.jobs).isSome = true ∧ ((consumer 0 0).frame 31).freed = ((consumer 0 0).frame 31).reported ∧
    ((consumer 0 1).frame 31).freed ≠ ((consumer 0 1).frame 31).reported := by decide +kernel
/-- PipelineArrivalsAndUnknownJobs: a job that is not known, a message of the step, and one of another step. -/
def chan1 : Chan := { ring := 0, slotsz := 64, nslot := 1, nmb := 1, peer := 2, peerCh := 0, down := false }
def piped : Job := { job1 with chans := [chan1] }
theorem witness_pipe : ready.fjob? (hdr 0 0) = none ∧ (with1 ctx1 piped).fjob? (hdr 0 0) = some (1, piped) ∧
    (with1 ctx1 piped).job? 1 = some piped ∧ piped.chans[0]? = some chan1 ∧ (hdr 0 0).tag.toNat % 2 ^ 32 = piped.step % 2 ^ 32 ∧
    ((hdr 0 0).type = 0 ↔ ({ chan1 with down := true } : Chan).down = true) ∧ (0 : Nat) < chan1.nmb ∧ chan1.arrived = [] ∧
    ({ hdr 0 0 with flags := 1 } : PHdr).last = true ∧ chan1.parts = [] ∧ (hdr 0 1).tag.toNat % 2 ^ 32 ≠ piped.step % 2 ^ 32 := by
  decide +kernel
/-- A module with link 47 in a state of its own. -/
def link47 (l : Link) : State := { ready with fabric := { links := [(47, l)] } }
/-- FlitsCheckedAndReplayed: a link that is UP and one that is not, one that awaits a flit, flits with a right and a wrong CRC, FSEQ
in order and out of order, FTYPE of data and of link control. -/
def fill (fseq : BitVec 12) : List Byte :=
  let b := List.replicate 256 0 ++ leBytes 4 fseq.toNat
  b ++ leBytes 4 (crc32 b) ++ List.replicate 8 0
def flitNo (f : List Byte) : Nat := leNat ((f.drop 256).take 2)
theorem witness_flits : ((link47 { lstat := 0x40000000 }).link 47).up = true ∧ ((link47 {}).link 47).up = false ∧
    flitNo (List.replicate 257 0 ++ [0x20]) / 2 ^ 12 = 2 ∧ flitNo (fill 0) / 2 ^ 12 = 0 ∧ (fill 0xFFF).length = 272 ∧
    (({} : Link).awaiting = false) ∧ ((link47 { lstat := 0x40000000, awaiting := true }).link 47).awaiting = true ∧
    BitVec.ofNat 12 (flitNo (fill 0)) = ((link47 { lstat := 0x40000000 }).link 47).nextSeq ∧
    BitVec.ofNat 12 (flitNo (fill 0xFFF)) ≠ ((link47 { lstat := 0x40000000 }).link 47).nextSeq := by decide +kernel
/-- A collective entry of one element. -/
def col1 : ColEnt :=
  { op := 0, efmt := 7, post := false, dims := 0, dord := [0, 1, 2, 3], nelem := 1, src := 0, dst := 0, hdr := 0, k := 0, valkind := false }
/-- LinkStateChanges: each STATE, a lane that passes the threshold and one that does not, one failure below RETIRE and at it, a
neighbour that fits and one that does not. -/
theorem witness_links : (Link.up { lstat := 0x40000000 }) = true ∧ (Link.state { lstat := 0x40000000 }) = 2 ∧
    (Link.state { lstat := 0x60000000 }) = 3 ∧ (Link.state { lstat := 0x20000000 }) = 1 ∧ (Link.state {}) = 0 ∧
    (Link.state { lstat := 0xA0000000 }) = 5 ∧ ready.fabric.lcfg.toNat % 256 = 2 ∧
    (let s : State := { ready with fabric := { lcfg := 2, links := [(47, { lstat := 0x40000000, fixes := [(3, 0)] })] } }
     s.laneBad 47 3 = true ∧ s.laneBad 47 2 = false ∧ (s.link 47).state = 2) ∧
    (let s : State := { ready with fabric := { lcfg := 2, links := [(47, { lstat := 0x60000000, fixes := [(3, 0)] })] } }
     s.laneBad 47 3 = true ∧ (s.link 47).state = 3) ∧
    (link47 { lstat := 0xA0000000, fails := [0] }).recentFails 47 = 1 ∧
    (link47 { lstat := 0xA0000000, fails := [0, 0] }).recentFails 47 = 2 ∧
    (let s := { link47 { lstat := 0x20000000 } with fabric := { (link47 { lstat := 0x20000000 }).fabric with cinuse := 0x4000 } }
     s.wired 47 0x5000 41 = false) ∧
    ({ ready with fabric := { cinuse := 0x02000000 } } : State).wired 0 0x02000800 6 = true := by decide +kernel
theorem witness_lost : let s : State := { run with fabric := { cinuse := 0x0003C000 } }
    1 < sizeIn s.fabric.cinuse.toNat (7 / 2) ∧ s.upLinks 7 = [] ∧ s.fabric.lost.getLsbD 7 = false ∧
    (State.release { s with fabric := { s.fabric with lost := s.fabric.lost ||| (1#8 <<< 7) } }).mill.jobs = [(1, job1)] ∧ job1.fjob ≠ 0 ∧ job1.st = .resident ∧ job1.endWith = none ∧ job1.steps = true ∧ job1.fault = none ∧
    (s.fabric.lost ||| (1#8 <<< 7)).getLsbD (7 ^^^ 1) = false ∧
    ({ s with fabric := { s.fabric with links := [(47, { lstat := 0x40000000 })] } } : State).upLinks 7 ≠ [] ∧
    (let b : Job := { job1 with cols := [{ col1 with dims := 8 }] }
     s.cutOff b (7 / 2) (s.breakOf 7) 1 = true) ∧
    (∀ p ∈ ready.mill.jobs, p.2.fjob = 0) := by decide +kernel
/-- CollectiveFlights: an all-reduce and a scatter-add that may start, an entry the job does not have, and one that is done. -/
def reduces (b : Job) : State := with1 { ctx1 with status := .atStep } b
def colJob : Job := { job1 with cols := [col1, { col1 with op := 4 }] }
def flight1 : Flight := { entry := 0, step := 0, buf := [], phase := 4 }
theorem witness_flights : (reduces colJob).job? 1 = some colJob ∧ colJob.cols.length ≤ 63 ∧ colJob.cols[0]? = some col1 ∧
    colJob.cols[1]? = some { col1 with op := 4 } ∧ (∀ f ∈ colJob.flights, f.adding = false) ∧
    (reduces colJob).mayStart 1 colJob 0 col1 = true ∧ (with1 ctx1 colJob).mayStart 1 colJob 0 col1 = false ∧ col1.op ≠ 4 ∧
    (let b := { colJob with cols := [{ col1 with op := 4 }] }
     (reduces b).mayStart 1 b 0 { col1 with op := 4 } = true) ∧
    (let b := { colJob with flights := [flight1] }
     b.flights.find? (fun f => f.entry = 0 && !f.done) = some flight1 ∧ flight1.adding = false ∧
     (colPhases col1.op ((reduces b).colStages col1).length).length ≤ flight1.phase ∧ col1.hdr = 0 ∧
     (∀ x ∈ b.sent, bitsOf x.tag 32 6 = 0 → x.acked = true)) := by decide +kernel
/-- LinkStateChanges: phase 7 of start-up, a link on its spare lane, and a module with nothing that waits for a reroute. -/
theorem witness_phase7 : (let s : State := { power := { phase := .starting, reached := 7 } }
     s.power.phase = .starting ∧ s.power.reached = 7) ∧ (Link.lstat {}).toNat / 2 ^ 25 % 16 = 15 ∧
    (0x26000000 : BitVec 32).toNat / 2 ^ 25 % 16 ≠ 15 ∧ ready.fabric.stranded = [] := by decide +kernel
theorem witness_phase : let s := { reduces colJob with fabric := { cinuse := 0x02000000 } }
    ({ flight1 with phase := 0 } : Flight).phase < (colPhases col1.op (s.colStages { col1 with dims := 1 }).length).length := by
  decide +kernel
/-- ContributionsCheckedByDigest: an open contribution and an accepted one, digests that agree and do not, a contribution that
is named and one that is not, and a unit of a scatter-add. -/
theorem witness_contributions : (with1 ctx1 colJob).fjob? (hdr 0 0) = some (1, colJob) ∧ colJob.open_ (hdr 0 0) = true ∧
    ({ colJob with recv := [{ tag := 0, src := 2, accepted := true }] } : Job).open_ (hdr 0 0) = false ∧
    conDigest 0 2 [] ≠ 0 ∧ (colJob.con (hdr 0 0)).fails = 0 ∧ (with1 ctx1 colJob).named (hdr 0 0) = none ∧
    (let b : Job := { colJob with sent := [{ tag := 0, dir := 0, peer := 2, data := [] }] }
     (with1 ctx1 b).named (hdr 0 0x0140000000000000) = some (1, b, { tag := 0, dir := 0, peer := 2, data := [] })) ∧
    colJob.cols[(hdr 0 0x100000000).tag.toNat / 2 ^ 32 % 2 ^ 6]? = some { col1 with op := 4 } ∧
    colJob.wants ((hdr 0 0x100000000).tag.toNat % 2 ^ 38) = true ∧ (List.replicate 64 (0 : Byte)).length = 64 ∧
    (List.replicate 63 (0 : Byte)).length ≠ 64 := by decide +kernel
theorem witness_digest : ∃ dig, conDigest (colJob.con (hdr 0 0)).tag 2 [] = dig := ⟨_, rfl⟩
/-- FabricTimeFollowsParent: a parent, another link, no parent, and modes that do not take fabric time. -/
def timed : State := { link47 { lstat := 0x40000000 } with
  fabric := { links := [(0, { lstat := 0x40000000, sync := some (254, 0) }), (47, { lstat := 0x40000000 })], tsrc := 0x90000000 } }
theorem witness_fabric : (timed.link 47).up = true ∧ (ready.link 47).up = false ∧ timed.takesFabric = true ∧
    ({ timed with fabric := { timed.fabric with tsrc := 0xC0000000 } } : State).takesFabric = false ∧
    timed.parent = some (0, 254) ∧
    (let u := timed.setLink 47 { lstat := 0x40000000, sync := some (3, 0) }
     u.parent = some (47, 3)) ∧
    (timed.link 0).sync = some (254, 0) ∧ (timed.link 47).sync = none ∧ timed.timeState = 1 ∧
    ({ timed with fabric := { timed.fabric with links := [] } } : State).parent = none ∧ ready.timeState ≠ 1 := by decide +kernel

/-! ### Memory and reliability -/

/-- MemoryRequestsServed: the last unit of a stack and the first beyond it; the largest operands of a maximum; places that
are aligned and not, and one outside the memories. -/
theorem witness_memory : (0x2CB3FFFF : BitVec 30).toNat < 22888 * 32768 ∧ 22888 * 32768 ≤ (0x2CB40000 : BitVec 30).toNat ∧
    Mem.wf ready.mem = true ∧ ready.atomicPlace (keyOf 1 4) 4 = true ∧ ready.atomicPlace (keyOf 3 8) 8 = true ∧
    ready.atomicPlace (keyOf 4 1) 1 = true ∧ Mem.nat ready.mem (keyOf 1 4) 4 ≤ 0x7F800000 ∧
    (0x7F800000 : BitVec 32).toNat ≤ 0x7F800000 ∧ keyOf 1 2 % 4 ≠ 0 ∧ keyOf 1 4 % 8 ≠ 0 ∧ spaceOf 8 = 0 := by decide +kernel
/-- ScrubbingAndCxlPorts: the second and the third error of a row, spare rows left, and a port that is lost, at its limits of
10 s and 600 s. -/
def lostPort (ns : Nat) : State := { ready with
  ports := [(1, { lost := true, ids := [(7, 2 ^ 21)] })], time := { now := ns * 2 ^ 32 } }
theorem witness_scrub : ready.core0 = true ∧ ready.weak = [] ∧ spaceOf (keyOf 2 64) = 2 ∧ spaceOf (keyOf 1 64) = 1 ∧ spaceOf (keyOf 3 0) = 3 ∧ spaceOf (keyOf 4 0) = 4 ∧
    ready.spares.get (sparesOf (keyOf 3 0)).1 0 < (sparesOf (keyOf 3 0)).2 ∧
    ({ ready with spares := [(keyOf 4 0, 7)] } : State).spares.get (sparesOf (keyOf 4 0)).1 0 < (sparesOf (keyOf 4 0)).2 ∧
    (let s : State := { ready with rowErr := [(keyOf 1 64, 0)] }
     (((s.rowErr.filter fun r => s.ns < r.2 + dayNs) ++ [(keyOf 1 64, s.ns)]).filter fun r => r.1 = keyOf 1 64).length < 3) := by
  decide +kernel
theorem witness_ports : (let x := ({ ready with ports := [(1, { ids := [(7, 2 ^ 21)] })] } : State).port 1
     x.ids ≠ [] ∧ x.lost = false ∧ x.givenUp = false) ∧ ((lostPort 0).port 1).lost = true ∧
    ((lostPort 0).port 1).givenUp = false ∧ ((lostPort 0).port 1).triedAt + 10 ^ 10 ≤ (lostPort 10000000000).ns ∧
    (lostPort 9999999999).ns < ((lostPort 0).port 1).triedAt + 10 ^ 10 ∧
    ((lostPort 0).port 1).since + 600 * 10 ^ 9 ≤ (lostPort 600000000000).ns ∧
    (lostPort 599999999999).ns < ((lostPort 0).port 1).since + 600 * 10 ^ 9 ∧ ((lostPort 0).port 1).ids ≠ [] ∧
    (∀ q ∈ (lostPort 0).mill.jobs, ∀ e ∈ q.2.pages ++ q.2.creelMap, onPort 1 e.2 = false) ∧
    ([] : List (Word × Word)) ≠ ((lostPort 0).port 1).ids ∧ ((8 : Word), (0 : Word)).1 ∉ ((lostPort 0).port 1).ids.map (·.1) := by
  decide +kernel
/-- ScrubbingAndCxlPorts: a job with a page on port 1, an operation that reads it and one that reads nothing of it. -/
def onCxl : Job := { job1 with pages := [(0, 0xA200000000000000), (3, 0xD000000000200000)] }
def reader : QOp := { op1 with descs := [(2, BitVec.ofNat 512 (1 + 4 * 2 ^ 8 + 2 ^ 24 + 2 ^ 32 + 0x600000 * 2 ^ 64))] }
theorem witness_reads : (with1 ctx1 onCxl).job? op1.job = some onCxl ∧ (with1 ctx1 onCxl).readsPort onCxl 1 op1 = none ∧
    ((with1 ctx1 onCxl).readsPort onCxl 1 reader).isSome = true ∧ rop1.code = 0 := by decide +kernel
/-- SpotTestsStart: a site that is due with a twin, one without, one whose time to defer has passed, a retry. -/
theorem witness_spots : (287 : BitVec 9).toNat < 288 ∧ ready.testable 287 = true ∧ ready.testDue 287 = true ∧
    ready.boundary 287 = true ∧ (ready.twinOf 287 false).isSome = true ∧
    (let s : State := { ready with mill := { spots := [{ site := 287, twin := 286, start := 0 }] } }
     s.testable 287 = false) := by decide +kernel
theorem witness_deferred :
    let s : State := { ready with mill := { due := [(287, 0)], retests := [(287, 60)] }, time := { now := 60000000000 * 2 ^ 32 } }
    s.mill.due.any (fun d => d.1 = 287 && decide (d.2 + s.spotTimes.2 ≤ s.ns)) = true ∧
    s.mill.retests.any (fun r => r.1 = 287 && decide (r.2 ≤ s.ns)) = true ∧
    ready.mill.due.any (fun d => d.1 = 287 && decide (d.2 + ready.spotTimes.2 ≤ ready.ns)) = false ∧
    ready.mill.retests.any (fun r => r.1 = 287 && decide (r.2 ≤ ready.ns)) = false ∧ (∀ d ∈ ready.mill.due, d.1 ≠ 287) := by
  decide +kernel
/-- SpotTestsStart: a forced test that waits for the operations of its spindle, which issues nothing. -/
def busySite : State := { ready with
  spindles := [(0, { running := [(.vector, rop1)] })], mill := { due := [(0, 0)], holds := [0] }, time := { now := 60000000000 * 2 ^ 32 } }
theorem witness_hold : busySite.testable 0 = true ∧
    busySite.mill.due.any (fun d => d.1 = 0 && decide (d.2 + busySite.spotTimes.2 ≤ busySite.ns)) = true ∧
    busySite.quietSite 0 = false ∧ (busySite.forcedTest 0).isSome = true ∧ busySite.workSite 0 ∈ busySite.mill.holds := by
  decide +kernel
theorem witness_seats : ready.seated 287 = none ∧ (ready.twinOf 287 true).isSome = true := by decide +kernel
/-- SpotTestsStart: no twin, since every reserve is at test or gone and every other site was tested. -/
def noTwin : State := { ready with mill := { site := (List.range 71).map fun p => (216 + p, 3) } }
theorem witness_no_twin : noTwin.testable 287 = true ∧ noTwin.twinOf 287 false = none := by decide +kernel
/-- VotesAndTwinSamples: a test before and at its end, with and without a third site; samples that stand and that do not. -/
def spot1 (r : Option Nat) : Spot := { site := 0, twin := 1, third := r, start := 0 }
def tested (r : Option Nat) (ns : Nat) : State := { ready with mill := { spots := [spot1 r] }, time := { now := ns * 2 ^ 32 } }
def twin1 : Twin := { num := 3, job := 1, site := 0, twin := 1, dig := 5, epochs := [(0, 0)], lspn := 0 }
theorem witness_votes : (tested none 0).mill.spots.find? (fun t => t.site = 0) = some (spot1 none) ∧
    (tested none 3999999).ns < (spot1 none).start + 4000000 ∧ (spot1 none).start + 4000000 ≤ (tested none 4000000).ns ∧
    ((spot1 none).sites ++ (spot1 none).loan.toList).all (tested none 4000000).quietSite = true ∧
    ((spot1 (some 2)).sites ++ (spot1 (some 2)).loan.toList).all (tested (some 2) 4000000).quietSite = true ∧
    ready.mill.twinTests = [] ∧ ((tested none 4000000).thirdSite (spot1 none)).isSome = true ∧
    (0 : BitVec 128) ≠ 1 ∧ (2 : BitVec 128) ≠ 0 ∧ (2 : BitVec 128) ≠ 1 := by decide +kernel
theorem witness_samples : let s : State := { ready with mill := { twins := [twin1] } }
    s.mill.twins.find? (fun t => t.num = 3) = some twin1 ∧ s.unchanged twin1 = true ∧
    twin1.dig ≠ 6 := by decide +kernel
/-- VotesAndTwinSamples: a unit whose epoch has changed, where the twin had not read it before. -/
theorem witness_abandoned (h : Config.twinRead 3 0 = false) :
    ({ ready with mill := { twins := [twin1] } } : State).unchanged { twin1 with epochs := [(0, 1)] } = false := by
  simp only [State.unchanged, List.all_cons, h, twin1]
  decide
/-- CommandCoreLoss: cores that work, a core that is gone, and a mill that accepts no job. -/
theorem witness_cores : ready.mill.cores.getLsbD 0 = true ∧ ready.mill.cores.getLsbD 7 = true ∧
    ({ ready with mill := { cores := 0x7F, accepting := false } } : State).mill.cores.getLsbD 7 = false := by decide

/-! ### Sessions, ownership and debug -/

/-- A module with an I3C address, an owner's credential at CRED 15 and the given sessions. -/
def held (xs : List Session) (cs : List Chal) (ns : Nat) : State := { ready with
  sec := { da := 9, sessions := xs, chals := cs }, mem := [(keyOf 6 (credAt 15), 3)], time := { now := ns * 2 ^ 32 } }
def chal1 : Chal := { sid := 7, cred := 15, nc := 0, nd := 0, tr := .i3c, src := ⟨0, 0, 0⟩, at_ := 0 }
def session1 (role : Nat) : Session := { sid := 7, cred := 15, role := role, key := 0, tr := .i3c, src := ⟨0, 0, 0⟩, rxSeq := none, txSeq := 0, last := 0 }
/-- SessionsOpenAndExpire: a transport without its address, eight sessions, an empty and a barred credential, one that opens. -/
theorem witness_open : ready.carries .i3c = false ∧ (held [] [] 0).carries .i3c = true ∧
    8 ≤ (held (List.replicate 8 (session1 1)) [] 0).sec.sessions.length ∧
    (held (List.replicate 7 (session1 1)) [] 0).sec.sessions.length < 8 ∧ (held [] [] 0).credRole 15 ≠ 0 ∧
    (held [] [] 0).credRole 14 = 0 ∧ (held [] [] 0).barred 15 = false ∧
    ({ held [] [] 0 with sec := { (held [] [] 0).sec with bars := [(15, 60)] } } : State).barred 15 = true := by decide +kernel
/-- The proof of the credential with a key of zeros: HMAC-SHA-512 of "OPEN", 64 zero bytes and the identifier 7. -/
def proof7 : BitVec 512 := 
  0xE2AEE7515B0104B174978C4CF5E75371A5E9A631AF5F96A9C1FA68062690A621E89FDB0B579A8FF7202AE336E029AC64FA2E3D48CBCD7E1FA2D97E616A48A634
/-- SessionsOpenAndExpire: a challenge over Ethernet, a proof from another port, and one from its own. -/
theorem witness_source : ({ held [] [] 0 with sec := { (held [] [] 0).sec with ethUp := true } } : State).carries .ethernet = true ∧
    ({ chal1 with tr := .ethernet, src := ⟨9, 5, 7⟩ } : Chal).tr = .ethernet ∧ (4 : BitVec 32) ≠ 5 ∧ (6 : BitVec 16) ≠ 7 ∧
    sameSource .ethernet ⟨9, 5, 7⟩ ⟨8, 5, 7⟩ = true ∧ sameSource .ethernet ⟨9, 5, 7⟩ ⟨9, 4, 7⟩ = false ∧
    sameSource .ethernet ⟨9, 5, 7⟩ ⟨9, 5, 6⟩ = false ∧ sameSource .i3c ⟨9, 5, 7⟩ ⟨9, 4, 6⟩ = true := by decide
/-- A message with the first sequence number, its tag and its body. -/
def msgOf (mac : BitVec 256) (body : List Byte) : Msg := { sid := 7, seq := 1, mac := mac, body := body, src := ⟨0, 0, 0⟩ }
theorem witness_requests : ready.mill.ring32 = [] ∧ (session1 1).role ≠ 2 ∧ (session1 2).role ≠ 1 ∧ (session1 2).role ≠ 3 ∧ Reg.readable .millRcfg = true ∧ ready.baro.find 0 = none ∧
    ({ xring := [{ seq := 0, time := 0, type := 1, sev := 1, body := [] }] } : Baro).find 0 =
      some { seq := 0, time := 0, type := 1, sev := 1, body := [] } ∧
    ({ ready with mill := { ring32 := [[1]] } } : State).mill.ring32 = [1] :: [] ∧ ownerWrites .millRcfg = true ∧
    ownerWrites (.timeCmp 7) = true ∧ (ready.regWriteChecked .millRcfg 0 false).isSome = true ∧
    (ready.regWriteChecked (.timeCmp 7) 0 false).isNone = true ∧ (15 : BitVec 8).toNat < 16 ∧ credOk 0x0003 = true ∧
    33 ≤ (255 : BitVec 8).toNat ∧ 33 ≤ (33 : BitVec 8).toNat ∧ 10 ≤ (10 : BitVec 4).toNat ∧ 10 ≤ (15 : BitVec 4).toNat ∧
    ready.arb < ({ ready with sec := { version := 1 } } : State).sec.version.toNat := by decide +kernel
/-- OwnershipAndFirmware: a module without an owner and one with, one that is provisioned and one that is not. -/
theorem witness_owner : (held [] [] 0).carries .i3c = true ∧ (held [] [] 0).owned = false ∧ (held [] [] 0).prov = false ∧
    ({ ready with mem := [(keyOf 6 8, 3)] } : State).owned = true ∧ ({ ready with mem := [(keyOf 6 8, 3)] } : State).prov = true := by
  decide +kernel
/-- AttestationAndTransports: a connection at each stage, with and without a certificate, a first and a last measurement. -/
def asked (n : Nat) (ok : Bool) : State := { ready with sec := { da := 9, spdm := [(1, n)], certOk := ok } }
theorem witness_attest : (asked 3 true).spdmOn .i3c = true ∧ ready.spdmOn .i3c = false ∧ (asked 3 true).spdmAt .i3c = 3 ∧
    (asked 2 true).spdmAt .i3c ≠ 3 ∧ (asked 3 true).sec.certOk = true ∧ (asked 3 false).sec.certOk = false ∧
    (0 : BitVec 8).toNat = 0 ∧ (16 : BitVec 8).toNat ≤ 16 ∧ (255 : BitVec 8).toNat = 255 ∧ (asked 1 true).spdmAt .i3c = 1 ∧ (15 : BitVec 4) ≠ 0 ∧ (asked 3 true).managed = true ∧
    (asked 3 true).prov = false ∧
    ({ asked 3 true with mem := [(keyOf 6 8, 1)] } : State).prov = true := by decide +kernel
theorem witness_rising : Rising (asked 3 true).sec.spdm := by
  unfold Rising
  decide
/-- DebugPort: a module whose TAP runs and one that is off, the scopes, and a pulse that is high. -/
theorem witness_debug : ready.tapOn = true ∧ State.reset.tapOn = false ∧ ready.scope ≠ 2 ∧
    ({ ready with sec := { stat := 0x04000000 } } : State).scope = 2 ∧ ready.time.ppsOut = false ∧
    ({ ready with time := { ppsOut := true } } : State).time.ppsOut = true := by decide +kernel

/-! ### Time and power -/

/-- PtpServo: a port that runs, the sixteenth Sync in a row, one less, a request and none, and 3 s without a Sync. -/
def synced (good ns : Nat) : State := { ready with
  sec := { ethUp := true }, time := { now := ns * 2 ^ 32, good := good, reqAt := some 5 } }
theorem witness_ptp : (synced 15 0).ptpOn = true ∧ (0 : BitVec 8).toNat = bitsOf (synced 15 0).timeCtl 24 8 ∧
    (synced 15 0).timeCtl.testBit 23 = false ∧ (1 : BitVec 8).toNat ≠ bitsOf (synced 15 0).timeCtl 24 8 ∧
    -4294967 ≤ (0 : BitVec 32).toInt ∧ (4294967 : BitVec 32).toInt ≤ 4294967 ∧ ready.ptpOn = false ∧ 16 ≤ (synced 15 0).time.good + 1 ∧
    (synced 14 0).time.good + 1 < 16 ∧ (synced 15 0).time.locked = false ∧ (synced 15 0).time.now < 2 ^ 96 ∧
    (synced 0 0).time.reqAt = some 5 ∧ ready.time.reqAt = none ∧ ready.on = true ∧
    (let s : State := { ready with time := { now := 3000000000 * 2 ^ 32, locked := true } }
     s.time.locked = true ∧ s.time.syncAt + 3 * 10 ^ 9 ≤ s.ns) ∧
    ({ ready with time := { now := 2999999999 * 2 ^ 32, locked := true } } : State).ns < 0 + 3 * 10 ^ 9 := by decide +kernel
/-- PulsesAndCompareUnits: PPSIN_EN off and on, edges at 1 µs and beyond it on both sides, pulses, units below and at 7. -/
def edge (ctl : List Host.Cell) (ns : Nat) : State := { ready with mem := ctl, time := { now := ns * 2 ^ 32, cmpctl := 0xFF, cmp := [(7, 3)] } }
def ppsIn : List Host.Cell := [(keyOf 6 (wpBase + 42), 0x70)]
theorem witness_pulses : (edge [] 0).timeCtl.testBit 22 = false ∧ (edge ppsIn 0).timeCtl.testBit 22 = true ∧
    1000 < (edge ppsIn 1001).ns % 10 ^ 9 ∧ (edge ppsIn 999998999).ns % 10 ^ 9 < 10 ^ 9 - 1000 ∧
    10 ^ 9 - 1000 ≤ (edge ppsIn 999999000).ns % 10 ^ 9 ∧ (edge ppsIn 1000).ns % 10 ^ 9 ≤ 1000 ∧
    (edge ppsIn 2).ppsAllowed = true ∧ (edge [] 2).ppsAllowed = false ∧ (edge ppsIn 2).sec.dbgTrig = false ∧
    (edge ppsIn 2).time.ppsOut = false ∧ (edge ppsIn 2).ns % 10 ^ 9 ≤ 2 ∧ 2 < (edge ppsIn 3).ns % 10 ^ 9 ∧
    (edge ppsIn 3).time.cmpctl.toNat.testBit 7 = true ∧ ((edge ppsIn 3).time.cmp.get 7 0).toNat ≤ (edge ppsIn 3).ns ∧
    (edge ppsIn 2).ns < ((edge ppsIn 3).time.cmp.get 7 0).toNat ∧ (6 : BitVec 3) ≠ 7 ∧
    (let s : State := { ready with time := { ppsOut := true } }
     s.time.ppsEnd ≤ s.tick.ns) := by decide +kernel
/-- FallDuringStartUp and StartUpPhases: each phase, before and at the end of phase 4, and each other state. -/
def starting (n : Nat) : State := { power := { phase := .starting, reached := n } }
theorem witness_startUp : (starting 3).Inv ∧ (starting 3).power.phase = .starting ∧ (starting 3).power.reached < 4 ∧
    ({ power := { phase := .recovery, reached := 2 } } : State).power.phase = .recovery ∧
    4 ≤ (starting 4).power.reached ∧ ready.power.phase = .ready ∧ State.reset.power.phase = .off ∧ (2 : BitVec 2).toNat < 3 ∧
    110 ≤ (110 : BitVec 8).toNat ∧ (starting 7).power.reached = 7 ∧ (starting 5).host.perst = true ∧
    ({ starting 5 with host := { perst := false } } : State).host.perst = false ∧
    ({ ready with host := { perst := false, fnReady := true } } : State).fnThere 0 = true ∧ ready.fnThere 31 = false ∧
    (0x00000001000000000000000000000000 : BitVec 128).getLsbD 96 = true ∧ ready.core0 = true :=
  ⟨rfl, rfl, by decide, rfl, by decide, rfl, rfl, by decide, by decide, rfl, rfl, rfl, by decide, by decide, by decide, rfl⟩
/-- SaveAndShutdown: a save that is armed and one that is not, a save of each cause, a module that is latched off. -/
theorem witness_save : ready.core0 = true ∧ ({ ready with mill := { cores := 0xFE } } : State).core0 = false ∧ (109 : BitVec 8).toNat < 110 ∧ 110 ≤ (110 : BitVec 8).toNat ∧
    ({ power := { phase := .saving, cause := 2 } } : State).power.phase = .saving ∧
    ({ power := { phase := .saving, cause := 2 } } : State).power.cause = 2 ∧
    ({ power := { phase := .saving } } : State).power.cause ≠ 2 ∧ ready.power.phase ≠ .saving ∧
    ({ power := { phase := .thermalOff } } : State).power.phase = .thermalOff ∧ ready.power.phase ≠ .thermalOff := by decide
/-- OperatingPointsAndSensors: temperatures and powers at their limits, a frame below its goal and one above it. -/
theorem witness_points : (let s : State := { ready with frames := [(0, { capP := 3, dvfs := 0x000F0258 }), (1, { capP := 3, dvfs := 0x000F0258 })] }
     ((s.frame 0).rising = true ∧ (s.frame 1).capP < 15 ∧ (s.frame 1).point < (s.frame 1).goal) ∧ ∀ g < 0, (s.frame g).rising = false) ∧
    (94 : Nat) < 95 ∧ (92 : Nat) ≤ 92 ∧ (91 : Nat) < 92 ∧ (2800 : Nat) < 2801 ∧ (2699 : Nat) < 2700 ∧
    (let x : Frame := { dvfs := 0x000F0258 }
     x.point < x.goal) ∧ (let x : Frame := { dvfs := 0x00F00258 }
     x.goal < x.point) ∧ ready.power.alert = decide (95 ≤ (94 : BitVec 8).toNat) ∧
    ready.power.alert ≠ decide (95 ≤ (95 : BitVec 8).toNat) ∧
    (State.ns { ready with time := { now := 999999 * 2 ^ 32 } } / 10 ^ 6 ≤ ready.power.dvfsAt) ∧
    ready.power.dvfsAt < State.ns { ready with time := { now := 1000000 * 2 ^ 32 } } / 10 ^ 6 := by decide +kernel
/-- StepKeepsMemoryCanonical and CommandsLeaveTheQueue: a step from a canonical state, and a command that answers. -/
theorem witness_step : ready.Inv ∧ step ready = .next ready.tick ∧ exec .fabricHoldover ready = .next ready :=
  ⟨rfl, rfl, rfl⟩
/-- DecodeAndEncodeAgree: a well-formed instruction with its word. -/
theorem witness_words : Instr.wf (.aluSub w0 ⟨3, 1, 2, 1 <<< 37⟩) = true ∧
    encode (.aluSub w0 ⟨3, 1, 2, 1 <<< 37⟩) = some (w0, 0x0461102000000000) ∧
    decodeWord w0 0x0461102000000000 = some (.aluSub w0 ⟨3, 1, 2, 1 <<< 37⟩) := by decide +kernel

/-! ### The witnesses whose digests take longest to evaluate -/

set_option maxRecDepth 100000 in
theorem witness_crc : crc32 ((fill 0xFFF).take 260) = leNat (((fill 0xFFF).drop 260).take 4) := by decide +kernel
set_option maxRecDepth 100000 in
theorem witness_bad_crc : crc32 ((List.replicate 272 (0 : Byte)).take 260) ≠
    leNat (((List.replicate 272 (0 : Byte)).drop 260).take 4) := by decide +kernel
theorem witness_proof : (held [] [chal1] 0).sec.chals.find? (fun c => c.sid = 7) = some chal1 ∧
    chal1.at_ + 5 * 10 ^ 9 ≤ (held [] [chal1] 5000000000).ns ∧ (held [] [chal1] 4999999999).ns < chal1.at_ + 5 * 10 ^ 9 ∧
    hmac512 ((held [] [chal1] 0).credKey chal1.cred) (chal1.msg openLabel) = leBytes 64 proof7.toNat ∧
    hmac512 ((held [] [chal1] 0).credKey chal1.cred) (chal1.msg openLabel) ≠ leBytes 64 0 := by decide +kernel
/-- SessionMessagesTakeEffect and OwnershipAndFirmware: an open session of each role, and one that has expired; the tags are
HMAC-SHA-512 under a key of zeros of the identifier 7, the number 1 and the body, 32 bytes. -/
theorem witness_message :
    (held [session1 1] [] 299999999999).session? (msgOf 0xDF313D476FCE075213962FD6C8474A300B627B773C06B487FD8BC453D7D1540B [0x01]) = some (session1 1) ∧
    (held [session1 2] [] 0).session? (msgOf 0xDF313D476FCE075213962FD6C8474A300B627B773C06B487FD8BC453D7D1540B [0x01]) = some (session1 2) ∧
    (held [session1 3] [] 0).session? (msgOf 0xDF313D476FCE075213962FD6C8474A300B627B773C06B487FD8BC453D7D1540B [0x01]) = some (session1 3) ∧
    (held [session1 3] [] 300000000000).session? (msgOf 0xDF313D476FCE075213962FD6C8474A300B627B773C06B487FD8BC453D7D1540B [0x01]) = none := by decide +kernel
theorem witness_message_reg : (held [session1 3] [] 0).session? (msgOf 0x992849BB54BF610A67D8CDFB855F8D2A18EC926A4F1B28692EBC254D5F3149F3 (0x11 :: (regName .millRcfg ++ leBytes 8 1))) = some (session1 3) := by decide +kernel
/-- JobSwitchingAndMigration: a save area that finds its pages. -/
theorem witness_saves : (displaced.savePagesOf fill1).isSome = true := by decide +kernel

end Sys2Proof.Tests
end

section
/-! SUPPORT. What the memory reads after a write, and what one counted write of a word of the persistent bank does (R15,
R551, R554). -/

namespace Sys2Proof.Laws

open Sys2Proof.Machine

/-! ### Memory reads after a write -/

theorem memGet_of_lt {k : Nat} : ∀ {lo : Nat} {m : List Host.Cell}, Mem.wfFrom lo m = true → k < lo → Mem.get m k = Mem.rest k
  | _, [], _, _ => rfl
  | lo, c :: r, h, hk => by
    simp only [Mem.wfFrom, Bool.and_eq_true, decide_eq_true_eq] at h
    rw [Mem.get, if_neg (by omega), if_pos (by omega)]

theorem memGet_put_same (m : List Host.Cell) (k : Nat) (b : Byte) : Mem.get (Mem.put m k b) k = b := by
  induction m with
  | nil => simp [Mem.put, Mem.get]
  | cons c r ih =>
    unfold Mem.put
    split_ifs with h1 h2
    · simp [Mem.get]
    · simp [Mem.get]
    · rw [Mem.get, if_neg h1, if_neg h2, ih]

theorem memGet_put_other (m : List Host.Cell) {k a : Nat} (b : Byte) (h : k ≠ a) : Mem.get (Mem.put m k b) a = Mem.get m a := by
  induction m with
  | nil => simp [Mem.put, Mem.get, h]
  | cons c r ih =>
    unfold Mem.put
    split_ifs with h1 h2
    · simp [Mem.get, h1, h]
    · by_cases ha : a < k
      · simp [Mem.get, h, ha, show c.1 ≠ a by omega, show a < c.1 by omega]
      · rw [Mem.get, if_neg h, if_neg ha]
    · simp only [Mem.get, ih]

theorem memGet_drop_same {k : Nat} : ∀ {lo : Nat} {m : List Host.Cell}, Mem.wfFrom lo m = true →
    Mem.get (Mem.drop m k) k = Mem.rest k
  | _, [], _ => rfl
  | lo, c :: r, h => by
    simp only [Mem.wfFrom, Bool.and_eq_true, decide_eq_true_eq] at h
    unfold Mem.drop
    split_ifs with h1 h2
    · exact memGet_of_lt h.2 (by omega)
    · rw [Mem.get, if_neg h1, if_pos h2]
    · rw [Mem.get, if_neg h1, if_neg h2, memGet_drop_same h.2]

theorem memGet_drop_other {k a : Nat} (hk : k ≠ a) : ∀ {lo : Nat} {m : List Host.Cell}, Mem.wfFrom lo m = true →
    Mem.get (Mem.drop m k) a = Mem.get m a
  | _, [], _ => rfl
  | lo, c :: r, h => by
    simp only [Mem.wfFrom, Bool.and_eq_true, decide_eq_true_eq] at h
    unfold Mem.drop
    split_ifs with h1 h2
    · rw [Mem.get, if_neg (by omega)]
      split_ifs with ha
      · exact memGet_of_lt h.2 (by omega)
      · rfl
    · rfl
    · rw [Mem.get, Mem.get, memGet_drop_other hk h.2]

/-- A memory in canonical form reads back the byte that was written. -/
theorem memGet_set_same {m : List Host.Cell} (h : Mem.wf m = true) (k : Nat) (b : Byte) : Mem.get (Mem.set m k b) k = b := by
  unfold Mem.set
  split_ifs with e
  · rw [memGet_drop_same h, e]
  · exact memGet_put_same m k b

/-- Every other byte reads as before. -/
theorem memGet_set_other {m : List Host.Cell} (h : Mem.wf m = true) {k a : Nat} (b : Byte) (hk : k ≠ a) :
    Mem.get (Mem.set m k b) a = Mem.get m a := by
  unfold Mem.set
  split_ifs with e
  · exact memGet_drop_other hk h
  · exact memGet_put_other m b hk

@[simp] theorem memSetBytes_nil (m : List Host.Cell) (k : Nat) : Mem.setBytes m k [] = m := rfl

theorem memSetBytes_cons (m : List Host.Cell) (k : Nat) (b : Byte) (bs : List Byte) :
    Mem.setBytes m k (b :: bs) = Mem.setBytes (Mem.set m k b) (k + 1) bs := by
  simp [Mem.setBytes, Mem.setAll, List.zipIdx_succ, Function.comp_def, Nat.add_assoc, Nat.add_comm 1]

theorem memBytes_succ (m : List Host.Cell) (k n : Nat) : Mem.bytes m k (n + 1) = Mem.get m k :: Mem.bytes m (k + 1) n := by
  simp [Mem.bytes, List.range_succ_eq_map, Nat.add_assoc, Nat.add_comm 1]

/-- A byte outside the range that is written reads as before. -/
theorem memGet_setBytes_outside {a : Nat} (bs : List Byte) : ∀ {m : List Host.Cell} {k : Nat}, Mem.wf m = true →
    a < k ∨ k + bs.length ≤ a → Mem.get (Mem.setBytes m k bs) a = Mem.get m a := by
  induction bs with
  | nil => intros; rfl
  | cons b bs ih =>
    intro m k h ha
    rw [List.length_cons] at ha
    rw [memSetBytes_cons, ih (wf_set k b h) (by omega), memGet_set_other h b (by omega)]

/-- Bytes read back as they were written. -/
theorem memBytes_setBytes (bs : List Byte) : ∀ {m : List Host.Cell} (k : Nat), Mem.wf m = true →
    Mem.bytes (Mem.setBytes m k bs) k bs.length = bs := by
  induction bs with
  | nil => intros; rfl
  | cons b bs ih =>
    intro m k h
    rw [memSetBytes_cons, List.length_cons, memBytes_succ, ih _ (wf_set k b h),
      memGet_setBytes_outside bs (wf_set k b h) (by omega), memGet_set_same h]

/-! ### Little-endian numbers -/

@[simp] theorem leBytes_length (n v : Nat) : (leBytes n v).length = n := by
  induction n generalizing v with
  | zero => rfl
  | succ n ih => simp [leBytes, ih]

theorem leNat_leBytes (n v : Nat) : leNat (leBytes n v) = v % 256 ^ n := by
  induction n generalizing v with
  | zero => simp [leBytes, leNat, Nat.mod_one]
  | succ n ih => simp [leBytes, leNat, ih, Nat.pow_succ', Nat.mod_mul]

/-- A number reads back as it was written, cut to its bytes. -/
theorem memNat_setNat {m : List Host.Cell} (h : Mem.wf m = true) (k n v : Nat) :
    Mem.nat (Mem.setNat m k n v) k n = v % 256 ^ n := by
  have hb := memBytes_setBytes (leBytes n v) k h
  rw [leBytes_length] at hb
  rw [Mem.nat, Mem.setNat, hb, leNat_leBytes]

theorem memGet_setNat_outside {m : List Host.Cell} (h : Mem.wf m = true) {k n a : Nat} (v : Nat) (ha : a < k ∨ k + n ≤ a) :
    Mem.get (Mem.setNat m k n v) a = Mem.get m a :=
  memGet_setBytes_outside _ h (by rwa [leBytes_length])

/-! ### Wear and the words of the bank -/

@[simp] theorem wearOf_wearOne_same (s : State) (w : Nat) : (s.wearOne w).wearOf w = s.wearOf w + 1 := by
  rw [State.wearOf, State.wearOne_wear, Table.set, if_neg (Nat.succ_ne_zero _), Table.get_put_same]

theorem wearOf_wearOne_other (s : State) {w u : Nat} (h : u ≠ w) : (s.wearOne w).wearOf u = s.wearOf u := by
  rw [State.wearOf, State.wearOne_wear, Table.set, if_neg (Nat.succ_ne_zero _), Table.get_put_other _ _ _ h.symm, State.wearOf]

/-- A write of a word at its endurance stores nothing and is recorded (R15). -/
theorem bankWord_of_worn {s : State} {off : Nat} (v : Nat) (h0 : s.core0 = true) (hw : s.worn (off / 8) = true) :
    s.bankWord off v = s.baroWrite 0x0D 1 true [locW .bankPage (off / 256), codeW 0 0 (8 * (off / 8))] := by
  simp [State.bankWord, h0, hw]

/-- A write of a word that verifies counts one write of it and stores the value (R15, R551, R554). -/
theorem bankWord_of_verifies {s : State} {off : Nat} (v : Nat) (h0 : s.core0 = true) (hw : s.worn (off / 8) = false)
    (hv : off / 8 ∉ s.weak) :
    s.bankWord off v = { s.wearOne (off / 8) with mem := Mem.setNat s.mem (keyOf 6 (8 * (off / 8))) 8 v } := by
  simp [State.bankWord, State.verify, h0, hw, hv]

/-! ### WP registers -/

theorem wpBase_add_div (n : Nat) : (wpBase + 8 * n) / 8 = wpBase / 8 + n := by
  unfold wpBase
  omega

theorem eight_mul_wpWord (n : Nat) : 8 * (wpBase / 8 + n) = wpBase + 8 * n := by
  unfold wpBase
  omega

/-- The WP registers take the first six words of WPREG (R553). -/
theorem wpFields_word_lt {r : Reg} {n : Nat} {fs : List Fld} (h : r.wpFields = some (n, fs)) : n < 6 := by
  cases r <;> cases h <;> decide

/-- A word of WPREG is worn at the endurance of the configuration region (R550, R554). -/
theorem worn_wpWord (s : State) {n : Nat} (hn : n < 6) :
    s.worn (wpBase / 8 + n) = decide (10 ^ 9 ≤ s.wearOf (wpBase / 8 + n)) := by
  have hr : bankRegion (8 * (wpBase / 8 + n)) = 2 := by
    rw [eight_mul_wpWord, bankRegion, wpBase, if_neg (by omega), if_neg (by omega), if_pos (by omega)]
  rw [State.worn, hr]
  rfl

theorem regWrite_wp (s : State) {r : Reg} {n : Nat} {fs : List Fld} (v : Word) (h : r.wpFields = some (n, fs)) :
    s.regWrite r v = some (s.setWp n (BitVec.ofNat 64 (putFields fs v.toNat (s.wp n).toNat))) := by
  simp only [State.regWrite, h]

theorem regWriteChecked_wp {s t : State} {r : Reg} {n : Nat} {fs : List Fld} {v : Word} {fails : Bool}
    (h : r.wpFields = some (n, fs)) (hw : s.regWrite r v = some t)
    (hv : (fails && s.core0 && !s.worn (wpBase / 8 + n)) = false) : s.regWriteChecked r v fails = some t := by
  simp [State.regWriteChecked, hw, h, hv]

/-- REGISTER_WRITE of a WP register writes its word alone, where the word verifies or is worn (R15, R542). -/
theorem exec_registerWrite_wp {s : State} {r : Reg} {n : Nat} {fs : List Fld} (v : Word) {fails : Bool}
    (hr : s.power.phase = .ready) (h : r.wpFields = some (n, fs))
    (hv : (fails && s.core0 && !s.worn (wpBase / 8 + n)) = false) :
    exec (.registerWrite r v fails) s = .next (s.setWp n (BitVec.ofNat 64 (putFields fs v.toNat (s.wp n).toNat))) := by
  change execRegisterWrite r v fails s = _
  unfold execRegisterWrite
  split
  · cases h
  · rw [if_pos (State.on_eq s hr), regWriteChecked_wp h (regWrite_wp s v h) hv, Option.getD_some]

/-- A write of a worn WP register stores nothing and is recorded (R15). -/
theorem setWp_of_worn {s : State} {n : Nat} (v : Word) (h0 : s.core0 = true) (hw : s.worn (wpBase / 8 + n) = true) :
    s.setWp n v = s.baroWrite 0x0D 1 true [locW .bankPage ((wpBase + 8 * n) / 256), codeW 0 0 (8 * (wpBase / 8 + n))] := by
  rw [← wpBase_add_div] at hw ⊢
  exact bankWord_of_worn v.toNat h0 hw

/-- The state after a WP write that verifies: the word counts one write and holds the value, all else is kept. -/
theorem setWp_of_verifies {s : State} {n : Nat} (v : Word) (h0 : s.core0 = true) (hn : n < 6)
    (hw : s.wearOf (wpBase / 8 + n) < 10 ^ 9) (hv : wpBase / 8 + n ∉ s.weak) :
    s.setWp n v = { s.wearOne (wpBase / 8 + n) with mem := Mem.setNat s.mem (keyOf 6 (8 * (wpBase / 8 + n))) 8 v.toNat } := by
  have hf : s.worn (wpBase / 8 + n) = false := by
    rw [worn_wpWord s hn]
    exact decide_eq_false (Nat.not_le.mpr hw)
  rw [← wpBase_add_div] at hf hv ⊢
  exact bankWord_of_verifies v.toNat h0 hf hv

/-- A word of WPREG reads back the value that its memory took. -/
theorem wp_of_mem {s t : State} (hi : s.Inv) {n : Nat} {v : Word}
    (ht : t.mem = Mem.setNat s.mem (keyOf 6 (8 * (wpBase / 8 + n))) 8 v.toNat) : t.wp n = v := by
  rw [State.wp, State.bank, State.natAt, ht, ← eight_mul_wpWord, memNat_setNat hi,
    Nat.mod_eq_of_lt (show v.toNat < 256 ^ 8 from v.isLt), BitVec.ofNat_toNat, BitVec.setWidth_eq]

/-- Settles O30: below its endurance a WP write is one counted write of the word's eight bytes, at it only the record. -/
theorem wpWritesWearTheirWord : Obligations.WpWritesWearTheirWord := by
  intro s r v n fs hr h0 hi h w
  have hn := wpFields_word_lt h
  constructor
  · intro hw hv
    have ht := setWp_of_verifies (BitVec.ofNat 64 (putFields fs v.toNat (s.wp n).toNat)) h0 hn hw hv
    exact ⟨_, (exec_registerWrite_wp v hr h rfl).trans (congrArg _ ht), wearOf_wearOne_same s w, wp_of_mem hi rfl, rfl,
      fun u hu => wearOf_wearOne_other s hu, fun a ha => memGet_setNat_outside hi _ ha⟩
  · intro hw fails
    have hworn : s.worn w = true := (worn_wpWord s hn).trans (decide_eq_true hw)
    have hv : (fails && s.core0 && !s.worn w) = false := by simp [hworn]
    exact (exec_registerWrite_wp v hr h hv).trans (congrArg _ (setWp_of_worn _ h0 hworn))

end Sys2Proof.Laws
end

section
/-! SUPPORT. How a controller instruction of a context that issues runs, and what BR, LOOP and ENDL do there (R388, R389, R401). -/

namespace Sys2Proof.Laws

open Sys2Proof.Machine Sys2Proof.Claims

variable {s : State} {w : Who} {b : Job} {f : SForm} {word : Word} {eff : Job → Ctx → State}

/-! ### The common frame of a controller instruction -/

theorem ctlStart_of_issues (h : Issues s w b) : s.ctlStart w = .go b := by
  obtain ⟨hr, hrun, hj, hres, hend, hfault, hstop, htest, p, hloc, hex⟩ := h
  simp [State.ctlStart, State.on_eq s hr, hrun, hj, hres, hend, hfault, hstop, htest, hloc, hex]

/-- A reserved field is ILLEGAL (R377, R389). -/
theorem controller_of_reserved (h : Issues s w b) : s.controller w word true eff = (s.ctlFault w 1 word).reap := by
  rw [State.controller, ctlStart_of_issues h]
  rfl

/-- With its reserved fields zero the instruction has its own effect. -/
theorem controller_of_issues (h : Issues s w b) : s.controller w word false eff = eff b (s.who w) := by
  rw [State.controller, ctlStart_of_issues h]
  rfl

/-! ### Taken branches -/

/-- What a taken branch does: inside the code region it goes to its target, outside it raises BRANCH_RANGE (R389, R401). -/
theorem exec_of_takeBranch {i : Instr} {x : Ctx} {a : DevAddr} (h : exec i s = .next (s.takeBranch w word x a)) :
    ((a - x.imgBase).toNat < x.codeSize.toNat → exec i s = .next (s.setWho w { x with pc := a })) ∧
    (¬(a - x.imgBase).toNat < x.codeSize.toNat → exec i s = .next ((s.ctlFault w 2 word).reap)) :=
  ⟨fun hi => h.trans (congrArg _ (if_pos (decide_eq_true hi))),
    fun hi => h.trans (congrArg _ (if_neg (mt of_decide_eq_true hi)))⟩

/-! ### BR, LOOP and ENDL of a context that issues -/

theorem exec_br_of_reserved (h : Issues s w b) (hf : 16 ≤ f.src1.toNat ∨ f.dst ≠ 0 ∨ f.src2 ≠ 0) :
    exec (.br w f) s = .next ((s.ctlFault w 1 (sWord 8 f)).reap) := by
  have hbad : (decide (16 ≤ f.src1.toNat) || f.dst != 0 || f.src2 != 0) = true := by
    simpa [or_assoc] using hf
  change execBr w f s = _
  rw [execBr, hbad, controller_of_reserved h]

theorem exec_br_of_issues (h : Issues s w b) (h1 : f.src1.toNat < 16) (hd : f.dst = 0) (h2 : f.src2 = 0) :
    exec (.br w f) s = .next (if (s.who w).pred (f.src1.toNat % 8) ≠ f.src1.toNat.testBit 3 then
      s.takeBranch w (sWord 8 f) (s.who w) (target (s.who w) f) else s.setWho w (s.who w).next) := by
  have hgood : (decide (16 ≤ f.src1.toNat) || f.dst != 0 || f.src2 != 0) = false := by
    simp [h1, hd, h2]
  change execBr w f s = _
  simp only [execBr, hgood, controller_of_issues h, bne_iff_ne]

theorem exec_loop_of_issues (h : Issues s w b) (hd : f.dst.toNat < 4) (h2 : f.src2 = 0) :
    exec (.loop w f) s = .next (if ((s.who w).sreg f.src1.toNat).truncate 32 = 0 then
      s.takeBranch w (sWord 9 f) ((s.who w).setLc f.dst.toNat (((s.who w).sreg f.src1.toNat).truncate 32)) (target (s.who w) f)
      else s.setWho w ((s.who w).setLc f.dst.toNat (((s.who w).sreg f.src1.toNat).truncate 32)).next) := by
  have hgood : (decide (4 ≤ f.dst.toNat) || f.src2 != 0) = false := by
    simp [hd, h2]
  change execLoop w f s = _
  rw [execLoop, hgood, controller_of_issues h]

theorem exec_endl_of_issues (h : Issues s w b) (hd : f.dst.toNat < 4) (h1 : f.src1 = 0) (h2 : f.src2 = 0) :
    exec (.endl w f) s = .next (if (s.who w).lcReg f.dst.toNat - 1 ≠ 0 then
      s.takeBranch w (sWord 10 f) ((s.who w).setLc f.dst.toNat ((s.who w).lcReg f.dst.toNat - 1)) (target (s.who w) f)
      else s.setWho w ((s.who w).setLc f.dst.toNat ((s.who w).lcReg f.dst.toNat - 1)).next) := by
  have hgood : (decide (4 ≤ f.dst.toNat) || f.src1 != 0 || f.src2 != 0) = false := by
    simp [hd, h1, h2]
  change execEndl w f s = _
  rw [execEndl, hgood, controller_of_issues h]

/-- LOOP tests the low 32 bits of its scalar (R401). -/
theorem truncate32_eq_zero_iff (v : Word) : v.truncate 32 = 0 ↔ v.toNat % 2 ^ 32 = 0 := by
  rw [← BitVec.toNat_inj, BitVec.toNat_setWidth]
  rfl

/-- Settles O7: a taken branch is `takeBranch`, whose check reads only the image, which a loop counter's write keeps. -/
theorem branchAndLoopTargets : Obligations.BranchAndLoopTargets := by
  intro s w b f h x dest inside
  refine ⟨exec_br_of_reserved h, fun h2 => ⟨fun h1 hd => ?br, fun hd => ⟨fun hz => ?loopZero, fun hz => ?loopRuns,
    fun h1 hc => ?endlBack, fun h1 hc => ?endlDone⟩⟩⟩
  case br =>
    have hbr := exec_br_of_issues h h1 hd h2
    exact ⟨fun hp => exec_of_takeBranch (hbr.trans (congrArg _ (if_pos hp))),
      fun hp => hbr.trans (congrArg _ (if_neg (not_not_intro hp)))⟩
  case loopZero =>
    have hn := (truncate32_eq_zero_iff _).mpr hz
    have hloop := exec_loop_of_issues h hd h2
    rw [if_pos hn, hn] at hloop
    exact exec_of_takeBranch hloop
  case loopRuns =>
    exact (exec_loop_of_issues h hd h2).trans (congrArg _ (if_neg (mt (truncate32_eq_zero_iff _).mp hz)))
  case endlBack =>
    exact exec_of_takeBranch ((exec_endl_of_issues h hd h1 h2).trans (congrArg _ (if_pos (sub_ne_zero.mpr hc))))
  case endlDone =>
    have hn : x.lcReg f.dst.toNat - 1 = 0 := sub_eq_zero.mpr hc
    rw [Leaves, exec_endl_of_issues h hd h1 h2, if_neg (not_not_intro hn), hn]

end Sys2Proof.Laws
end

section
/-! SUPPORT. The queue of waiting commands and the canonical form of memory through `exec` and `step`, and the statements about them. -/

namespace Sys2Proof.Laws

open Sys2Proof.Machine

variable {canon : Prop} {queue : List Instr}

/-- Every command keeps the queue and, under `canon`, the canonical form of memory: row by row of the table. -/
theorem exec_kept (i : Instr) {s : State} (hk : Kept canon queue s) : KeptOut canon queue (exec i s) :=
  match i with
  | .aluAdd w f => execAluAdd_kept w f s hk
  | .aluSub w f => execAluSub_kept w f s hk
  | .aluAnd w f => execAluAnd_kept w f s hk
  | .aluOr w f => execAluOr_kept w f s hk
  | .aluXor w f => execAluXor_kept w f s hk
  | .aluSll w f => execAluSll_kept w f s hk
  | .aluSrl w f => execAluSrl_kept w f s hk
  | .aluSra w f => execAluSra_kept w f s hk
  | .aluMin w f => execAluMin_kept w f s hk
  | .aluMax w f => execAluMax_kept w f s hk
  | .aluMinu w f => execAluMinu_kept w f s hk
  | .aluMaxu w f => execAluMaxu_kept w f s hk
  | .aluSlt w f => execAluSlt_kept w f s hk
  | .aluSltu w f => execAluSltu_kept w f s hk
  | .aluClz w f => execAluClz_kept w f s hk
  | .aluPopc w f => execAluPopc_kept w f s hk
  | .addi w f => execAddi_kept w f s hk
  | .lih w f => execLih_kept w f s hk
  | .ld w f => execLd_kept w f s hk
  | .st w f => execSt_kept w f s hk
  | .aadd w f => execAadd_kept w f s hk
  | .amov w f => execAmov_kept w f s hk
  | .aget w f => execAget_kept w f s hk
  | .cmppEq w f => execCmppEq_kept w f s hk
  | .cmppNe w f => execCmppNe_kept w f s hk
  | .cmppLt w f => execCmppLt_kept w f s hk
  | .cmppLtu w f => execCmppLtu_kept w f s hk
  | .cmppLe w f => execCmppLe_kept w f s hk
  | .cmppLeu w f => execCmppLeu_kept w f s hk
  | .pand w f => execPand_kept w f s hk
  | .por w f => execPor_kept w f s hk
  | .pnot w f => execPnot_kept w f s hk
  | .br w f => execBr_kept w f s hk
  | .loop w f => execLoop_kept w f s hk
  | .endl w f => execEndl_kept w f s hk
  | .taskPush w f => execTaskPush_kept w f s hk
  | .taskPop w f => execTaskPop_kept w f s hk
  | .syncKwait w f => execSyncKwait_kept w f s hk
  | .syncKjoin w f => execSyncKjoin_kept w f s hk
  | .syncKread w f => execSyncKread_kept w f s hk
  | .syncFence w f => execSyncFence_kept w f s hk
  | .syncStep w f => execSyncStep_kept w f s hk
  | .sysRd w f => execSysRd_kept w f s hk
  | .sysWr w f => execSysWr_kept w f s hk
  | .sysEnd w f => execSysEnd_kept w f s hk
  | .sysNop w f => execSysNop_kept w f s hk
  | .mxF w f => execMxF_kept w f s hk
  | .mxH w f => execMxH_kept w f s hk
  | .mxQ w f => execMxQ_kept w f s hk
  | .mxRib32 w f => execMxRib32_kept w f s hk
  | .mxRib16 w f => execMxRib16_kept w f s hk
  | .accOpen w f => execAccOpen_kept w f s hk
  | .accDrain w f => execAccDrain_kept w f s hk
  | .veAdd w f => execVeAdd_kept w f s hk
  | .veSub w f => execVeSub_kept w f s hk
  | .veMul w f => execVeMul_kept w f s hk
  | .veNeg w f => execVeNeg_kept w f s hk
  | .veAbs w f => execVeAbs_kept w f s hk
  | .veCmpEq w f => execVeCmpEq_kept w f s hk
  | .veCmpLt w f => execVeCmpLt_kept w f s hk
  | .veCmpLe w f => execVeCmpLe_kept w f s hk
  | .veSel w f => execVeSel_kept w f s hk
  | .veMax w f => execVeMax_kept w f s hk
  | .veMin w f => execVeMin_kept w f s hk
  | .veCvt w f => execVeCvt_kept w f s hk
  | .veRecip w f => execVeRecip_kept w f s hk
  | .veSqrt w f => execVeSqrt_kept w f s hk
  | .veRsqrt w f => execVeRsqrt_kept w f s hk
  | .veLog2 w f => execVeLog2_kept w f s hk
  | .veLn w f => execVeLn_kept w f s hk
  | .veExp w f => execVeExp_kept w f s hk
  | .veSigmoid w f => execVeSigmoid_kept w f s hk
  | .veSum w f => execVeSum_kept w f s hk
  | .veSumsq w f => execVeSumsq_kept w f s hk
  | .veLsum w f => execVeLsum_kept w f s hk
  | .veLse w f => execVeLse_kept w f s hk
  | .veSoftmax w f => execVeSoftmax_kept w f s hk
  | .veMaxr w f => execVeMaxr_kept w f s hk
  | .veMinr w f => execVeMinr_kept w f s hk
  | .vePow w f => execVePow_kept w f s hk
  | .veTopk w f => execVeTopk_kept w f s hk
  | .veTopkmerge w f => execVeTopkmerge_kept w f s hk
  | .veCombine w f => execVeCombine_kept w f s hk
  | .veKltopk w f => execVeKltopk_kept w f s hk
  | .veQz w f => execVeQz_kept w f s hk
  | .veAmax w f => execVeAmax_kept w f s hk
  | .veDq w f => execVeDq_kept w f s hk
  | .veXpose w f => execVeXpose_kept w f s hk
  | .updStat w f => execUpdStat_kept w f s hk
  | .updApply w f => execUpdApply_kept w f s hk
  | .reelIn w f => execReelIn_kept w f s hk
  | .reelOut w f => execReelOut_kept w f s hk
  | .reelPsend w f => execReelPsend_kept w f s hk
  | .syncPrecv w f => execSyncPrecv_kept w f s hk
  | .twBits w f => execTwBits_kept w f s hk
  | .twMask w f => execTwMask_kept w f s hk
  | .twUnif w f => execTwUnif_kept w f s hk
  | .shutScan w f => execShutScan_kept w f s hk
  | .shutEmit w f => execShutEmit_kept w f s hk
  | .shutTake w f => execShutTake_kept w f s hk
  | .shutFree w f => execShutFree_kept w f s hk
  | .operationStart w e held us => execOperationStart_kept w e held us s hk
  | .knotSignal w e => execKnotSignal_kept w e s hk
  | .levelInterval l work => execLevelInterval_kept l work s hk
  | .drizzleGapExpiry l => execDrizzleGapExpiry_kept l s hk
  | .stepCommit job u => execStepCommit_kept job u s hk
  | .jobBoundary job u => execJobBoundary_kept job u s hk
  | .stepReplay job => execStepReplay_kept job s hk
  | .commandRingPoll client => execCommandRingPoll_kept client s hk
  | .submit client ref entry => execSubmit_kept client ref entry s hk
  | .stop client ref entry => execStop_kept client ref entry s hk
  | .resume client ref entry => execResume_kept client ref entry s hk
  | .abort client ref entry => execAbort_kept client ref entry s hk
  | .jobPlace job => execJobPlace_kept job s hk
  | .fillWaitLimit job => execFillWaitLimit_kept job s hk
  | .jobSwitchOut job => execJobSwitchOut_kept job s hk
  | .jobSwitchIn job => execJobSwitchIn_kept job s hk
  | .pageMigrate job page => execPageMigrate_kept job page s hk
  | .completionWrite client => execCompletionWrite_kept client s hk
  | .jobRcfgWrite fn v => execJobRcfgWrite_kept fn v s hk
  | .functionLevelReset fn => execFunctionLevelReset_kept fn s hk
  | .busMasterEnableClear fn => execBusMasterEnableClear_kept fn s hk
  | .remoteCommand src ref entry => execRemoteCommand_kept src ref entry s hk
  | .registerWrite r v fails => execRegisterWrite_kept r v fails s hk
  | .intakePoll job => execIntakePoll_kept job s hk
  | .checkpointReport job => execCheckpointReport_kept job s hk
  | .checkpointFail job => execCheckpointFail_kept job s hk
  | .evaluation job toks => execEvaluation_kept job toks s hk
  | .campaignEnd job => execCampaignEnd_kept job s hk
  | .reportWrite job => execReportWrite_kept job s hk
  | .shuttleRecord h slot => execShuttleRecord_kept h slot s hk
  | .shuttleCredit h => execShuttleCredit_kept h s hk
  | .creditReturn frame => execCreditReturn_kept frame s hk
  | .shuttleRewind h => execShuttleRewind_kept h s hk
  | .pipeMessage h data => execPipeMessage_kept h data s hk
  | .pipeCommitNotice h => execPipeCommitNotice_kept h s hk
  | .flitReceive link flit fixed => execFlitReceive_kept link flit fixed s hk
  | .linkReplayRequest link fseq => execLinkReplayRequest_kept link fseq s hk
  | .laneSpare link lane => execLaneSpare_kept link lane s hk
  | .linkFail link => execLinkFail_kept link s hk
  | .linkRetrain link trained => execLinkRetrain_kept link trained s hk
  | .linkDiscovery link theirs nlink => execLinkDiscovery_kept link theirs nlink s hk
  | .neighbourLost g => execNeighbourLost_kept g s hk
  | .collectiveStart job entry u => execCollectiveStart_kept job entry u s hk
  | .collectiveData h data => execCollectiveData_kept h data s hk
  | .contributionDigest h dig u => execContributionDigest_kept h dig u s hk
  | .collectiveAck h => execCollectiveAck_kept h s hk
  | .resend h => execResend_kept h s hk
  | .scatterAdd h data => execScatterAdd_kept h data s hk
  | .collectiveEnd job entry => execCollectiveEnd_kept job entry s hk
  | .fabricSyncSend => execFabricSyncSend_kept s hk
  | .fabricSync link tag => execFabricSync_kept link tag s hk
  | .delayMeasure => execDelayMeasure_kept s hk
  | .delayReq link tag => execDelayReq_kept link tag s hk
  | .delayResp link tag => execDelayResp_kept link tag s hk
  | .fabricHoldover => execFabricHoldover_kept s hk
  | .cxlPortLost port => execCxlPortLost_kept port s hk
  | .cxlRetrain port trained ids => execCxlRetrain_kept port trained ids s hk
  | .cxlGiveUp port => execCxlGiveUp_kept port s hk
  | .hbmRequest stack unit store => execHbmRequest_kept stack unit store s hk
  | .atomicFp32Add addr v => execAtomicFp32Add_kept addr v s hk
  | .atomicFp32Max addr v => execAtomicFp32Max_kept addr v s hk
  | .atomicU64Add addr v => execAtomicU64Add_kept addr v s hk
  | .atomicByteOr addr v => execAtomicByteOr_kept addr v s hk
  | .patrolScrub addr found => execPatrolScrub_kept addr found s hk
  | .spotTestDue site => execSpotTestDue_kept site s hk
  | .spotTestDeferExpiry site => execSpotTestDeferExpiry_kept site s hk
  | .spotTestComplete site d1 d2 d3 => execSpotTestComplete_kept site d1 d2 d3 s hk
  | .spotTestRetry site => execSpotTestRetry_kept site s hk
  | .twinSampleCompare sample dig => execTwinSampleCompare_kept sample dig s hk
  | .commandCoreFail core => execCommandCoreFail_kept core s hk
  | .openReq from_ cred nc => execOpenReq_kept from_ cred nc s hk
  | .openProof sid proof => execOpenProof_kept sid proof s hk
  | .close m => execClose_kept m s hk
  | .sessionChallengeExpiry sid => execSessionChallengeExpiry_kept sid s hk
  | .sessionIdleTimeout sid => execSessionIdleTimeout_kept sid s hk
  | .credentialBarExpiry cred => execCredentialBarExpiry_kept cred s hk
  | .regRead m r => execRegRead_kept m r s hk
  | .regWrite m r v fails => execRegWrite_kept m r v fails s hk
  | .baroRead m seq => execBaroRead_kept m seq s hk
  | .baroClear m seq => execBaroClear_kept m seq s hk
  | .jobCmd m entry => execJobCmd_kept m entry s hk
  | .jobDone m => execJobDone_kept m s hk
  | .credSet m idx entry => execCredSet_kept m idx entry s hk
  | .credDel m idx => execCredDel_kept m idx s hk
  | .bind m client v => execBind_kept m client v s hk
  | .fwWrite m image => execFwWrite_kept m image s hk
  | .arbCommit m => execArbCommit_kept m s hk
  | .measExtend m n d => execMeasExtend_kept m n d s hk
  | .release m key sig => execRelease_kept m key sig s hk
  | .claim t key cred sig => execClaim_kept t key cred sig s hk
  | .provision key sig => execProvision_kept key sig s hk
  | .revoke key sig => execRevoke_kept key sig s hk
  | .getVersion p => execGetVersion_kept p s hk
  | .getCapabilities p => execGetCapabilities_kept p s hk
  | .negotiateAlgorithms p => execNegotiateAlgorithms_kept p s hk
  | .getDigests p => execGetDigests_kept p s hk
  | .getCertificate p slot off len => execGetCertificate_kept p slot off len s hk
  | .challenge p slot nonce => execChallenge_kept p slot nonce s hk
  | .getMeasurements p idx signed nonce => execGetMeasurements_kept p idx signed nonce s hk
  | .entdaa da => execEntdaa_kept da s hk
  | .rstdaa => execRstdaa_kept s hk
  | .ethernetLinkUp => execEthernetLinkUp_kept s hk
  | .ethernetLinkDown => execEthernetLinkDown_kept s hk
  | .arpRequest target sender mac => execArpRequest_kept target sender mac s hk
  | .icmpEcho dst src data => execIcmpEcho_kept dst src data s hk
  | .bypass tdi => execBypass_kept tdi s hk
  | .idcode => execIdcode_kept s hk
  | .samplePreload preload => execSamplePreload_kept preload s hk
  | .extest pins => execExtest_kept pins s hk
  | .dbgNonce => execDbgNonce_kept s hk
  | .dbgToken t => execDbgToken_kept t s hk
  | .dbgTrigClaim => execDbgTrigClaim_kept s hk
  | .dbgTrigRelease => execDbgTrigRelease_kept s hk
  | .ptpSync m => execPtpSync_kept m s hk
  | .ptpDelayResp m => execPtpDelayResp_kept m s hk
  | .ptpHoldover => execPtpHoldover_kept s hk
  | .ptpDelayRequest => execPtpDelayRequest_kept s hk
  | .ppsInEdge => execPpsInEdge_kept s hk
  | .ppsOut => execPpsOut_kept s hk
  | .compareFire u => execCompareFire_kept u s hk
  | .startUp => execStartUp_kept s hk
  | .startUpAbort => execStartUpAbort_kept s hk
  | .perstDeassert => execPerstDeassert_kept s hk
  | .perstAssert => execPerstAssert_kept s hk
  | .configRequest ask => execConfigRequest_kept ask s hk
  | .moduleReset => execModuleReset_kept s hk
  | .brownoutSave cause saveDecivolts => execBrownoutSave_kept cause saveDecivolts s hk
  | .saveEnd allVerified vinGood => execSaveEnd_kept allVerified vinGood s hk
  | .dvfsUpdate temps watts => execDvfsUpdate_kept temps watts s hk
  | .dvfsStep frame => execDvfsStep_kept frame s hk
  | .powerSample watts vin10mv tj hot saveDecivolts => execPowerSample_kept watts vin10mv tj hot saveDecivolts s hk
  | .thermalEmergency => execThermalEmergency_kept s hk
  | .thermalShutdown saveDecivolts => execThermalShutdown_kept saveDecivolts s hk
  | .thermAlert tj => execThermAlert_kept tj s hk
  | .vin48Removed => execVin48Removed_kept s hk

theorem exec_pending {i : Instr} {s t : State} (h : exec i s = .next t) : t.pending = s.pending :=
  ((exec_kept (canon := False) i ⟨rfl, False.elim⟩).next t h).1

theorem exec_wf {i : Instr} {s t : State} (hs : Mem.wf s.mem = true) (h : exec i s = .next t) : Mem.wf t.mem = true :=
  ((exec_kept (canon := True) i ⟨rfl, fun _ => hs⟩).next t h).2 trivial

/-- Settles O58: each command's `Kept` lemma holds the queue. -/
theorem commandsLeaveTheQueue : Obligations.CommandsLeaveTheQueue := fun _ _ _ => exec_pending

/-- Settles O57: a step is a tick, which writes no memory, or a command, whose `Kept` lemma holds the canonical form. -/
theorem stepKeepsMemoryCanonical : Obligations.StepKeepsMemoryCanonical := by
  intro s t hs h
  unfold step at h
  split at h
  · next i rest _ => exact exec_wf (s := { s with pending := rest }) hs h
  · obtain rfl := Host.Outcome.next.inj h
    exact (st_tick_kept (canon := True) (queue := s.pending) s ⟨rfl, fun _ => hs⟩).2 trivial

/-- Settles O1: `step` on a non-empty queue is `exec` by definition. -/
theorem stepRunsFront : Obligations.StepRunsFront := fun _ _ => rfl

/-- Settles O56: at reset no byte is listed. -/
theorem resetMemoryCanonical : Obligations.ResetMemoryCanonical := rfl

/-- Settles O60: each word is decoded by computation. -/
theorem wordsDecode : Obligations.WordsDecode := by
  intro w
  refine ⟨?_, ?_, ?_, ?_, ?_, ?_, ?_, ?_, ?_, ?_⟩ <;> rfl

end Sys2Proof.Laws
end

section
/-! SUPPORT. The scalar, address and predicate instructions of a context that issues (R371, R400). -/

namespace Sys2Proof.Laws

open Sys2Proof.Machine Sys2Proof.Claims

variable {s : State} {w : Who} {b : Job} {f : SForm}

/-! ### The hard-wired registers and the predicates -/

theorem pred_of_ne_zero (x : Ctx) {n : Nat} (hn : n ≠ 0) : x.pred n = x.p.getLsbD n := by
  simp [Ctx.pred, hn, BitVec.testBit_toNat]

/-- A predicate's bit after a write: its own bit takes the value, every other bit stays. -/
theorem getLsbD_setP (x : Ctx) {n m : Nat} (v : Bool) (hn : n ≠ 0) (hm : m < 8) :
    (x.setP n v).p.getLsbD m = if m = n then v else x.p.getLsbD m := by
  have hbit : (1#8 <<< n).getLsbD m = decide (m = n) := by
    rw [BitVec.getLsbD_shiftLeft, BitVec.getLsbD_one, decide_eq_true hm, Bool.true_and, Bool.eq_iff_iff]
    simp only [Bool.and_eq_true, Bool.not_eq_true', decide_eq_false_iff_not, decide_eq_true_eq]
    omega
  have hmask : (if v then 1#8 <<< n else 0).getLsbD m = (v && decide (m = n)) := by
    cases v
    · exact BitVec.getLsbD_zero
    · exact hbit
  simp only [Ctx.setP, if_neg hn, BitVec.getLsbD_or, BitVec.getLsbD_and, BitVec.getLsbD_not, hbit, hmask, hm]
  by_cases h : m = n <;> simp [h]

theorem pred_setP (x : Ctx) {n m : Nat} (v : Bool) (hn : n ≠ 0) (hm : m < 8) (h0 : m ≠ 0) :
    (x.setP n v).pred m = if m = n then v else x.pred m := by
  rw [pred_of_ne_zero _ h0, pred_of_ne_zero _ h0, getLsbD_setP x v hn hm]

/-- Settles O5: a write to s0 or p0 is dropped, and a predicate's write is one bit of P. -/
theorem hardWiredRegisters : Obligations.HardWiredRegisters := by
  intro x
  refine ⟨rfl, rfl, fun _ => rfl, fun _ => rfl, fun n v h0 hn => ?same, fun n m v hn hm hne => ?other⟩
  case same => rw [pred_setP x v (by omega) hn (by omega), if_pos rfl]
  case other =>
    rcases eq_or_ne n 0 with rfl | h0
    · rfl
    rcases eq_or_ne m 0 with rfl | hm0
    · rfl
    rw [pred_setP x v h0 hm hm0, if_neg hne]

/-! ### Instructions whose whole effect is on their own context -/

theorem immUsed_eq_false (h : f.imm.extractLsb' 0 37 = 0) : immUsed f = false := by
  simp [immUsed, h]

section
variable {i : Instr} {word : Word} {bad : Bool} {n : Nat}

theorem leaves_of_scalar (eff : Ctx → Ctx) (h : Issues s w b) (he : exec i s = s.scalar w word bad eff) (hb : bad = false) :
    Leaves i s w (eff (s.who w)) := by
  rw [Leaves, he, State.scalar, hb, controller_of_issues h]

theorem writesS_of_alu2 (op : Word → Word → Word) {op' : Word → Word → Word} (h : Issues s w b) (hi : f.imm.extractLsb' 0 37 = 0)
    (he : exec i s = s.alu2 w f n op) (hop : ∀ a b, op a b = op' a b) : WritesS i s w f op' := by
  obtain rfl : op = op' := funext₂ hop
  exact leaves_of_scalar _ h he (immUsed_eq_false hi)

theorem writesS_of_alu1 (op : Word → Word) (h : Issues s w b) (h2 : f.src2 = 0) (hi : f.imm.extractLsb' 0 37 = 0)
    (he : exec i s = s.alu1 w f n op) : WritesS i s w f fun a _ => op a :=
  leaves_of_scalar _ h he (by simp [h2, immUsed_eq_false hi])

theorem writesP_of_cmpp (op : Word → Word → Bool) {op' : Word → Word → Bool} (h : Issues s w b) (hd : f.dst.toNat < 8)
    (hi : f.imm.extractLsb' 0 37 = 0) (he : exec i s = s.cmpp w f n op) (hop : ∀ a b, op a b = op' a b) :
    WritesP i s w f op' := by
  obtain rfl : op = op' := funext₂ hop
  exact leaves_of_scalar _ h he (by simp [hd, immUsed_eq_false hi])

end

/-- Settles O3: the fourteen are one shape, and the model's comparisons are those of the integers the words spell. -/
theorem aluTwoOperandResults : Obligations.AluTwoOperandResults := by
  intro s w b f h hi
  have same (op : Word → Word → Word) (a b : Word) : op a b = op a b := rfl
  refine ⟨writesS_of_alu2 _ h hi rfl (same _), writesS_of_alu2 _ h hi rfl (same _), writesS_of_alu2 _ h hi rfl (same _),
    writesS_of_alu2 _ h hi rfl (same _), writesS_of_alu2 _ h hi rfl (same _),
    writesS_of_alu2 (fun a b => a <<< (b.toNat % 64)) h hi rfl (same _),
    writesS_of_alu2 (fun a b => a >>> (b.toNat % 64)) h hi rfl (same _),
    writesS_of_alu2 (fun a b => a.sshiftRight (b.toNat % 64)) h hi rfl (same _),
    writesS_of_alu2 (fun a b => if a.slt b then a else b) h hi rfl ?min,
    writesS_of_alu2 (fun a b => if a.slt b then b else a) h hi rfl ?max,
    writesS_of_alu2 (fun a b => if a.ult b then a else b) h hi rfl ?minu,
    writesS_of_alu2 (fun a b => if a.ult b then b else a) h hi rfl ?maxu,
    writesS_of_alu2 (fun a b => if a.slt b then 1 else 0) h hi rfl ?slt,
    writesS_of_alu2 (fun a b => if a.ult b then 1 else 0) h hi rfl ?sltu⟩
  case min | max | slt => simp [BitVec.slt_iff_toInt_lt]
  case minu | maxu | sltu => simp [BitVec.ult]

/-- Settles O4: each row is `scalar` with its reserved fields zero. -/
theorem scalarAddressAndPredicateResults : Obligations.ScalarAddressAndPredicateResults := by
  refine ⟨fun s w b f h => ?registers, fun s w b f h hd hi => ?predicates⟩
  case registers =>
    refine ⟨fun h2 hi => ⟨writesS_of_alu1 (fun a => BitVec.ofNat 64 (clz a)) h h2 hi rfl,
        writesS_of_alu1 (fun a => BitVec.ofNat 64 (popc a)) h h2 hi rfl⟩,
      fun h2 => leaves_of_scalar (fun x => x.setS f.dst.toNat (x.sreg f.src1.toNat + f.imm.signExtend 64)) h rfl ?addi,
      fun h2 hi => leaves_of_scalar (fun x => x.setS f.dst.toNat
        (f.imm.extractLsb' 0 21 ++ (x.sreg f.src1.toNat).extractLsb' 0 43)) h rfl ?lih,
      fun hd h1 => leaves_of_scalar (fun x => x.setA f.dst.toNat (x.areg f.src1.toNat +
        (x.sreg f.src2.toNat).truncate 57 + (f.imm.extractLsb' 0 37).signExtend 57)) h rfl ?aadd,
      fun hd h2 => leaves_of_scalar (fun x => x.setA f.dst.toNat
        ((x.sreg f.src1.toNat).truncate 57 + (f.imm.extractLsb' 0 37).signExtend 57)) h rfl ?amov,
      fun h1 h2 hi => leaves_of_scalar (fun x => x.setS f.dst.toNat ((x.areg f.src1.toNat).zeroExtend 64)) h rfl ?aget⟩
    case addi => simp [h2]
    case lih => simp [h2, hi]
    case aadd => simp [hd, h1]
    case amov => simp [hd, h2]
    case aget => simp [h1, h2, immUsed_eq_false hi]
  case predicates =>
    refine ⟨writesP_of_cmpp (· == ·) h hd hi rfl ?eq, writesP_of_cmpp (· != ·) h hd hi rfl ?ne,
      writesP_of_cmpp BitVec.slt h hd hi rfl ?lt, writesP_of_cmpp BitVec.ult h hd hi rfl ?ltu,
      writesP_of_cmpp BitVec.sle h hd hi rfl ?le, writesP_of_cmpp BitVec.ule h hd hi rfl ?leu,
      fun h1 h2 => ⟨leaves_of_scalar (fun x => x.setP f.dst.toNat (x.pred f.src1.toNat && x.pred f.src2.toNat)) h rfl ?pand,
        leaves_of_scalar (fun x => x.setP f.dst.toNat (x.pred f.src1.toNat || x.pred f.src2.toNat)) h rfl ?por⟩,
      fun h1 h2 => leaves_of_scalar (fun x => x.setP f.dst.toNat (!x.pred f.src1.toNat)) h rfl ?pnot⟩
    case pand | por => simp [hd, h1, h2, immUsed_eq_false hi]
    case pnot => simp [hd, h1, h2, immUsed_eq_false hi]
    case eq | ne =>
      intro a b
      rw [Bool.eq_iff_iff]
      simp
    case lt | ltu | le | leu => exact fun _ _ => rfl

end Sys2Proof.Laws
end

section
/-! SUPPORT. Loads and stores of the bobbin, tasks, knots, steps and context registers of a context that issues, and the stalls
and faults of one that does not (R383, R388 to R392, R400 to R403). -/

namespace Sys2Proof.Laws

open Sys2Proof.Machine Sys2Proof.Claims

variable {s : State} {w : Who} {b : Job} {f : SForm} {i : Instr} {word : Word} {bad : Bool}

theorem exec_of_controller (eff : Job → Ctx → State) (h : Issues s w b)
    (he : exec i s = .next (s.controller w word bad eff)) (hb : bad = false) : exec i s = .next (eff b (s.who w)) := by
  rw [he, hb, controller_of_issues h]

/-! ### LD and ST -/

theorem leBytes_getElem? (n v j : Nat) (hj : j < n) : (leBytes n v)[j]? = some (BitVec.ofNat 8 (v / 256 ^ j)) := by
  induction n generalizing v j with
  | zero => omega
  | succ n ih =>
    cases j with
    | zero => simp [leBytes]
    | succ j => simp [leBytes, ih (v / 256) j (by omega), Nat.pow_succ', Nat.div_div_eq_div_mul]

theorem memBytes_getElem? (m : List Host.Cell) (k : Nat) {n j : Nat} (hj : j < n) :
    (Mem.bytes m k n)[j]? = some (Mem.get m (k + j)) := by
  simp [Mem.bytes, hj]

/-- Each byte of a number that was written reads back. -/
theorem memGet_setNat {m : List Host.Cell} (h : Mem.wf m = true) (k v : Nat) {n j : Nat} (hj : j < n) :
    Mem.get (Mem.setNat m k n v) (k + j) = BitVec.ofNat 8 (v / 256 ^ j) := by
  have hb := memBytes_setBytes (leBytes n v) k h
  rw [leBytes_length] at hb
  have hj' := memBytes_getElem? (Mem.setNat m k n v) k hj
  rw [Mem.setNat, hb, leBytes_getElem? n v j hj] at hj'
  exact (Option.some.inj hj').symm

theorem ofNat_div_eq_extractLsb' (v : Word) (j : Nat) : BitVec.ofNat 8 (v.toNat / 256 ^ j) = v.extractLsb' (8 * j) 8 := by
  apply BitVec.eq_of_toNat_eq
  rw [BitVec.toNat_ofNat, BitVec.extractLsb'_toNat, Nat.shiftRight_eq_div_pow, Nat.pow_mul]

theorem exec_st_of_issues (h : Issues s w b) (h1 : f.src1.toNat < 16) (hd : f.dst = 0) :
    exec (.st w f) s = .next (match s.memKey w (s.who w) f with
      | some k => (s.setWho w (s.who w).next).putAt k (leBytes 8 ((s.who w).sreg f.src2.toNat).toNat)
      | none => s.setWho w (s.who w).next) :=
  exec_of_controller (fun _ x => match s.memKey w x f with
    | some k => (s.setWho w x.next).putAt k (leBytes 8 (x.sreg f.src2.toNat).toNat)
    | none => s.setWho w x.next) h rfl (by simp [h1, hd])

/-- Settles O6: ST is one write of the eight bytes at the key, whose bytes then read back. -/
theorem loadAndStoreBobbin : Obligations.LoadAndStoreBobbin := by
  refine ⟨fun s w b f h h1 => ⟨fun h2 => ?ld, fun hd hk => ?outside, fun hd hm k hk => ?st⟩, fun m k n v hm hv => ?readBack⟩
  case ld =>
    exact leaves_of_scalar (fun x => x.setS f.dst.toNat (match s.memKey w x f with
      | some k => BitVec.ofNat 64 (s.natAt k 8)
      | none => 0)) h rfl (by simp [h1, h2])
  case outside => rw [Leaves, exec_st_of_issues h h1 hd, hk]
  case st =>
    refine ⟨Mem.setNat s.mem k 8 ((s.who w).sreg f.src2.toNat).toNat, ?_, fun j hj => ?_, fun a ha => memGet_setNat_outside hm _ ha⟩
    · rw [exec_st_of_issues h h1 hd, hk]
      rfl
    · rw [memGet_setNat hm k _ hj, ofNat_div_eq_extractLsb']
  case readBack => rw [memNat_setNat hm, Nat.mod_eq_of_lt hv]

/-! ### Tasks -/

/-- Settles O9: the two outcomes of TASK.PUSH by the deque's length, and those of TASK.POP by what `popTask` takes. -/
theorem taskPushAndPopOwn : Obligations.TaskPushAndPopOwn := by
  intro s w b f h h2 hi x l q
  have push (hd : f.dst = 0) := exec_of_controller (i := .taskPush w f) (fun b x =>
    let ok := decide ((b.deques.get l []).length < 1024)
    let t := s.setWho w (x.setP f.src2.toNat ok).next
    if ok then t.setJob x.job { b with deques := b.deques.set l (b.deques.get l [] ++ [x.sreg f.src1.toNat]) [] } else t)
    h rfl (by simp [hd, h2, immUsed_eq_false hi])
  have pop (h1 : f.src1 = 0) := exec_of_controller (i := .taskPop w f) (fun b x =>
    match s.popTask l b with
    | some r => (s.setWho w ((x.setS f.dst.toNat r.1).setP f.src2.toNat true).next).setJob x.job { b with deques := r.2 }
    | none => s.setWho w ((x.setS f.dst.toNat 0).setP f.src2.toNat false).next)
    h rfl (by simp [h1, h2, immUsed_eq_false hi])
  refine ⟨fun hd hq => ?room, fun hd hq => ?full, fun h1 v hv => ?own, fun h1 hn => ?empty⟩
  case room => rw [push hd]; simp [q, hq, x]
  case full => rw [Leaves, push hd]; simp [q, Nat.not_lt.mpr hq, x]
  case own =>
    have hp : s.popTask l b = some (v, b.deques.set l q.dropLast []) := by simp only [State.popTask, q, hv]
    rw [pop h1, hp]
  case empty => rw [Leaves, pop h1, hn]

/-! ### Knots -/

theorem mem_maskKnots (m : Word) (k : Nat) : k ∈ maskKnots m ↔ k < 64 ∧ m.getLsbD k = true := by
  rw [maskKnots, List.mem_filter, List.mem_range, BitVec.testBit_toNat]

/-- A written value that is not the table's rest value reads back, whatever the table. -/
theorem get_set_of_ne {α : Type} [DecidableEq α] (t : Table α) (k : Nat) {v d : α} (h : v ≠ d) : (t.set k v d).get k d = v := by
  rw [Table.set, if_neg h, Table.get_put_same]

theorem set_ne_nil {α : Type} [DecidableEq α] (t : Table α) (k : Nat) {v d : α} (h : v ≠ d) : t.set k v d ≠ [] := by
  intro he
  have hg := get_set_of_ne t k h
  rw [he] at hg
  exact h hg.symm

/-- A context that is not the empty one reads back where it was written, and so does its spindle. -/
theorem spn_setCtx_of_ne (s : State) (l c : Nat) {x : Ctx} (h : x ≠ {}) :
    (s.setCtx l c x).spn l = { s.spn l with ctxs := (s.spn l).ctxs.set c x {} } := by
  refine get_set_of_ne _ _ fun he => set_ne_nil (s.spn l).ctxs c h ?_
  exact congrArg Spindle.ctxs he

theorem ctx_setCtx_of_ne (s : State) (l c : Nat) {x : Ctx} (h : x ≠ {}) : (s.setCtx l c x).ctx l c = x := by
  rw [State.ctx, spn_setCtx_of_ne s l c h]
  exact get_set_of_ne _ _ h

theorem settleJoins_of_none {l c : Nat} (h : (s.ctx l c).joins.find? Join.ready = none) (n : Nat) : s.settleJoins l c n = s := by
  cases n with
  | zero => rfl
  | succ n => rw [State.settleJoins, h]

theorem capture_done_of_pending {x : Ctx} {k : Nat} (h : (x.knot k).pending = true) : (x.capture k).done = none := by
  simp [Ctx.capture, h]

/-- A join on a mask that names a pending knot is not ready. -/
theorem not_ready_of_pending {x : Ctx} {m : Word} {k : Nat} (hk : k < 64) (hm : m.getLsbD k = true)
    (hp : (x.knot k).pending = true) (kout arm : Nat) :
    (Join.mk kout arm ((maskKnots m).map x.capture)).ready = false := by
  rw [Join.ready, List.all_eq_false]
  exact ⟨x.capture k, List.mem_map_of_mem ((mem_maskKnots m k).mpr ⟨hk, hm⟩), by simp [capture_done_of_pending hp]⟩

@[simp] theorem armKnot_joins (x : Ctx) (k : Nat) : (x.armKnot k).joins = x.joins := by
  rw [Ctx.armKnot, Ctx.setKnot]
  split <;> rfl

theorem exec_syncKjoin_of_issues (h : Issues s w b) (hd : f.dst = 0) (h2 : f.src2 = 0) (hi : f.imm.extractLsb' 6 31 = 0) :
    exec (.syncKjoin w f) s = .next (
      let x := s.who w
      let k := (f.imm.extractLsb' 0 6).toNat
      let y := x.armKnot k
      if (x.knot k).pending then s
      else (s.setWho w { y with joins := y.joins ++ [Join.mk k (y.knot k).arm ((maskKnots (x.sreg f.src1.toNat)).map x.capture)] }.next).settleJoins
        w.lspn.toNat w.ctx.toNat (y.joins.length + 1)) := by
  have hgood : (f.dst != 0 || f.src2 != 0 || f.imm.extractLsb' 6 31 != 0) = false := by simp [hd, h2, hi]
  change execSyncKjoin w f s = _
  rw [execSyncKjoin, hgood, controller_of_issues h]

/-- Settles O10: each waits by the knots that its mask names; a join on a pending knot stays after KJOIN. -/
theorem knotInstructionResults : Obligations.KnotInstructionResults := by
  intro s w b f h h2 x
  refine ⟨fun hd hi => ?kwait, fun h1 hi => ?kread, fun hd h1 hi => ?fence, fun hd hi => ?kjoin⟩
  case kwait =>
    have hx := exec_of_controller (i := .syncKwait w f) (fun _ x =>
      if (maskKnots (x.sreg f.src1.toNat)).any fun k => (x.knot k).pending then s else s.setWho w x.next)
      h rfl (by simp [hd, h2, immUsed_eq_false hi])
    refine ⟨fun hk => hx.trans (congrArg _ (if_neg ?_)), fun ⟨k, hk, hm, hp⟩ => hx.trans (congrArg _ (if_pos ?_))⟩
    · simpa [mem_maskKnots] using hk
    · exact List.any_eq_true.mpr ⟨k, (mem_maskKnots _ k).mpr ⟨hk, hm⟩, hp⟩
  case kread =>
    have hx := exec_of_controller (i := .syncKread w f) (fun _ x =>
      let k := x.knot (f.imm.extractLsb' 0 6).toNat
      if k.pending then s else s.setWho w (x.setS f.dst.toNat (k.code.zeroExtend 64)).next) h rfl (by simp [h1, h2, hi])
    exact ⟨fun hp => hx.trans (congrArg _ (if_neg (ne_true_of_eq_false hp))), fun hp => hx.trans (congrArg _ (if_pos hp))⟩
  case fence =>
    have hx := exec_of_controller (i := .syncFence w f) (fun _ x =>
      if (s.spn w.lspn.toNat).busy w.ctx.toNat then s else s.setWho w x.next)
      h rfl (by simp [anyUsed, hd, h1, h2, immUsed_eq_false hi])
    exact ⟨fun hp => hx.trans (congrArg _ (if_neg (ne_true_of_eq_false hp))), fun hp => hx.trans (congrArg _ (if_pos hp))⟩
  case kjoin =>
    intro k
    have hx := exec_syncKjoin_of_issues h hd h2 hi
    refine ⟨fun hp => hx.trans (congrArg _ (if_pos hp)), fun hk hp hj ⟨m, hm64, hmask, hmp⟩ => ?_⟩
    have hready := not_ready_of_pending hm64 hmask hmp k ((x.armKnot k).knot k).arm
    refine (hx.trans (congrArg _ (if_neg (ne_true_of_eq_false hp)))).trans (congrArg _ ?_)
    rw [settleJoins_of_none]
    · simp [hj, x, k, maskKnots]
    · rw [State.setWho, ctx_setCtx_of_ne _ _ _ fun he => by simpa [Ctx.next] using congrArg Ctx.joins he]
      change List.find? Join.ready ((x.armKnot k).joins ++ [Join.mk k _ _]) = none
      rw [armKnot_joins, hj, List.nil_append, List.find?_singleton, hready]
      rfl

/-! ### Steps and the end -/

/-- Settles O11: SYNC.STEP by the open tiles of the context, SYS.END by the other contexts of the job. -/
theorem stepBoundaryAndEnd : Obligations.StepBoundaryAndEnd := by
  intro s w b f h hd h1 h2 hi x t
  have hused : anyUsed f = false := by simp [anyUsed, hd, h1, h2, immUsed_eq_false hi]
  refine ⟨fun hb => ?step, fun hb => ?sysEnd⟩
  case step =>
    have hx := exec_of_controller (i := .syncStep w f) (fun b x =>
      if (s.spn w.lspn.toNat).busy w.ctx.toNat then s
      else if b.steps && x.tiles.any fun t => t.2.st ≠ .closed then (s.ctlFault w 4 (sWord 0x21 (f.func 4))).reap
      else s.setWho w { x.next with status := .atStep }) h rfl hused
    replace hx := hx.trans (congrArg _ (if_neg (ne_true_of_eq_false hb)))
    refine ⟨fun hc => hx.trans (congrArg _ (if_neg ?_)), fun hs ht => hx.trans (congrArg _ (if_pos ?_))⟩
    · rcases hc with hs | ht
      · simp [hs]
      · simpa using fun _ => fun n p => ht (n, p)
    · simpa [hs] using ht
  case sysEnd =>
    have hx := exec_of_controller (i := .sysEnd w f) (fun b x =>
      if (s.spn w.lspn.toNat).busyAll w.ctx.toNat then s
      else
        let t := s.setWho w { x.next with status := .ended }
        if b.steps && (t.ctxsOf x.job).all fun c => c.2.2.status = .ended then (t.endJob x.job 0).reap else t) h rfl hused
    replace hx := hx.trans (congrArg _ (if_neg (ne_true_of_eq_false hb)))
    refine ⟨fun hc => hx.trans (congrArg _ (if_neg ?_)), fun hs ht => hx.trans (congrArg _ (if_pos ?_))⟩
    · rcases hc with hs | ⟨c, hc, hne⟩
      · simp [hs]
      · simpa using fun _ => ⟨_, _, _, hc, hne⟩
    · simpa [hs] using fun l c y => ht (l, c, y)

/-! ### Context registers -/

/-- A reserved code leaves its field (R17). -/
theorem fldPut_of_bad {d : Fld} {v : Nat} (old : Nat) (h : d.bad (bitsOf v d.lo d.w) = true) : d.put v old = old := by
  rw [Fld.put, if_pos h]

/-- UPD_CTL's one field lies at bit 0: a code below 128 is stored, and reads back. -/
theorem updFields_put_mod {v old : Nat} (h : v % 256 ≤ 127) : putFields updFields v old % 256 = v % 256 := by
  have hv : ¬127 < v % 256 := by omega
  simp [updFields, putFields, Fld.put, bitsOf, hv]
  omega

theorem updFields_put_of_reserved {v old : Nat} (h : 127 < v % 256) : putFields updFields v old = old :=
  fldPut_of_bad old (decide_eq_true (by simpa [bitsOf] using h))

/-- Settles O12: SYS.RD and SYS.WR are `ctxRead` and `Ctx.write`, whose cases are those of the access codes. -/
theorem contextRegisterAccess : Obligations.ContextRegisterAccess := by
  intro s w b f h h2 x n
  refine ⟨fun h1 hi hn => ?rd, fun hd hi hn => ?wr, fun hd h1 hi => ?nop, fun v =>
    ⟨fun n hn => ?readOnly, rfl, rfl, rfl, fun hv => ?reserved, fun hv => ?stored, rfl, fun hv => ?step⟩⟩
  case rd =>
    have hnum : ctxNum f ≤ 9 := Nat.le_of_lt_succ hn
    exact leaves_of_scalar (fun x => x.setS f.dst.toNat (s.ctxRead w x (ctxNum f))) h rfl
      (by simp [h1, h2, hi, hnum])
  case wr =>
    have hnum : ctxNum f ≤ 9 := Nat.le_of_lt_succ hn
    exact exec_of_controller (fun b x => s.setWho w (x.write b.steps (ctxNum f) (x.sreg f.src1.toNat)).next) h rfl
      (by simp [hd, h2, hi, hnum])
  case nop => exact leaves_of_scalar id h rfl (by simp [anyUsed, hd, h1, h2, immUsed_eq_false hi])
  case readOnly => rcases hn with rfl | rfl | rfl <;> rfl
  case reserved =>
    change { x with updCtl := _ } = x
    rw [updFields_put_of_reserved hv, BitVec.ofNat_toNat, BitVec.setWidth_eq]
  case stored =>
    change (BitVec.ofNat 32 _).toNat % 256 = _
    rw [BitVec.toNat_ofNat, Nat.mod_mod_of_dvd _ (by decide), updFields_put_mod hv]
  case step => exact if_neg (by simpa using hv)

/-! ### Stalls and faults -/

theorem ctlStart_of_stalled (h : s.power.phase ≠ .ready ∨ (s.who w).status ≠ .running ∨
      (∀ b, s.job? (s.who w).job = some b → b.endWith.isSome = true ∨ b.fault.isSome = true ∨ b.stopping = true) ∨
      s.testing w.lspn.toNat = true) : s.ctlStart w = .stall := by
  simp only [State.ctlStart]
  split
  · rfl
  · next b hb =>
    refine if_pos ?_
    rcases h with hp | hr | hj | ht
    · simp [State.on, hp]
    · simp [hr]
    · rcases hj b hb with he | hf | hs
      · simp [he]
      · simp [hf]
      · simp [hs]
    · simp [ht]

theorem exec_of_stall (h : s.ctlStart w = .stall) (eff : Job → Ctx → State)
    (he : exec i s = .next (s.controller w word bad eff)) : exec i s = .next s := by
  rw [he, State.controller, h]

theorem exec_of_fetchFault (h : s.ctlStart w = .fetchFault) (eff : Job → Ctx → State)
    (he : exec i s = .next (s.controller w word bad eff)) : exec i s = .next ((s.ctlFault w 3 0).reap) := by
  rw [he, State.controller, h]

theorem exec_of_reserved (h : Issues s w b) (eff : Job → Ctx → State)
    (he : exec i s = .next (s.controller w word bad eff)) (hb : bad = true) :
    exec i s = .next ((s.ctlFault w 1 word).reap) := by
  rw [he, hb, controller_of_reserved h]

theorem ctlStart_of_unfetchable (hr : s.power.phase = .ready) (hrun : (s.who w).status = .running)
    (hj : s.job? (s.who w).job = some b) (hres : b.st = .resident) (hend : b.endWith = none) (hfault : b.fault = none)
    (hstop : b.stopping = false) (htest : s.testing w.lspn.toNat = false)
    (hp : ∀ p, s.locate w.lspn.toNat w.ctx.toNat (s.who w).pc.toNat = some p → p.ex = false) : s.ctlStart w = .fetchFault := by
  simp only [State.ctlStart, hj]
  rw [if_neg (by simp [State.on_eq s hr, hrun, hend, hfault, hstop, hres, htest])]
  split
  · next p hl => rw [hp p hl]; rfl
  · rfl

/-- Settles O13: the frame of a controller instruction by how its context stands. -/
theorem controllerStallsAndFaults : Obligations.ControllerStallsAndFaults := by
  intro s w b f g
  refine ⟨fun h => ?stall, fun hr hrun hj hres hend hfault hstop htest hp => ?fetch, fun h => ?illegal⟩
  case stall =>
    have hs := ctlStart_of_stalled h
    exact ⟨exec_of_stall hs _ rfl, exec_of_stall hs _ rfl, exec_of_stall hs _ rfl, exec_of_stall hs _ rfl,
      exec_of_stall hs _ rfl, exec_of_stall hs _ rfl, exec_of_stall hs _ rfl, exec_of_stall hs _ rfl, exec_of_stall hs _ rfl,
      exec_of_stall hs _ rfl, exec_of_stall hs _ rfl, exec_of_stall hs _ rfl⟩
  case fetch =>
    have hs := ctlStart_of_unfetchable hr hrun hj hres hend hfault hstop htest hp
    exact ⟨exec_of_fetchFault hs _ rfl, exec_of_fetchFault hs _ rfl⟩
  case illegal =>
    refine ⟨fun hi => exec_of_reserved h _ rfl ?_, fun h2 => exec_of_reserved h _ rfl ?_,
      fun h1 => exec_of_reserved h _ rfl ?_, fun hd => exec_of_reserved h _ rfl ?_, fun hd => exec_of_reserved h _ rfl ?_,
      fun hn => exec_of_reserved h _ rfl ?_, fun hm => exec_of_reserved h _ rfl ?_⟩
    · exact bne_iff_ne.mpr hi
    · exact bne_iff_ne.mpr h2
    · simp [h1]
    · simp [hd]
    · simp [hd]
    · exact Bool.or_eq_true_iff.mpr (.inr (decide_eq_true hn))
    · exact decide_eq_true (by simpa [EForm.modf, bitsOf] using hm)

end Sys2Proof.Laws
end

section
/-! SUPPORT. The issue of the E-format instructions (R376 to R380, R384, R399): one table of what the issue of each row needs, and
what `issueOp` then does. -/

namespace Sys2Proof.Laws

open Sys2Proof.Machine Sys2Proof.Claims

variable {s : State} {w : Who} {b : Job} {f : EForm} {i : Instr} {iss : Iss}

/-! ### The rows -/

/-- What the issue of an E-format instruction needs to know of it. -/
def issOf (s : State) : Instr → Option (Who × Iss)
  | .mxF w f | .mxH w f | .mxQ w f | .mxRib32 w f | .mxRib16 w f => some (w, mxIss f)
  | .accOpen w f => some (w,
    { major := 0x11, form := f, bad := f.modf 24 2 = 3 || 5 ≤ f.modf 7 3 || f.modf 5 2 = 3 || f.modf 0 5 ≠ 0
      engine := .array, params := [f.modf 19 5]
      descs := if f.modf 5 2 = 0 && (s.who w).sreg (f.modf 19 5) = 0 then [] else [f.desc.toNat] })
  | .accDrain w f => some (w,
    { major := 0x12, form := f, bad := f.modf 0 26 ≠ 0, engine := .array, descs := [f.desc.toNat], nested := drainNested })
  | .veAdd w f | .veSub w f | .veMul w f | .veCmpEq w f | .veCmpLt w f | .veCmpLe w f | .veSel w f | .veMax w f | .veMin w f
  | .veMaxr w f | .veMinr w f => some (w, veIss f true false false)
  | .veNeg w f | .veAbs w f | .veCvt w f | .veRecip w f | .veSqrt w f | .veRsqrt w f | .veLog2 w f | .veLn w f | .veSigmoid w f
  | .veSum w f | .veSumsq w f | .veLsum w f => some (w, veIss f false false false)
  | .veExp w f | .veLse w f => some (w, veIss f true true false)
  | .veSoftmax w f => some (w, veIss f true true true)
  | .vePow w f => some (w,
    { major := 0x15, form := f, bad := f.modf 24 2 ≠ 0, engine := .vector, descs := [f.desc.toNat, f.modf 16 8], ve := true })
  | .veTopk w f | .veTopkmerge w f | .veCombine w f => some (w, rankIss f)
  | .veKltopk w f => some (w,
    { major := 0x17, form := f, bad := f.modf 24 1 = 1, engine := .vector
      descs := [f.desc.toNat, f.modf 16 8, f.modf 8 8, f.modf 0 8], ve := true })
  | .veQz w f | .veAmax w f | .veDq w f | .veXpose w f => some (w, qzIss f)
  | .updStat w f => some (w, updIss f [])
  | .updApply w f => some (w, updIss f [f.modf 19 5, f.modf 14 5])
  | .reelIn w f | .reelOut w f => some (w, reelIss s w f)
  | .reelPsend w f => some (w,
    { major := 0x1B, form := f, bad := pipeBad f, engine := .outReel, descs := [f.desc.toNat], params := [f.modf 14 5] })
  | .syncPrecv w f => some (w,
    { major := 0x1E, form := f, bad := pipeBad f, engine := .inReel, descs := [], params := [f.modf 14 5] })
  | .twBits w f | .twMask w f | .twUnif w f => some (w, twIss f)
  | .shutScan w f | .shutEmit w f => some (w, shutIss f true [f.desc.toNat, f.modf 16 8])
  | .shutTake w f | .shutFree w f => some (w, shutIss f false [])
  | _ => none

/-- Setting a field of MOD to the code that it holds changes nothing. -/
theorem op_of_field {lo n v : Nat} (h : bitsOf f.mod.toNat lo n = v) : f.op lo n v = f := by
  have hlt : v < 2 ^ n := h ▸ Nat.mod_lt _ (by positivity)
  have hle : v * 2 ^ lo ≤ f.mod.toNat := by
    calc v * 2 ^ lo ≤ f.mod.toNat / 2 ^ lo * 2 ^ lo := by
          rw [← h, bitsOf, Nat.shiftRight_eq_div_pow]
          exact Nat.mul_le_mul_right _ (Nat.mod_le _ _)
      _ ≤ f.mod.toNat := Nat.div_mul_le_self _ _
  rw [EForm.op, h, Nat.mod_eq_of_lt hlt, Nat.sub_add_cancel hle, BitVec.ofNat_toNat, BitVec.setWidth_eq]

/-- A row with a code field, well formed, issues with its form as it stands. -/
theorem wf_field {m lo n v : Nat} (hs : i.sRow = none) (he : i.eRow = some (w, f, m, some (lo, n, v))) (hwf : i.wf = true) :
    bitsOf f.mod.toNat lo n = v := by
  simpa [Instr.wf, hs, he] using hwf

/-- A well-formed E-format instruction issues by its row of the table. -/
theorem exec_of_issOf (hwf : i.wf = true) (h : issOf s i = some (w, iss)) : exec i s = .next (s.issue w i iss) := by
  cases i
  case mxF | mxH | mxQ | mxRib32 | mxRib16 | veAdd | veSub | veMul | veCmpEq | veCmpLt | veCmpLe | veSel | veMax | veMin | veMaxr
    | veMinr | veNeg | veAbs | veCvt | veRecip | veSqrt | veRsqrt | veLog2 | veLn | veSigmoid | veSum | veSumsq | veLsum | veExp
    | veLse | veSoftmax | veTopk | veTopkmerge | veCombine | veQz | veAmax | veDq | veXpose | updStat | updApply | twBits | twMask
    | twUnif | shutScan | shutEmit | shutTake | shutFree =>
    obtain ⟨rfl, rfl⟩ := Prod.mk.inj (Option.some.inj h)
    have hf := op_of_field (wf_field rfl rfl hwf)
    conv_rhs => rw [← hf]
    rfl
  case accOpen | accDrain | vePow | veKltopk | reelIn | reelOut | reelPsend | syncPrecv =>
    obtain ⟨rfl, rfl⟩ := Prod.mk.inj (Option.some.inj h)
    rfl
  all_goals nomatch h

/-! ### The engine of a reel instruction, and the reserved fields -/

theorem reelIss_engine (s : State) (w : Who) (f : EForm) : (reelIss s w f).engine = reelEngine s w f := by
  have hkind (d : Line) : lineBytes d 0 0 = 0x11 ↔ d.extractLsb' 0 8 = 0x11 := by
    rw [← BitVec.toNat_inj, BitVec.extractLsb'_toNat]
    rfl
  have hdir (d : Line) : (lineBytes d 1 1).testBit 0 = d.getLsbD 8 := by
    simp [lineBytes, bitsOf, BitVec.testBit_toNat]
  simp only [reelIss, reelEngine, captured, hdir, Bool.and_eq_true, decide_eq_true_eq, hkind]
  congr

theorem modf_one_eq_zero_iff (f : EForm) (lo : Nat) : f.modf lo 1 = 0 ↔ f.modf lo 1 ≠ 1 := by
  simp only [EForm.modf, bitsOf]
  omega

/-- Two neighbouring one-bit fields are a field of two bits. -/
theorem modf_two_eq_zero_iff (f : EForm) (lo : Nat) : f.modf lo 2 = 0 ↔ f.modf (lo + 1) 1 ≠ 1 ∧ f.modf lo 1 ≠ 1 := by
  simp only [EForm.modf, bitsOf, Nat.shiftRight_succ]
  omega

theorem veIss_plain_bad (f : EForm) (b : Bool) : (veIss f b false false).bad = !decide (f.modf 24 2 = 0) := by
  simp [veIss, modf_two_eq_zero_iff]

theorem veIss_tone_bad (f : EForm) (b : Bool) : (veIss f b true false).bad = !decide (f.modf 24 1 = 0) := by
  simp [veIss, modf_one_eq_zero_iff]

/-- The claims' table of the rows tells the form, the engine and the reserved fields of what each issues. -/
theorem issOf_of_engineRow {e : Engine} {good : Bool} (h : engineRow s i = some (w, f, e, good)) :
    ∃ iss, issOf s i = some (w, iss) ∧ iss.form = f ∧ iss.engine = e ∧ iss.bad = !good := by
  cases i
  case reelIn | reelOut =>
    obtain ⟨rfl, rfl, rfl, rfl⟩ := by simpa [engineRow] using h
    exact ⟨_, rfl, rfl, reelIss_engine _ _ _, by simp [reelIss]⟩
  case mxF | mxH | mxQ | mxRib32 | mxRib16 =>
    obtain ⟨rfl, rfl, rfl, rfl⟩ := by simpa [engineRow] using h
    exact ⟨_, rfl, rfl, rfl, by simp [mxIss, Bool.or_assoc]⟩
  case veAdd | veSub | veMul | veNeg | veAbs | veCmpEq | veCmpLt | veCmpLe | veSel | veMax | veMin | veCvt | veRecip | veSqrt
    | veRsqrt | veLog2 | veLn | veSigmoid | veSum | veSumsq | veLsum | veMaxr | veMinr =>
    obtain ⟨rfl, rfl, rfl, rfl⟩ := by simpa [engineRow] using h
    exact ⟨_, rfl, rfl, rfl, veIss_plain_bad _ _⟩
  case veExp | veLse =>
    obtain ⟨rfl, rfl, rfl, rfl⟩ := by simpa [engineRow] using h
    exact ⟨_, rfl, rfl, rfl, veIss_tone_bad _ _⟩
  case accOpen =>
    obtain ⟨rfl, rfl, rfl, rfl⟩ := by simpa [engineRow] using h
    exact ⟨_, rfl, rfl, rfl, by rw [Bool.eq_iff_iff]; simp [or_assoc]⟩
  case twBits | twMask | twUnif =>
    obtain ⟨rfl, rfl, rfl, rfl⟩ := by simpa [engineRow] using h
    exact ⟨_, rfl, rfl, rfl, by simp [twIss, Bool.or_assoc, Bool.or_comm]⟩
  case accDrain | veSoftmax | vePow | veTopk | veTopkmerge | veCombine | veKltopk | veQz | veAmax | veDq | veXpose
    | updStat | updApply | reelPsend | syncPrecv | shutScan | shutEmit | shutTake | shutFree =>
    obtain ⟨rfl, rfl, rfl, rfl⟩ := by simpa [engineRow] using h
    exact ⟨_, rfl, rfl, rfl, by simp [veIss, rankIss, qzIss, updIss, pipeBad, shutIss, modf_one_eq_zero_iff]⟩
  all_goals nomatch h

/-! ### What `issueOp` does -/

theorem exec_of_issOf_issues (h : Issues s w b) (hwf : i.wf = true) (hi : issOf s i = some (w, iss)) (hb : iss.bad = false) :
    exec i s = .next (s.issueOp w i iss b (s.who w)) := by
  rw [exec_of_issOf hwf hi, State.issue, hb, controller_of_issues h]

theorem issueOp_of_pending (x : Ctx) (hp : (x.knot iss.form.kout.toNat).pending = true) : s.issueOp w i iss b x = s := by
  simp only [State.issueOp, if_pos hp]

theorem issueOp_of_skips (x : Ctx) (hp : (x.knot iss.form.kout.toNat).pending = false) (he : x.executes iss.form = false) :
    s.issueOp w i iss b x = s.setWho w ((x.armKnot iss.form.kout.toNat).setKnot iss.form.kout.toNat
      { (x.armKnot iss.form.kout.toNat).knot iss.form.kout.toNat with pending := false, code := 0, bad := false }).next := by
  simp only [State.issueOp, hp, he, Bool.not_false, if_true, Bool.false_eq_true, if_false]

theorem issueOp_of_full (x : Ctx) (hp : (x.knot iss.form.kout.toNat).pending = false) (he : x.executes iss.form = true)
    (hr : (s.spn w.lspn.toNat).room iss.engine w.ctx.toNat = false) : s.issueOp w i iss b x = s := by
  simp only [State.issueOp, hp, he, hr, Bool.not_false, Bool.not_true, if_true, Bool.false_eq_true, if_false]

/-- Settles O16: the first three outcomes of `issueOp`, for every row. -/
theorem engineInstructionsWaitOrSkip : Obligations.EngineInstructionsWaitOrSkip := by
  intro s i w b f e hwf h hrow
  obtain ⟨iss, hi, rfl, rfl, hbad⟩ := issOf_of_engineRow hrow
  have hx := exec_of_issOf_issues h hwf hi hbad
  exact ⟨fun hp => hx.trans (congrArg _ (issueOp_of_pending _ hp)), fun hp he => hx.trans (congrArg _ (issueOp_of_skips _ hp he)),
    fun hp he hr => hx.trans (congrArg _ (issueOp_of_full _ hp he hr))⟩

/-! ### Captured descriptors -/

theorem put_mem {α : Type} {t : Table α} {k : Nat} {v : α} {p : Nat × α} (h : p ∈ t.put k v) : p = (k, v) ∨ p ∈ t := by
  induction t with
  | nil => simpa [Table.put] using h
  | cons a r ih =>
    unfold Table.put at h
    split_ifs at h
    · simpa using (List.mem_cons.mp h).imp_right fun hr => Or.inr hr
    · simpa using h
    · rcases List.mem_cons.mp h with rfl | hr
      · simp
      · exact (ih hr).imp_right (List.mem_cons_of_mem _)

theorem mem_put_self {α : Type} (t : Table α) (k : Nat) (v : α) : (k, v) ∈ t.put k v := by
  induction t with
  | nil => simp [Table.put]
  | cons a r ih =>
    unfold Table.put
    split_ifs <;> simp [ih]

theorem mem_put_of_ne {α : Type} {t : Table α} {k : Nat} {v : α} {p : Nat × α} (h : p ∈ t) (hk : p.1 ≠ k) : p ∈ t.put k v := by
  induction t with
  | nil => simp at h
  | cons a r ih =>
    unfold Table.put
    rcases List.mem_cons.mp h with rfl | hr
    · split_ifs <;> simp_all
    · split_ifs
      · exact List.mem_cons_of_mem _ hr
      · exact List.mem_cons_of_mem _ h
      · exact List.mem_cons_of_mem _ (ih hr)

/-- A table filled from a list whose entries are `(n, g n)` holds exactly such entries. -/
theorem foldl_put_values {α : Type} {g : Nat → α} : ∀ {ps : List (Nat × α)} {t : Table α}, (∀ p ∈ ps, p.2 = g p.1) →
    (∀ p ∈ t, p.2 = g p.1) → ∀ p ∈ ps.foldl (fun t p => t.put p.1 p.2) t, p.2 = g p.1
  | [], _, _, ht => ht
  | a :: ps, t, hp, ht => foldl_put_values (ps := ps) (fun p h => hp p (List.mem_cons_of_mem _ h)) fun p h => by
    rcases put_mem h with rfl | h
    · exact hp a List.mem_cons_self
    · exact ht p h

/-- Each number of the list is in the table that is filled from it. -/
theorem mem_foldl_put {α : Type} {g : Nat → α} {n : Nat} : ∀ {ps : List (Nat × α)} {t : Table α}, (∀ p ∈ ps, p.2 = g p.1) →
    (n, g n) ∈ t ∨ (n, g n) ∈ ps → (n, g n) ∈ ps.foldl (fun t p => t.put p.1 p.2) t
  | [], _, _, h => h.elim id fun h => nomatch h
  | a :: ps, t, hp, h => mem_foldl_put (ps := ps) (fun p h => hp p (List.mem_cons_of_mem _ h)) (by
    have ha := hp a List.mem_cons_self
    by_cases hn : n = a.1
    · subst hn
      exact .inl (ha ▸ mem_put_self t a.1 a.2)
    · rcases h with h | h
      · exact .inl (mem_put_of_ne h hn)
      · exact .inr ((List.mem_cons.mp h).resolve_left fun he => hn (congrArg Prod.fst he)))

/-- Every captured descriptor is the one of the number that names it. -/
theorem captures_values (s : State) (w : Who) (iss : Iss) :
    ∀ p ∈ s.captures w.lspn.toNat w.ctx.toNat iss, p.2 = captured s w p.1 := by
  refine foldl_put_values (fun p hp => ?_) (by simp)
  rcases List.mem_append.mp hp with hp | hp <;> obtain ⟨n, -, rfl⟩ := List.mem_map.mp hp <;> rfl

/-- Every descriptor that the word names is captured. -/
theorem mem_captures (s : State) (w : Who) {iss : Iss} {n : Nat} (hn : n ∈ iss.descs) :
    (n, captured s w n) ∈ s.captures w.lspn.toNat w.ctx.toNat iss := by
  refine mem_foldl_put (g := captured s w) (fun p hp => ?_) (.inr (List.mem_append_left _ (List.mem_map.mpr ⟨n, hn, rfl⟩)))
  rcases List.mem_append.mp hp with hp | hp <;> obtain ⟨n, -, rfl⟩ := List.mem_map.mp hp <;> rfl

/-- Where no running operation has a write to show, a descriptor is captured as memory holds it. -/
theorem captured_of_noWrites (h : ∀ r ∈ s.runs, r.writes = []) (n : Nat) :
    captured s w n = s.descOf w.lspn.toNat w.ctx.toNat n := by
  have hv : s.fileView w.lspn.toNat w.ctx.toNat = s := by
    have hnil : (s.runs.zipIdx.flatMap fun r =>
        r.1.writes.filter fun v => Config.capturesNew (4 * w.lspn.toNat + w.ctx.toNat) (s.ctx w.lspn.toNat w.ctx.toNat).seq r.2 (v.1 / 64)) = [] := by
      refine List.flatMap_eq_nil_iff.mpr fun r hr => ?_
      rw [h r.1 (List.fst_mem_of_mem_zipIdx hr), List.filter_nil]
    rw [State.fileView, hnil]
    rfl
  rw [captured, hv]

/-! ### What an issued operation is -/

/-- A row that executes with room queues its operation (R376 to R380, R384, R399). -/
theorem queues_of_issOf (h : Issues s w b) (hi : issOf s i = some (w, iss)) (hb : iss.bad = false) :
    Queues (exec i s) i s w iss.form iss.engine iss.ve iss.descs iss.params := by
  intro hwf hp he hr
  have hx := exec_of_issOf_issues h hwf hi hb
  simp only [State.issueOp, hp, he, hr, Bool.not_true, Bool.false_eq_true, if_false] at hx
  refine ⟨_, _, hx, rfl, rfl, rfl, rfl, rfl, rfl, rfl, rfl, rfl, rfl, rfl, rfl, rfl, rfl, fun n hn => mem_captures s w hn,
    captures_values s w iss, fun hw p hp => ?_, fun hd => ?_⟩
  · rw [captures_values s w iss p hp, captured_of_noWrites hw]
  · dsimp only [QOp.isDrain] at hd ⊢
    simp [hd]

/-- The descriptors of a row whose SRC_B is not read under TONE. -/
theorem veIss_tone_descs (f : EForm) (logout : Bool) : (veIss f true true logout).descs =
    if f.modf 25 1 = 1 then [f.desc.toNat, f.modf 16 8] else [f.desc.toNat, f.modf 16 8, f.modf 8 8] := by
  by_cases h : f.modf 25 1 = 1 <;> simp [veIss, h]

theorem queues_of_tone (h : Issues s w b) {logout : Bool} (hi : issOf s i = some (w, veIss f true true logout))
    (hb : (veIss f true true logout).bad = false) : Queues (exec i s) i s w f .vector true
      (if f.modf 25 1 = 1 then [f.desc.toNat, f.modf 16 8] else [f.desc.toNat, f.modf 16 8, f.modf 8 8]) [] := by
  rw [← veIss_tone_descs f logout]
  exact queues_of_issOf h hi hb

theorem queues_of_reel (h : Issues s w b) (hi : issOf s i = some (w, reelIss s w f)) (h0 : f.modf 0 26 = 0) :
    Queues (exec i s) i s w f (reelEngine s w f) false [f.desc.toNat] [] := by
  rw [← reelIss_engine]
  exact queues_of_issOf h hi (by simp [reelIss, h0])

/-- Settles O15: every row issues by its row of the table, with its reserved fields zero. -/
theorem engineInstructionsIssue : Obligations.EngineInstructionsIssue := by
  intro s w b f h
  dsimp only
  have q {i : Instr} (iss : Iss) (hb : iss.bad = false) (hi : issOf s i = some (w, iss)) :
      Queues (exec i s) i s w iss.form iss.engine iss.ve iss.descs iss.params := queues_of_issOf h hi hb
  refine ⟨fun h24 h4 h2 h0 => ?mx, fun h24 h7 h5 h0 => ?accOpen, fun h0 => ?drain, fun h24 => ?ve, fun h24 => ?tone,
    queues_of_tone h (logout := true) rfl (by simp [veIss]), fun h24 h8 => ?rank, fun h0 => ?qz, fun h0 => ?upd,
    fun h0 => ⟨queues_of_reel h rfl h0, queues_of_reel h rfl h0⟩, fun h24 h0 => ?pipe, fun h0 hz h31 => ?tw, fun h0 => ?two, fun h0 => ?one⟩
  case mx =>
    have hb : (mxIss f).bad = false := by simp [mxIss, h24, h4, h2, h0]
    exact ⟨q _ hb rfl, q _ hb rfl, q _ hb rfl, q _ hb rfl, q _ hb rfl⟩
  case accOpen =>
    have ho := q (i := .accOpen w f) _ (by simp [h24, h7, h5, h0]) rfl
    simpa only [Bool.and_eq_true, decide_eq_true_eq] using ho
  case drain => exact q (i := .accDrain w f) _ (by simp [h0]) rfl
  case ve =>
    have ha : (veIss f true false false).bad = false := by simp [veIss_plain_bad, h24]
    have hb : (veIss f false false false).bad = false := by simp [veIss_plain_bad, h24]
    exact ⟨q _ ha rfl, q _ ha rfl, q _ ha rfl, q _ hb rfl, q _ hb rfl, q _ ha rfl, q _ ha rfl, q _ ha rfl, q _ ha rfl, q _ ha rfl,
      q _ ha rfl, q _ hb rfl, q _ hb rfl, q _ hb rfl, q _ hb rfl, q _ hb rfl, q _ hb rfl, q _ hb rfl, q _ hb rfl, q _ hb rfl,
      q _ hb rfl, q _ ha rfl, q _ ha rfl, q (i := .vePow w f) _ (by simp [h24]) rfl⟩
  case tone =>
    have hb : (veIss f true true false).bad = false := by simp [veIss_tone_bad, h24]
    exact ⟨queues_of_tone h rfl hb, queues_of_tone h rfl hb, q (i := .veKltopk w f) _ (by simp [h24]) rfl⟩
  case rank =>
    have hb : (rankIss f).bad = false := by simp [rankIss, h24, h8]
    exact ⟨q _ hb rfl, q _ hb rfl, q _ hb rfl⟩
  case qz =>
    have hb : (qzIss f).bad = false := by simp [qzIss, h0]
    exact ⟨q _ hb rfl, q _ hb rfl, q _ hb rfl, q _ hb rfl⟩
  case upd => exact ⟨q (updIss f []) (by simp [updIss, h0]) rfl, q (updIss f _) (by simp [updIss, h0]) rfl⟩
  case pipe => exact ⟨q (i := .reelPsend w f) _ (by simp [pipeBad, h24, h0]) rfl, q (i := .syncPrecv w f) _ (by simp [pipeBad, h24, h0]) rfl⟩
  case tw =>
    have hb : (twIss f).bad = false := by simp [twIss, h0, hz, h31]
    exact ⟨q _ hb rfl, q _ hb rfl, q _ hb rfl⟩
  case two => exact ⟨q (shutIss f true _) (by simp [shutIss, h0]) rfl, q (shutIss f true _) (by simp [shutIss, h0]) rfl⟩
  case one => exact ⟨q (shutIss f false _) (by simp [shutIss, h0]) rfl, q (shutIss f false _) (by simp [shutIss, h0]) rfl⟩

end Sys2Proof.Laws
end

section
/-! SUPPORT. The words of the controller's instructions in both directions (R374, R375, R400 to R422). -/

namespace Sys2Proof.Laws

open Sys2Proof.Machine Sys2Proof.Claims

variable {i : Instr} {w : Who} {m : Nat}

/-! ### The fields of a word -/

theorem sWord_major (f : SForm) (hm : m < 64) : ((sWord m f).extractLsb' 58 6).toNat = m := by
  simp (disch := decide) only [sWord, BitVec.extractLsb'_append_eq_of_le]
  simp [BitVec.extractLsb'_eq_self, Nat.mod_eq_of_lt hm]

theorem sWord_func (f : SForm) : (sWord m f).extractLsb' 37 6 = f.imm.extractLsb' 37 6 := by
  simp (disch := decide) only [sWord, BitVec.extractLsb'_append_eq_of_add_le]

theorem ofWord_sWord (f : SForm) : SForm.ofWord (sWord m f) = f := by
  simp (disch := decide) only [SForm.ofWord, sWord, BitVec.extractLsb'_append_eq_of_le, BitVec.extractLsb'_append_eq_of_add_le,
    Nat.sub_self, Nat.reduceSub, BitVec.extractLsb'_eq_self]

theorem sWord_ofWord (v : Word) : sWord (v.extractLsb' 58 6).toNat (SForm.ofWord v) = v := by
  simp (disch := decide) only [sWord, SForm.ofWord, BitVec.ofNat_toNat, BitVec.setWidth_eq,
    BitVec.extractLsb'_append_extractLsb'_eq_extractLsb']
  exact BitVec.extractLsb'_eq_self

theorem eWord_major (f : EForm) (hm : m < 64) : ((eWord m f).extractLsb' 58 6).toNat = m := by
  simp (disch := decide) only [eWord, BitVec.extractLsb'_append_eq_of_le]
  simp [BitVec.extractLsb'_eq_self, Nat.mod_eq_of_lt hm]

theorem ofWord_eWord (f : EForm) : EForm.ofWord (eWord m f) = f := by
  simp (disch := decide) only [EForm.ofWord, eWord, BitVec.extractLsb'_append_eq_of_le, BitVec.extractLsb'_append_eq_of_add_le,
    Nat.sub_self, Nat.reduceSub, BitVec.extractLsb'_eq_self]

theorem eWord_ofWord (v : Word) : eWord (v.extractLsb' 58 6).toNat (EForm.ofWord v) = v := by
  simp (disch := decide) only [eWord, EForm.ofWord, BitVec.ofNat_toNat, BitVec.setWidth_eq,
    BitVec.extractLsb'_append_extractLsb'_eq_extractLsb']
  exact BitVec.extractLsb'_eq_self

/-! ### Decoding an encoded instruction -/

/-- An S-format word decodes by its MAJOR and FUNC. -/
theorem decodeWord_sWord (w : Who) (f : SForm) (hm : m < 64) (hs : m < 0x10 ∨ 0x20 ≤ m) :
    decodeWord w (sWord m f) = (sCtor m (f.imm.extractLsb' 37 6).toNat).map fun c => c w f := by
  simp only [decodeWord, sWord_major f hm, sWord_func, ofWord_sWord, if_pos hs]

/-- An E-format word decodes by its MAJOR and MOD. -/
theorem decodeWord_eWord (w : Who) (f : EForm) (hm : 0x10 ≤ m ∧ m < 0x20) :
    decodeWord w (eWord m f) = (eCtor m f.mod.toNat).map fun c => c w f := by
  have hmod : (eWord m f).extractLsb' 0 32 = f.mod := congrArg EForm.mod (ofWord_eWord f)
  rw [decodeWord, eWord_major f (by omega), hmod, ofWord_eWord]
  exact if_neg (by omega)

theorem wf_func {f : SForm} {n : Nat} (h : i.sRow = some (w, f, m, some n)) (hwf : i.wf = true) :
    (f.imm.extractLsb' 37 6).toNat = n := by
  simpa [Instr.wf, h] using hwf

/-- MAJOR and FUNC of a well-formed S-format instruction name it. -/
theorem sCtor_of_sRow {f : SForm} {o : Option Nat} (hwf : i.wf = true) (h : i.sRow = some (w, f, m, o)) :
    m < 64 ∧ (m < 0x10 ∨ 0x20 ≤ m) ∧ (sCtor m (f.imm.extractLsb' 37 6).toNat).map (fun c => c w f) = some i := by
  cases i
  case addi | lih | ld | st | br | loop | endl =>
    cases h
    exact ⟨by decide, by decide, by simp [sCtor]⟩
  case aluAdd | aluSub | aluAnd | aluOr | aluXor | aluSll | aluSrl | aluSra | aluMin | aluMax | aluMinu | aluMaxu | aluSlt | aluSltu
    | aluClz | aluPopc | aadd | amov | aget | cmppEq | cmppNe | cmppLt | cmppLtu | cmppLe | cmppLeu | pand | por | pnot | taskPush
    | taskPop | syncKwait | syncKjoin | syncKread | syncFence | syncStep | sysRd | sysWr | sysEnd | sysNop =>
    cases h
    rw [wf_func rfl hwf]
    exact ⟨by decide, by decide, rfl⟩
  all_goals nomatch h

/-- MAJOR and the code of MOD of a well-formed E-format instruction name it, but for REEL.OUT. -/
theorem eCtor_of_eRow {f : EForm} {o : Option (Nat × Nat × Nat)} (hwf : i.wf = true) (hr : ∀ w f, i ≠ .reelOut w f)
    (h : i.eRow = some (w, f, m, o)) :
    (0x10 ≤ m ∧ m < 0x20) ∧ (eCtor m f.mod.toNat).map (fun c => c w f) = some i := by
  cases i
  case reelOut => exact absurd rfl (hr _ _)
  case accOpen | accDrain | vePow | veKltopk | reelIn | reelPsend | syncPrecv =>
    cases h
    exact ⟨by decide, rfl⟩
  case mxF | mxH | mxQ | mxRib32 | mxRib16 | veAdd | veSub | veMul | veCmpEq | veCmpLt | veCmpLe | veSel | veMax | veMin | veMaxr
    | veMinr | veNeg | veAbs | veCvt | veRecip | veSqrt | veRsqrt | veLog2 | veLn | veSigmoid | veSum | veSumsq | veLsum | veExp
    | veLse | veSoftmax | veTopk | veTopkmerge | veCombine | veQz | veAmax | veDq | veXpose | updStat | updApply | twBits | twMask
    | twUnif | shutScan | shutEmit | shutTake | shutFree =>
    cases h
    have hcode := wf_field rfl rfl hwf
    exact ⟨by decide, by simp only [eCtor, hcode, Option.map_some]⟩
  all_goals nomatch h

/-! ### Encoding a decoded instruction -/

/-- The S-format instruction that MAJOR and FUNC name has them in its row. -/
theorem sRow_of_sCtor {n : Nat} {c : Who → SForm → Instr} (h : sCtor m n = some c) (w : Who) (f : SForm) :
    ∃ o, (c w f).sRow = some (w, f, m, o) ∧ ((f.imm.extractLsb' 37 6).toNat = n → (c w f).wf = true) := by
  unfold sCtor at h
  split at h <;> cases h
  all_goals exact ⟨_, rfl, fun hn => by simp [Instr.wf, Instr.sRow, Instr.eRow, hn]⟩

/-- The E-format instruction that MAJOR and MOD name has them in its row. -/
theorem eRow_of_eCtor {n : Nat} {c : Who → EForm → Instr} (h : eCtor m n = some c) (w : Who) (f : EForm) :
    ∃ o, (c w f).sRow = none ∧ (c w f).eRow = some (w, f, m, o) ∧ (f.mod.toNat = n → (c w f).wf = true) := by
  unfold eCtor at h
  split at h
  case h_2 | h_3 | h_5 | h_7 | h_10 | h_11 | h_14 =>
    cases h
    exact ⟨_, rfl, rfl, fun _ => rfl⟩
  case h_15 => nomatch h
  all_goals
    split at h <;> cases h
  all_goals
    next hcode => exact ⟨_, rfl, rfl, fun hn => by simp [Instr.wf, Instr.sRow, Instr.eRow, hn, hcode]⟩

/-- Settles O59: the rows' MAJORs and codes are those by which `sCtor` and `eCtor` choose. -/
theorem decodeAndEncodeAgree : Obligations.DecodeAndEncodeAgree := by
  refine ⟨fun i w v hwf hr h => ?decode, fun w f => ⟨eWord 0x1A f, rfl, ?reelOut⟩, fun w v i h => ?encode⟩
  case decode =>
    unfold encode at h
    split at h
    · next hs =>
      obtain ⟨rfl, rfl⟩ := Prod.mk.inj (Option.some.inj h)
      obtain ⟨hm, hrange, hc⟩ := sCtor_of_sRow hwf hs
      rw [decodeWord_sWord _ _ hm hrange, hc]
    · next he _ =>
      obtain ⟨rfl, rfl⟩ := Prod.mk.inj (Option.some.inj h)
      obtain ⟨hm, hc⟩ := eCtor_of_eRow hwf hr he
      rw [decodeWord_eWord _ _ hm, hc]
    · nomatch h
  case reelOut =>
    rw [decodeWord_eWord w f (by decide)]
    rfl
  case encode =>
    unfold decodeWord at h
    dsimp only at h
    split at h
    · obtain ⟨c, hc, rfl⟩ := Option.map_eq_some_iff.mp h
      obtain ⟨o, hrow, hwf⟩ := sRow_of_sCtor hc w (SForm.ofWord v)
      refine ⟨by simp only [encode, hrow, sWord_ofWord], hwf ?_⟩
      exact congrArg BitVec.toNat (BitVec.extractLsb'_extractLsb'_of_le (by decide))
    · obtain ⟨c, hc, rfl⟩ := Option.map_eq_some_iff.mp h
      obtain ⟨o, hs, hrow, hwf⟩ := eRow_of_eCtor hc w (EForm.ofWord v)
      exact ⟨by simp only [encode, hs, hrow, eWord_ofWord], hwf rfl⟩

end Sys2Proof.Laws
end

section
/-! PROOFS. The level of the ramp limiter by its mode, and submission (R154 to R158, R494 to R503). -/

namespace Sys2Proof.Laws

open Sys2Proof.Machine

variable {s : State}

/-! ### The limiter -/

/-- In a new interval of a ready module the level becomes that of one interval. -/
theorem exec_levelInterval_of_new (hr : s.power.phase = .ready) {l : BitVec 8} {work : BitVec 5} (hw : work.toNat ≤ 16)
    (h : (s.spn l.toNat).levelAt < s.ns / 125) :
    exec (.levelInterval l work) s =
      .next (s.setSpn l.toNat { (s.spn l.toNat).interval (s.limMode l.toNat) work.toNat with levelAt := s.ns / 125 }) := by
  change execLevelInterval l work s = _
  simp only [execLevelInterval, State.levelNo, s.on_eq hr, h, min_eq_left hw, true_and, ite_true]

variable {x : Spindle} {mode work : Nat}

theorem interval_of_off : x.interval 0 work = { x with level := work, falling := false, drizzle := false } := rfl

theorem interval_of_work (h : mode ≠ 0) (hl : x.level ≤ work) :
    x.interval mode work = { x with level := min work (x.level + 1), falling := false, drizzle := false } := by
  rw [Spindle.interval, if_neg h, if_pos hl]

theorem interval_of_always (hl : work < x.level) : x.interval 2 work = { x with falling := false, drizzle := true } := by
  rw [Spindle.interval, if_neg (by decide), if_neg (by omega), if_pos rfl]

theorem interval_of_gap (hl : work < x.level) (hf : x.falling = false) : x.interval 1 work = { x with drizzle := true } := by
  rw [Spindle.interval, if_neg (by decide), if_neg (by omega), if_neg (by decide), hf]
  rfl

theorem interval_of_fall (hl : work < x.level) (hf : x.falling = true) :
    x.interval 1 work =
      { x with level := x.level - 1, falling := decide (work < x.level - 1), drizzle := decide (work < x.level - 1) } := by
  rw [Spindle.interval, if_neg (by decide), if_neg (by omega), if_neg (by decide), if_pos hf]

/-! ### Submission -/

/-- The OP byte of an entry reads back. -/
theorem lineBytes_withOp (e : Line) {op : Nat} (h : op < 256) : lineBytes (withOp e op) 0 0 = op := by
  have hw : lineBytes (withOp e op) 0 0 = ((withOp e op).setWidth 8).toNat := by
    rw [BitVec.toNat_setWidth]
    rfl
  have hmask : (~~~(255#512)).setWidth 8 = 0#8 := by
    rw [BitVec.setWidth_not (by decide), BitVec.setWidth_ofNat_of_le (by decide)]
    rfl
  rw [hw, withOp, BitVec.setWidth_or, BitVec.setWidth_and, hmask, BitVec.and_zero, BitVec.zero_or, BitVec.toNat_setWidth,
    BitVec.toNat_ofNat]
  omega

/-- An entry passes the accepting mill to its submission. -/
theorem exec_submit_of_accepting (hr : s.power.phase = .ready) (ha : s.mill.accepting = true) {client : BitVec 8} {ref : Word}
    {entry : Line} :
    exec (.submit client ref entry) s = .next (s.submit client.toNat ref (withOp entry 1)) := by
  change execSubmit client ref entry s = _
  simp [execSubmit, s.on_eq hr, State.command, State.accepts, ha, lineBytes_withOp]

end Sys2Proof.Laws
end

section
/-! PROOFS. The statements on the limiter and on submission. -/

open Sys2Proof Sys2Proof.Machine Sys2Proof.Laws

/-- Settles O19: the level of one interval, mode by mode. -/
theorem limiterLevels : Obligations.LimiterLevels := by
  intro s l work hr hw x n becomes
  have hon := s.on_eq hr
  refine ⟨fun h => ?_, fun h => ⟨fun hm => ?_, fun hm hl => ?_, fun hm hl => ?_, fun hm hl hf => ?_, fun hm hl hf => ?_⟩,
    fun hm hd => ?_, fun h => ?_⟩
  · change execLevelInterval l work s = _
    rw [execLevelInterval, if_neg fun hc => Nat.not_lt.mpr h hc.2]
  · refine (exec_levelInterval_of_new hr hw h).trans ?_
    rw [hm, interval_of_off]
  · refine (exec_levelInterval_of_new hr hw h).trans ?_
    rw [interval_of_work hm hl]
  · refine (exec_levelInterval_of_new hr hw h).trans ?_
    rw [hm, interval_of_always hl]
  · refine (exec_levelInterval_of_new hr hw h).trans ?_
    rw [hm, interval_of_gap hl hf, ← hf]
  · refine (exec_levelInterval_of_new hr hw h).trans ?_
    rw [hm, interval_of_fall hl hf]
  · change execDrizzleGapExpiry l s = _
    rw [execDrizzleGapExpiry, if_pos ⟨hon, hm, hd⟩]
  · change execDrizzleGapExpiry l s = _
    rw [execDrizzleGapExpiry, if_neg fun hc => h.elim (fun h => h hc.2.1) fun h => Bool.noConfusion (h.symm.trans hc.2.2)]

/-- Settles O23: `submit` of an entry without reserved values, by what reading its descriptor gives. -/
theorem submitQueuesOrRefuses : Obligations.SubmitQueuesOrRefuses := by
  intro s client ref entry hr ha he e c u read
  constructor
  · intro b hb
    rw [exec_submit_of_accepting hr ha, State.submit, he]
    simp only [Bool.false_eq_true, if_false]
    rw [show State.readJob _ _ _ _ _ _ _ = _ from hb]
  · intro st hb
    rw [exec_submit_of_accepting hr ha, State.submit, he]
    simp only [Bool.false_eq_true, if_false]
    rw [show State.readJob _ _ _ _ _ _ _ = _ from hb]

end

section
/-! SUPPORT. What records, writes of the persistent bank and packets leave alone: each is an operation on a few fields, and these laws
say once that the rest of the state stays (R15, R544 to R556, R463 to R468). -/

namespace Sys2Proof.Laws

open Sys2Proof.Machine

variable {s t : State}

/-- A projection that every round of a fold keeps is kept by the fold. -/
theorem foldl_keeps {α β γ : Type} (g : β → γ) {f : β → α → β} (hf : ∀ s a, g (f s a) = g s) :
    ∀ (l : List α) (s : β), g (l.foldl f s) = g s
  | [], _ => rfl
  | a :: l, s => (foldl_keeps g hf l (f s a)).trans (hf s a)

/-! ### Memory outside the bank -/

/-- The second memory is the first one written in the persistent bank alone, and canonical where the first is. -/
def BankWrites (m m' : List Host.Cell) : Prop :=
  Mem.wf m = true → Mem.wf m' = true ∧ ∀ a, spaceOf a ≠ 6 → Mem.get m' a = Mem.get m a

theorem BankWrites.refl (m : List Host.Cell) : BankWrites m m := fun h => ⟨h, fun _ _ => rfl⟩

theorem BankWrites.trans {m m' m'' : List Host.Cell} (h : BankWrites m m') (h' : BankWrites m' m'') : BankWrites m m'' := fun hm =>
  ⟨(h' (h hm).1).1, fun a ha => ((h' (h hm).1).2 a ha).trans ((h hm).2 a ha)⟩

/-- Bytes of the bank that lie within its space of keys stay in it. -/
theorem bankWrites_setBytes (m : List Host.Cell) {off : Nat} {bs : List Byte} (h : off % 2 ^ 64 + bs.length ≤ 2 ^ 64) :
    BankWrites m (Mem.setBytes m (keyOf 6 off) bs) := by
  refine fun hm => ⟨wf_setBytes _ _ hm, fun a ha => memGet_setBytes_outside bs hm ?_⟩
  simp only [spaceOf, keyOf] at ha ⊢
  omega

theorem bankWrites_setWord (m : List Host.Cell) (w v : Nat) : BankWrites m (Mem.setNat m (keyOf 6 (8 * w)) 8 v) :=
  bankWrites_setBytes m (by rw [leBytes_length]; omega)

/-! ### Records and the bank -/

/-- The state without what records and writes of the bank change: memory, the barograph, the wear and the unverified words of the bank,
and the mill's note that a list of the bank is full. -/
def sansBank (s : State) : State :=
  { s with mem := [], baro := {}, wear := [], weak := [], mill := { s.mill with degraded := false } }

/-- The second state differs from the first in records and in the bank alone. -/
structure BankOnly (s t : State) : Prop where
  rest : sansBank t = sansBank s
  mem : BankWrites s.mem t.mem

theorem BankOnly.refl (s : State) : BankOnly s s := ⟨rfl, .refl _⟩

theorem BankOnly.trans {u : State} (h : BankOnly s t) (h' : BankOnly t u) : BankOnly s u :=
  ⟨h'.rest.trans h.rest, h.mem.trans h'.mem⟩

theorem BankOnly.foldl {α : Type} {f : State → α → State} (hf : ∀ s a, BankOnly s (f s a)) : ∀ (l : List α) (s : State), BankOnly s (l.foldl f s)
  | [], s => .refl s
  | a :: l, s => (hf s a).trans (.foldl hf l _)

/-- A change of the barograph and of the words that do not verify leaves the rest. -/
theorem BankOnly.baro (h : BankOnly s t) (b : Baro) (w : List Nat) : BankOnly s { t with baro := b, weak := w } := ⟨h.rest, h.mem⟩

theorem BankOnly.degraded (h : BankOnly s t) (v : Bool) : BankOnly s { t with mill := { t.mill with degraded := v } } := ⟨h.rest, h.mem⟩

theorem BankOnly.bytes (h : BankOnly s t) {off : Nat} {bs : List Byte} (hb : off % 2 ^ 64 + bs.length ≤ 2 ^ 64) :
    BankOnly s { t with mem := Mem.setBytes t.mem (keyOf 6 off) bs } := ⟨h.rest, h.mem.trans (bankWrites_setBytes _ hb)⟩

theorem BankOnly.word (h : BankOnly s t) (w v : Nat) : BankOnly s { t with mem := Mem.setNat t.mem (keyOf 6 (8 * w)) 8 v } :=
  ⟨h.rest, h.mem.trans (bankWrites_setWord _ _ _)⟩

theorem BankOnly.wear (h : BankOnly s t) (w : Nat) : BankOnly s (t.wearOne w) := ⟨h.rest, h.mem⟩

section
variable (s)

theorem bankOnly_putWord (w v : Nat) : BankOnly s { s.wearOne w with mem := Mem.setNat s.mem (keyOf 6 (8 * w)) 8 v } :=
  ((BankOnly.refl s).wear w).word w v

theorem bankOnly_ringWord (n : Nat) (v : Word) : BankOnly s (s.ringWord n v) := by
  rw [State.ringWord]
  split
  · exact .refl s
  · exact bankOnly_putWord s _ _

theorem bankOnly_ringRec (ws : List Word) : BankOnly s (s.ringRec ws) := by
  unfold State.ringRec
  extract_lets order t
  have hf (u : State) (p : Word × Nat) : BankOnly u (u.ringWord p.2 p.1) := bankOnly_ringWord u p.2 p.1
  have ht : BankOnly s t := BankOnly.foldl hf order s
  exact ht.baro _ _

theorem bankOnly_baroPut (type sev : Nat) (persist : Bool) (body : List Word) : BankOnly s (s.baroPut type sev persist body) := by
  unfold State.baroPut
  split
  · exact .refl s
  · cases persist
    · exact (BankOnly.refl s).baro _ _
    · exact ((BankOnly.refl s).baro _ _ |>.trans (bankOnly_ringRec _ _)).baro _ _

theorem repairFree_le {off : Nat} (h : s.repairFree = some off) : off < 2 ^ 32 := by
  obtain ⟨i, hi, rfl⟩ := Option.map_eq_some_iff.mp h
  have hi := List.mem_range.mp (List.mem_of_find?_eq_some hi)
  have hb : repairBase < 2 ^ 31 := by decide
  omega

theorem bankOnly_pageRetire (page : Nat) : BankOnly s (s.pageRetire page) := by
  unfold State.pageRetire
  split
  · exact .refl s
  · extract_lets n b s1 s2 m s3
    have h1 : BankOnly s s1 := (BankOnly.refl s).baro _ _
    have h2 : BankOnly s1 s2 := by
      unfold s2
      clear h1
      clear_value s1
      split
      · refine (BankOnly.refl s1).bytes ?_
        rw [State.bytesAt, Mem.bytes, List.length_map, List.length_range]
        omega
      · exact .refl s1
    have h3 : BankOnly s2 s3 := by
      unfold s3
      clear h2
      clear_value s2
      cases hf : s2.repairFree with
      | none => exact (BankOnly.refl s2).degraded true
      | some off =>
        have hoff := repairFree_le s2 hf
        dsimp only
        split
        · exact .refl s2
        · exact ((BankOnly.refl s2).wear _).bytes (by rw [leBytes_length]; omega)
    exact ((h1.trans h2).trans h3).trans (bankOnly_baroPut s3 _ _ _ _)

theorem bankOnly_verify (w v : Nat) : BankOnly s (s.verify w v) := by
  unfold State.verify
  split
  · extract_lets t
    have ht : BankOnly s t := bankOnly_pageRetire s _
    clear_value t
    exact ht.word w v
  · exact .refl s

theorem bankOnly_baroWrite (type sev : Nat) (persist : Bool) (body : List Word) : BankOnly s (s.baroWrite type sev persist body) := by
  unfold State.baroWrite
  extract_lets t
  have ht : BankOnly s t := bankOnly_baroPut s _ _ _ _
  split
  · exact ht.trans (BankOnly.foldl (fun s _ => bankOnly_pageRetire s _) _ _)
  · exact ht

theorem bankOnly_bankWord (off v : Nat) : BankOnly s (s.bankWord off v) := by
  unfold State.bankWord
  extract_lets w u
  split
  · exact .refl s
  · split
    · exact bankOnly_baroWrite s _ _ _ _
    · have hu := bankOnly_putWord s w v
      exact hu.trans (bankOnly_verify _ _ _)

theorem bankOnly_bankBytes (off : Nat) (bs : List Byte) : BankOnly s (s.bankBytes off bs) :=
  BankOnly.foldl (fun s _ => bankOnly_bankWord s _ _) _ _

theorem bankOnly_repairNote (v : Word) : BankOnly s (s.repairNote v) := by
  unfold State.repairNote
  cases s.repairFree
  · exact (BankOnly.refl s).degraded true
  · exact bankOnly_bankWord s _ _

/-- A record that is not persistent changes the barograph alone. -/
theorem baroWrite_transient (type sev : Nat) (body : List Word) :
    s.baroWrite type sev false body = { s with baro := (s.baroWrite type sev false body).baro } := by
  simp only [State.baroWrite, State.baroPut, Bool.false_and, Bool.false_eq_true, if_false]
  split <;> rfl

theorem baroWrite_of_no_core (h : s.core0 = false) (type sev : Nat) (persist : Bool) (body : List Word) :
    s.baroWrite type sev persist body = s := by
  simp [State.baroWrite, State.baroPut, h]

/-- The number of the next record after one is put. -/
theorem baroPut_next (h : s.core0 = true) (type sev : Nat) (persist : Bool) (body : List Word) :
    (s.baroPut type sev persist body).baro.next = s.baro.next + 1 := by
  simp only [State.baroPut, h, Bool.not_true, Bool.false_eq_true, if_false]
  split
  · simp only [State.ringRec]
    refine (foldl_keeps (fun s : State => s.baro.next) (fun s p => ?_) _ _).trans rfl
    simp only [State.ringWord]
    split <;> rfl
  · rfl

/-- Where every word of the bank verifies, a record is put and no page is retired. -/
theorem baroWrite_of_sound (h : s.weak = []) (type sev : Nat) (persist : Bool) (body : List Word) :
    s.baroWrite type sev persist body = s.baroPut type sev persist body := by
  simp only [State.baroWrite, h, List.filter_nil, List.foldl_nil, ite_self]

end

/-! ### Packets -/

/-- The state without what packets change: the fabric and what the module sends. -/
def sansFabric (s : State) : State := { s with fabric := {}, out := [] }

section
variable (s)

@[simp] theorem sansFabric_setLink (n : Nat) (l : Link) : sansFabric (s.setLink n l) = sansFabric s := rfl

@[simp] theorem sansFabric_emit (o : Out) : sansFabric (s.emit o) = sansFabric s := rfl

@[simp] theorem sansFabric_flushLink (n : Nat) : sansFabric (s.flushLink n) = sansFabric s := by
  simp only [State.flushLink]
  split <;> rfl

@[simp] theorem sansFabric_control (n kind : Nat) (args : List Nat) (o : Out) : sansFabric (s.control n kind args o) = sansFabric s := by
  unfold State.control
  split
  · rfl
  · extract_lets u l f l'
    have hu : sansFabric u = sansFabric s := sansFabric_flushLink s n
    clear_value u
    exact hu

@[simp] theorem sansFabric_credit (n vc bytes : Nat) : sansFabric (s.credit n vc bytes) = sansFabric s := sansFabric_control ..

@[simp] theorem sansFabric_launch (n : Nat) (h : PHdr) (data : List Byte) (held : Option (Nat × Nat)) :
    sansFabric (s.launch n h data held) = sansFabric s := by
  unfold State.launch
  extract_lets t old l l' fs full u
  have ht : sansFabric t = sansFabric s := by
    unfold t
    split
    · rfl
    · exact sansFabric_flushLink s n
  have hu : sansFabric u = sansFabric s := (foldl_keeps sansFabric (fun s f => sansFabric_emit s _) _ _).trans ht
  split
  · exact (sansFabric_credit ..).trans hu
  · exact hu

@[simp] theorem sansFabric_transmit (n : Nat) (h : PHdr) (data : List Byte) (held : Option (Nat × Nat)) :
    sansFabric (s.transmit n h data held) = sansFabric s := by
  unfold State.transmit
  extract_lets t l
  split
  · rfl
  · exact (sansFabric_launch ..).trans rfl

@[simp] theorem sansFabric_drain (n : Nat) : sansFabric (s.drain n) = sansFabric s :=
  (foldl_keeps sansFabric (fun s _ => sansFabric_transmit s n _ _ _) _ _).trans rfl

@[simp] theorem sansFabric_routeOut (h : PHdr) (data : List Byte) (link : Option Nat) :
    sansFabric (s.routeOut h data link) = sansFabric s := by
  unfold State.routeOut
  extract_lets inG held
  split
  · rfl
  · extract_lets dl h'
    split
    · rfl
    · exact sansFabric_transmit ..

@[simp] theorem sansFabric_release : sansFabric s.release = sansFabric s :=
  (foldl_keeps sansFabric (fun s _ => sansFabric_routeOut s _ _ _) _ _).trans rfl

@[simp] theorem sansFabric_send (x : Send) : sansFabric (s.send x) = sansFabric s := (sansFabric_routeOut ..).trans rfl

@[simp] theorem sansFabric_sendOn (n : Nat) (x : Send) : sansFabric (s.sendOn n x) = sansFabric s := (sansFabric_transmit ..).trans rfl

@[simp] theorem sansFabric_sendAll (xs : List Send) : sansFabric (s.sendAll xs) = sansFabric s :=
  foldl_keeps sansFabric (fun s x => sansFabric_send s x) _ _

end

end Sys2Proof.Laws
end

section
/-! SUPPORT. Sparse tables: membership, lookups and the rising order through writes, drops and maps (Word.lean). -/

namespace Sys2Proof.Laws

open Sys2Proof.Machine Sys2Proof.Claims

variable {α : Type} {t : Table α} {k n : Nat} {v w d : α} {p : Nat × α}

/-! ### The order -/

theorem tableRising_of_rising : ∀ {t : Table α} {lo : Nat}, Rising t → (∀ p ∈ t, lo ≤ p.1) → Table.rising lo t
  | [], _, _, _ => trivial
  | p :: _, _, h, hlo =>
    have hp := List.pairwise_cons.mp h
    ⟨hlo p List.mem_cons_self, tableRising_of_rising hp.2 fun q hq => hp.1 q hq⟩

theorem tableRising_zero (h : Rising t) : Table.rising 0 t := tableRising_of_rising h fun _ _ => Nat.zero_le _

theorem drop_sublist (t : Table α) (k : Nat) : (t.drop k).Sublist t := by
  induction t with
  | nil => exact .slnil
  | cons p r ih =>
    obtain ⟨i, x⟩ := p
    unfold Table.drop
    split
    · exact List.sublist_cons_self _ _
    · split
      · exact .refl _
      · exact ih.cons_cons _

theorem rising_drop (h : Rising t) (k : Nat) : Rising (t.drop k) := h.sublist (drop_sublist t k)

theorem rising_put (h : Rising t) (k : Nat) (v : α) : Rising (t.put k v) := by
  induction t with
  | nil => exact List.pairwise_singleton _ _
  | cons p r ih =>
    obtain ⟨i, x⟩ := p
    obtain ⟨hp, hr⟩ := List.pairwise_cons.mp h
    unfold Table.put
    split
    next e => exact List.pairwise_cons.mpr ⟨fun q hq => e ▸ hp q hq, hr⟩
    next hne =>
      split
      next hlt => exact List.pairwise_cons.mpr ⟨fun q hq => (List.mem_cons.mp hq).elim (fun e => e ▸ hlt) fun hq => hlt.trans (hp q hq), h⟩
      next hge =>
        refine List.pairwise_cons.mpr ⟨fun q hq => ?_, ih hr⟩
        rcases put_mem hq with rfl | hq
        · exact show i < k by omega
        · exact hp q hq

theorem rising_set [DecidableEq α] (h : Rising t) (k : Nat) (v d : α) : Rising (t.set k v d) := by
  unfold Table.set
  split
  · exact rising_drop h k
  · exact rising_put h k v

theorem rising_filter (h : Rising t) (f : Nat × α → Bool) : Rising (t.filter f) := h.sublist List.filter_sublist

theorem rising_mapVals [DecidableEq α] (h : Rising t) (f : Nat → α → α) (d : α) : Rising (t.mapVals f d) := by
  refine List.pairwise_filterMap.mpr (h.imp ?_)
  intro p q hpq a ha b hb
  split at ha <;> cases ha
  split at hb <;> cases hb
  exact hpq

/-! ### Members -/

theorem mem_of_find? (h : t.find? k = some v) : (k, v) ∈ t := by
  induction t with
  | nil => cases h
  | cons p r ih =>
    obtain ⟨i, x⟩ := p
    unfold Table.find? at h
    split at h
    next e => cases h; exact e ▸ List.mem_cons_self
    next =>
      split at h
      · cases h
      · exact List.mem_cons_of_mem _ (ih h)

theorem find?_of_mem (h : Rising t) (hp : p ∈ t) : t.find? p.1 = some p.2 := by
  induction t with
  | nil => cases hp
  | cons q r ih =>
    obtain ⟨hq, hr⟩ := List.pairwise_cons.mp h
    unfold Table.find?
    rcases List.mem_cons.mp hp with rfl | hp
    · exact if_pos rfl
    · have := hq p hp
      rw [if_neg (by omega), if_neg (by omega)]
      exact ih hr hp

theorem mem_drop (h : p ∈ t.drop k) : p ∈ t := (drop_sublist t k).mem h

theorem ne_of_mem_drop (h : Rising t) (hp : p ∈ t.drop k) : p.1 ≠ k := by
  induction t with
  | nil => cases hp
  | cons q r ih =>
    obtain ⟨i, x⟩ := q
    obtain ⟨hq, hr⟩ := List.pairwise_cons.mp h
    unfold Table.drop at hp
    split at hp
    next e => have := hq p hp; dsimp only at this; omega
    next hne =>
      split at hp
      next hlt =>
        rcases List.mem_cons.mp hp with rfl | hp
        · exact hne
        · have := hq p hp; dsimp only at this; omega
      next =>
        rcases List.mem_cons.mp hp with rfl | hp
        · exact hne
        · exact ih hr hp

/-- What is put in a table without repeats is the only entry of its number. -/
theorem mem_put_iff (h : Rising t) : p ∈ t.put k v ↔ p = (k, v) ∨ (p ∈ t ∧ p.1 ≠ k) := by
  constructor
  · intro hp
    rcases put_mem hp with e | hp'
    · exact .inl e
    · by_cases hk : p.1 = k
      · have h1 := find?_of_mem (rising_put h k v) hp
        rw [hk, Table.find_put_same] at h1
        obtain ⟨i, x⟩ := p
        cases hk
        cases h1
        exact .inl rfl
      · exact .inr ⟨hp', hk⟩
  · rintro (rfl | ⟨hp, hk⟩)
    · exact mem_put_self t k v
    · exact mem_put_of_ne hp hk

/-- An entry stays where another number is dropped, in any table. -/
theorem find?_drop_of_find? (hk : k ≠ n) (h : t.find? n = some v) : (t.drop k).find? n = some v := by
  induction t with
  | nil => cases h
  | cons p r ih =>
    obtain ⟨i, x⟩ := p
    unfold Table.drop
    unfold Table.find? at h
    split at h
    next e =>
      subst e
      cases h
      rw [if_neg (Ne.symm hk)]
      split <;> simp [Table.find?]
    next hne =>
      split at h
      · cases h
      next hge =>
        split
        · exact h
        · split
          · rw [Table.find?, if_neg hne, if_neg hge]
            exact h
          · rw [Table.find?, if_neg hne, if_neg hge]
            exact ih h

/-! ### Maps -/

theorem mem_mapVals [DecidableEq α] {f : Nat → α → α} (h : p ∈ t.mapVals f d) : ∃ q ∈ t, q.1 = p.1 ∧ f q.1 q.2 = p.2 := by
  obtain ⟨q, hq, he⟩ := List.mem_filterMap.mp h
  split at he <;> cases he
  exact ⟨q, hq, rfl, rfl⟩

/-- A listed value that the map does not turn into the rest value is listed changed. -/
theorem get_mapVals_of_ne [DecidableEq α] {f : Nat → α → α} (h : t.get k d = v) (hv : v ≠ d) (hf : f k v ≠ d) : (t.mapVals f d).get k d = f k v := by
  induction t with
  | nil => exact absurd h.symm hv
  | cons p r ih =>
    obtain ⟨i, x⟩ := p
    unfold Table.get at h
    split at h
    next e =>
      subst e h
      simp [Table.mapVals, hf, Table.get]
    next hne =>
      split at h
      · exact absurd h.symm hv
      next hge =>
        have hr := ih h
        unfold Table.mapVals at hr ⊢
        rw [List.filterMap_cons]
        split
        · exact hr
        next y hy =>
          split at hy <;> cases hy
          rw [Table.get, if_neg hne, if_neg hge]
          exact hr

end Sys2Proof.Laws
end

section
/-! PROOFS. What a controller fault records and what it leaves (R388 to R390). -/

namespace Sys2Proof.Laws

open Sys2Proof.Machine Sys2Proof.Claims

variable {s t : State}

/-! ### Contexts under maps -/

/-- A spindle with each listed context changed. -/
def mapSpnCtxs (f : Nat → Nat → Ctx → Ctx) (l : Nat) (x : Spindle) : Spindle := { x with ctxs := x.ctxs.mapVals (f l) {} }

theorem mapCtxs_spindles (f : Nat → Nat → Ctx → Ctx) : (s.mapCtxs f).spindles = s.spindles.mapVals (mapSpnCtxs f) {} := rfl

theorem ctx_mapCtxs_of_ne {f : Nat → Nat → Ctx → Ctx} {l c : Nat} {x : Ctx} (h : s.ctx l c = x) (hx : x ≠ {}) (hf : f l c x ≠ {}) :
    (s.mapCtxs f).ctx l c = f l c x := by
  have hctx : (s.spn l).ctxs.get c {} = x := h
  have hmap : (mapSpnCtxs f l (s.spn l)).ctxs.get c {} = f l c x := get_mapVals_of_ne hctx hx hf
  have hne : s.spn l ≠ {} := fun e => hx (by rw [e] at hctx; exact hctx.symm)
  have hne' : mapSpnCtxs f l (s.spn l) ≠ {} := fun e => hf (by rw [e] at hmap; exact hmap.symm)
  have hspn : (s.mapCtxs f).spn l = mapSpnCtxs f l (s.spn l) := get_mapVals_of_ne (t := s.spindles) rfl hne hne'
  rw [State.ctx, hspn]
  exact hmap

/-- A context that has stopped stays as it is when its job's contexts stop. -/
theorem ctx_stopCtxs_of_stopped {j l c : Nat} {x : Ctx} (h : s.ctx l c = x) (hx : x.status = .stopped) : (s.stopCtxs j).ctx l c = x := by
  have hne : x ≠ {} := fun e => by rw [e] at hx; cases hx
  have hstay : (if x.of j && x.status ≠ .ended then { x with status := .stopped } else x) = x := by
    rw [← hx, ite_self]
  exact (ctx_mapCtxs_of_ne h hne (by rw [hstay]; exact hne)).trans hstay

/-! ### Jobs that end -/

theorem modJob_of_some {j : Nat} {b : Job} (h : s.job? j = some b) (f : Job → Job) : s.modJob j f = s.setJob j (f b) := by
  rw [State.modJob, h]

theorem endJob_of_none {j : Nat} {b : Job} (h : s.job? j = some b) (he : b.endWith = none) (code : Byte) :
    s.endJob j code = (s.setJob j { b with endWith := some code }).stopCtxs j := by
  rw [State.endJob, h]
  simp [he]

theorem ctx_of_bankOnly (h : BankOnly s t) (l c : Nat) : t.ctx l c = s.ctx l c :=
  show (sansBank t).ctx l c = (sansBank s).ctx l c by rw [h.rest]

theorem job?_of_bankOnly (h : BankOnly s t) (j : Nat) : t.job? j = s.job? j :=
  show (sansBank t).job? j = (sansBank s).job? j by rw [h.rest]

/-- The context as a first controller fault leaves it. -/
def faulted (x : Ctx) (code : Nat) (inst : Word) : Ctx :=
  { x with status := .stopped, cfault := BitVec.ofNat 64 (2 ^ 63 + code * 2 ^ 57 + x.pc.toNat), cfinst := inst }

/-- A job as a controller fault of its context `w` ends it. -/
def endedBy (b : Job) (w : Who) (pc : DevAddr) (code : Nat) : Job :=
  { b with flspn := w.lspn.toNat, fpc := pc, endWith := some (BitVec.ofNat 8 code) }

/-- A first fault of a job's context, where the job has no end decided, writes the context, ends the job and puts a record. -/
theorem bankOnly_ctlFault {w : Who} {b : Job} (hj : s.job? (s.who w).job = some b) (he : b.endWith = none)
    (hc : (s.who w).cfault.toNat.testBit 63 = false) (code : Nat) (inst : Word) :
    ∃ t, t.job? (s.who w).job = some (endedBy b w (s.who w).pc code) ∧ t.who w = faulted (s.who w) code inst ∧
      BankOnly t (s.ctlFault w code inst) := by
  let j := (s.who w).job
  let b1 : Job := { b with flspn := w.lspn.toNat, fpc := (s.who w).pc }
  let t1 := (s.setWho w (faulted (s.who w) code inst)).setJob j b1
  let t2 := (t1.setJob j (endedBy b w (s.who w).pc code)).stopCtxs j
  have hx : faulted (s.who w) code inst ≠ {} := fun e => nomatch congrArg Ctx.status e
  have hj2 : t2.job? j = some (endedBy b w (s.who w).pc code) := State.job?_setJob_same ..
  have hend : t1.endJob j (BitVec.ofNat 8 code) = t2 := endJob_of_none (b := b1) (State.job?_setJob_same ..) he _
  have hmod : ((s.setWho w (faulted (s.who w) code inst)).modJob j fun b =>
      if b.endWith.isSome then b else { b with flspn := w.lspn.toNat, fpc := (s.who w).pc }) = t1 :=
    (modJob_of_some (show (s.setWho w _).job? j = some b from hj) _).trans (by rw [if_neg (by rw [he]; exact Bool.false_ne_true)])
  refine ⟨t2, hj2, ctx_stopCtxs_of_stopped (ctx_setCtx_of_ne s _ _ hx) rfl, ?_⟩
  have heq : s.ctlFault w code inst =
      t2.baroWrite 0x0A 2 true [jobW (endedBy b w (s.who w).pc code), codeW code 0 0, locW .address (s.who w).pc.toNat] := by
    have hput : ∀ u, u = t2 → (match u.job? j with
        | some b => u.baroWrite 0x0A 2 true [jobW b, codeW code 0 0, locW .address (s.who w).pc.toNat]
        | none => u) = t2.baroWrite 0x0A 2 true [jobW (endedBy b w (s.who w).pc code), codeW code 0 0, locW .address (s.who w).pc.toNat] := by
      rintro _ rfl
      rw [hj2]
    simp only [State.ctlFault, hc, Bool.not_false, if_true]
    exact hput _ ((congrArg (State.endJob · j _) hmod).trans hend)
  rw [heq]
  exact bankOnly_baroWrite t2 _ _ _ _

end Sys2Proof.Laws
end

section
/-! PROOFS. The statement on controller faults. -/

open Sys2Proof Sys2Proof.Machine Sys2Proof.Claims Sys2Proof.Laws

/-- Settles O8: the record, the end of the job and the stop of its contexts leave the faulting context as the fault writes it. -/
theorem controllerFaultRecords : Obligations.ControllerFaultRecords := by
  intro s w b code inst hj he _ _ hc _ t
  obtain ⟨u, hj', hw, hu⟩ := bankOnly_ctlFault hj he (Nat.testBit_lt_two_pow hc) code inst
  rw [show t.who w = _ from (ctx_of_bankOnly hu _ _).trans hw]
  exact ⟨rfl, rfl, rfl, rfl, rfl, rfl, rfl, _, (job?_of_bankOnly hu _).trans hj', rfl, rfl⟩

end

section
/-! SUPPORT. What contexts, jobs and their ends leave alone (R388 to R394, R511 to R515): jobs and contexts, frames, packets, records, the
poison and the bytes of the fault counts of jobs that were there change, and nothing else. -/

namespace Sys2Proof.Laws

open Sys2Proof.Machine Sys2Proof.Claims

variable {s t : State}

/-- The state without what contexts, jobs and their ends change. -/
def sansJobs (s : State) : State :=
  { s with
    mem := [], spindles := [], frames := [], mill := { nextJid := s.mill.nextJid }, fabric := {}, baro := {}, poison := []
    wear := [], weak := [], out := [] }

/-- The fault counts of a job of a client without rings, which its completion writes (R512). -/
def countsArea (s : State) (b : Job) (a : Nat) : Prop :=
  32 ≤ b.client ∧ b.flog ≠ 0 ∧ s.clientKey b.client b.flog ≤ a ∧ a < s.clientKey b.client b.flog + 256

/-- The second state comes from the first by changes of contexts and jobs, ends of jobs among them. -/
structure CtlFrame (s t : State) : Prop where
  rest : sansJobs t = sansJobs s
  jobs : ∀ p ∈ t.mill.jobs, ∃ q ∈ s.mill.jobs, q.2.client = p.2.client ∧ q.2.flog = p.2.flog
  mem : Mem.wf s.mem = true → Mem.wf t.mem = true ∧
    ∀ a, spaceOf a ≠ 6 → (∀ p ∈ s.mill.jobs, ¬countsArea s p.2 a) → Mem.get t.mem a = Mem.get s.mem a
  poison : (∀ p ∈ s.mill.jobs, p.2.client < 32 ∨ p.2.flog = 0) → t.poison = s.poison

namespace CtlFrame

theorem refl (s : State) : CtlFrame s s := ⟨rfl, fun p hp => ⟨p, hp, rfl, rfl⟩, fun h => ⟨h, fun _ _ _ => rfl⟩, fun _ => rfl⟩

variable {u : State}

/-- A change that leaves memory, poison and the job table as they are. -/
theorem same (h : CtlFrame s t) (hr : sansJobs u = sansJobs t) (hm : u.mem = t.mem) (hp : u.poison = t.poison)
    (hj : ∀ p ∈ u.mill.jobs, ∃ q ∈ t.mill.jobs, q.2.client = p.2.client ∧ q.2.flog = p.2.flog) : CtlFrame s u where
  rest := hr.trans h.rest
  jobs p hp := by
    obtain ⟨q, hq, hc, hf⟩ := hj p hp
    obtain ⟨r, hr, hc', hf'⟩ := h.jobs q hq
    exact ⟨r, hr, hc'.trans hc, hf'.trans hf⟩
  mem hs := hm ▸ h.mem hs
  poison hs := hp.trans (h.poison hs)

theorem setSpn (h : CtlFrame s t) (l : Nat) (x : Spindle) : CtlFrame s (t.setSpn l x) :=
  h.same rfl rfl rfl fun p hp => ⟨p, hp, rfl, rfl⟩

theorem setCtx (h : CtlFrame s t) (l c : Nat) (x : Ctx) : CtlFrame s (t.setCtx l c x) := h.setSpn ..

theorem setWho (h : CtlFrame s t) (w : Who) (x : Ctx) : CtlFrame s (t.setWho w x) := h.setSpn ..

theorem mapSpns (h : CtlFrame s t) (f : Nat → Spindle → Spindle) : CtlFrame s (t.mapSpns f) :=
  h.same rfl rfl rfl fun p hp => ⟨p, hp, rfl, rfl⟩

theorem stopCtxs (h : CtlFrame s t) (j : Nat) : CtlFrame s (t.stopCtxs j) :=
  h.same rfl rfl rfl fun p hp => ⟨p, hp, rfl, rfl⟩

theorem setJob (h : CtlFrame s t) {j : Nat} {b b' : Job} (hb : t.job? j = some b) (hc : b'.client = b.client) (hf : b'.flog = b.flog) :
    CtlFrame s (t.setJob j b') :=
  h.same rfl rfl rfl fun p hp => by
    rcases put_mem hp with rfl | hp
    · exact ⟨_, mem_of_find? hb, hc.symm, hf.symm⟩
    · exact ⟨p, hp, rfl, rfl⟩

theorem modJob (h : CtlFrame s t) (j : Nat) {f : Job → Job} (hc : ∀ b, (f b).client = b.client) (hf : ∀ b, (f b).flog = b.flog) :
    CtlFrame s (t.modJob j f) := by
  unfold State.modJob
  split
  next b hb => exact h.setJob hb (hc b) (hf b)
  next => exact h

theorem endJob (h : CtlFrame s t) (j : Nat) (code : Byte) : CtlFrame s (t.endJob j code) := by
  unfold State.endJob
  split
  · exact h
  next b hb =>
    split
    · exact h
    · refine CtlFrame.stopCtxs (h.setJob hb ?_ ?_) j <;> rfl

theorem bankOnly (h : CtlFrame s t) (hu : BankOnly t u) : CtlFrame s u where
  rest := (show sansJobs (sansBank u) = sansJobs (sansBank t) by rw [hu.rest]).trans h.rest
  jobs := by rw [show u.mill.jobs = t.mill.jobs from congrArg (·.mill.jobs) hu.rest]; exact h.jobs
  mem hs :=
    have ht := h.mem hs
    have hu := hu.mem ht.1
    ⟨hu.1, fun a ha hn => (hu.2 a ha).trans (ht.2 a ha hn)⟩
  poison hs := (congrArg (·.poison) hu.rest).trans (h.poison hs)

theorem baroWrite (h : CtlFrame s t) (type sev : Nat) (persist : Bool) (body : List Word) : CtlFrame s (t.baroWrite type sev persist body) :=
  h.bankOnly (bankOnly_baroWrite t _ _ _ _)

theorem sansFabric_eq (h : CtlFrame s t) (hu : sansFabric u = sansFabric t) : CtlFrame s u :=
  h.same (show sansJobs (sansFabric u) = sansJobs (sansFabric t) by rw [hu]) (congrArg (·.mem) hu) (congrArg (·.poison) hu) fun p hp =>
    ⟨p, (show u.mill.jobs = t.mill.jobs from congrArg (·.mill.jobs) hu) ▸ hp, rfl, rfl⟩

theorem setFrame (h : CtlFrame s t) (f : Nat) (x : Frame) : CtlFrame s (t.setFrame f x) :=
  h.same rfl rfl rfl fun p hp => ⟨p, hp, rfl, rfl⟩

theorem foldl {α : Type} {f : State → α → State} (hf : ∀ t a, CtlFrame s t → CtlFrame s (f t a)) :
    ∀ (l : List α) {t : State}, CtlFrame s t → CtlFrame s (l.foldl f t)
  | [], _, h => h
  | a :: l, _, h => foldl hf l (hf _ a h)

theorem freeSlots (h : CtlFrame s t) (j : Nat) : CtlFrame s (t.freeSlots j) :=
  h.same rfl rfl rfl fun p hp => ⟨p, hp, rfl, rfl⟩

theorem closeShuttles (h : CtlFrame s t) (b : Job) : CtlFrame s (t.closeShuttles b) :=
  foldl (fun _ _ h => h.setFrame _ _) _ h

theorem releaseJob (h : CtlFrame s t) (j : Nat) (b : Job) : CtlFrame s (t.releaseJob j b) := by
  unfold State.releaseJob
  extract_lets t1 t2 t3 m
  have h1 : CtlFrame s t1 := h.mapSpns _
  have h2 : CtlFrame s t2 := h1.mapSpns _
  clear_value t2
  have h3 : CtlFrame s t3 := by
    unfold t3
    split
    · exact h2
    · exact (h2.closeShuttles b).freeSlots j
  exact h3.same rfl rfl rfl fun p hp => ⟨p, mem_drop hp, rfl, rfl⟩

theorem countEnd (h : CtlFrame s t) (client : Nat) : CtlFrame s (t.countEnd client) :=
  h.same rfl rfl rfl fun p hp => ⟨p, hp, rfl, rfl⟩

theorem clientKey (h : CtlFrame s t) (client a : Nat) : t.clientKey client a = s.clientKey client a :=
  show (sansJobs t).clientKey client a = (sansJobs s).clientKey client a by rw [h.rest]

/-- The bytes of a job's fault counts are written. -/
theorem putAt (h : CtlFrame s t) {p : Nat × Job} (hp : p ∈ s.mill.jobs) (h32 : 32 ≤ p.2.client) (hf : p.2.flog ≠ 0) {bs : List Byte}
    (hlen : bs.length = 256) : CtlFrame s (t.putAt (t.clientKey p.2.client p.2.flog) bs) := by
  rw [h.clientKey]
  constructor
  case rest => exact h.rest
  case jobs => exact h.jobs
  case poison => exact fun hs => absurd (hs p hp) (by omega)
  case mem =>
    refine fun hs => ⟨wf_setBytes _ _ (h.mem hs).1, fun a ha hn => ?_⟩
    refine (memGet_setBytes_outside _ (h.mem hs).1 ?_).trans ((h.mem hs).2 a ha hn)
    have := hn p hp
    unfold countsArea at this
    omega

theorem countBytes_length (c : Compl) : c.countBytes.length = 256 := by
  simp [Compl.countBytes, leBytes_length]

theorem writeCounts (h : CtlFrame s t) {c : Compl} (hc : ∃ p ∈ s.mill.jobs, p.2.client = c.client ∧ p.2.flog = c.flog)
    (h32 : 32 ≤ c.client) : CtlFrame s (t.writeCounts c) := by
  obtain ⟨p, hp, hpc, hpf⟩ := hc
  unfold State.writeCounts
  split
  · exact h
  next hne =>
    rw [← hpc] at h32 ⊢
    rw [← hpf] at hne ⊢
    exact h.putAt hp h32 hne (countBytes_length c)

theorem complete (h : CtlFrame s t) {c : Compl} (hc : ∃ p ∈ s.mill.jobs, p.2.client = c.client ∧ p.2.flog = c.flog) :
    CtlFrame s (t.complete c) := by
  unfold State.complete
  split
  next h32 => exact (h.writeCounts hc (by omega)).same rfl rfl rfl fun p hp => ⟨p, hp, rfl, rfl⟩
  next =>
    split
    next h33 =>
      split
      · exact (h.writeCounts hc (by omega)).sansFabric_eq ((sansFabric_emit ..).trans (sansFabric_send ..))
      · exact h
    next => exact h.same rfl rfl rfl fun p hp => ⟨p, hp, rfl, rfl⟩

theorem removeJob (h : CtlFrame s t) (j : Nat) (status : Byte) : CtlFrame s (t.removeJob j status) := by
  unfold State.removeJob
  split
  · exact h
  next b hb =>
    extract_lets fl u
    have hu : CtlFrame s u := (h.releaseJob j b).countEnd _
    split
    · exact hu
    · exact hu.complete (h.jobs _ (mem_of_find? hb))

theorem reap (h : CtlFrame s t) : CtlFrame s t.reap := by
  refine foldl (fun u p hu => ?_) _ h
  split
  · split
    · exact hu.removeJob _ _
    · exact hu
  · exact hu

theorem ctlFault (h : CtlFrame s t) (w : Who) (code : Nat) (inst : Word) : CtlFrame s (t.ctlFault w code inst) := by
  unfold State.ctlFault
  extract_lets x first x' j t1 t2 t3
  have h3 : CtlFrame s t3 := by
    refine CtlFrame.endJob ((h.setWho w x').modJob j (fun b => ?_) fun b => ?_) j _ <;> split <;> rfl
  clear_value t3
  split
  · exact h3.baroWrite _ _ _ _
  · exact h3

theorem signalOne (h : CtlFrame s t) (l c k arm : Nat) (code : Byte) (bad : Bool) : CtlFrame s (t.signalOne l c k arm code bad) :=
  (h.setCtx ..).setSpn ..

theorem settleJoins (l c : Nat) : ∀ (n : Nat) {t : State}, CtlFrame s t → CtlFrame s (t.settleJoins l c n)
  | 0, _, h => h
  | n + 1, t, h => by
    unfold State.settleJoins
    split
    · exact h
    · exact settleJoins l c n ((h.setCtx ..).signalOne ..)

theorem controller {w : Who} {word : Word} {bad : Bool} {eff : Job → Ctx → State}
    (he : ∀ b, s.job? (s.who w).job = some b → CtlFrame s (eff b (s.who w))) : CtlFrame s (s.controller w word bad eff) := by
  unfold State.controller
  split
  · exact refl s
  · exact ((refl s).ctlFault ..).reap
  next b hb =>
    split
    · exact ((refl s).ctlFault ..).reap
    · refine he b ?_
      simp only [State.ctlStart] at hb
      split at hb
      · cases hb
      next b' hj =>
        have : b' = b := by
          split at hb
          · cases hb
          · split at hb
            · split at hb <;> cases hb
              rfl
            · cases hb
        exact this ▸ hj

theorem scalar {w : Who} {word : Word} {bad : Bool} {eff : Ctx → Ctx} (h : s.scalar w word bad eff = .next t) : CtlFrame s t :=
  Host.Outcome.next.inj h ▸ controller fun _ _ => (refl s).setWho ..

theorem issue (s : State) (w : Who) (op : Instr) (i : Iss) : CtlFrame s (s.issue w op i) := by
  refine controller fun b _ => ?_
  unfold State.issueOp
  extract_lets
  split
  · exact refl s
  · split
    · exact (refl s).setWho ..
    · split
      · exact refl s
      · exact ((refl s).setWho ..).setSpn ..

end CtlFrame

end Sys2Proof.Laws
end

section
/-! PROOFS. What no controller instruction but ST touches: each is the controller's frame around changes of its own context, of a deque
of its job, of its joins, or around a fault (R388 to R403). -/

namespace Sys2Proof.Laws

open Sys2Proof.Machine Sys2Proof.Claims

variable {s t : State}

theorem ctlFrame_takeBranch (w : Who) (word : Word) (x : Ctx) (a : DevAddr) : CtlFrame s (s.takeBranch w word x a) := by
  unfold State.takeBranch
  split
  · exact (CtlFrame.refl s).setWho ..
  · exact ((CtlFrame.refl s).ctlFault ..).reap

theorem ctlFrame_ite {c : Prop} [Decidable c] {u v : State} (hu : CtlFrame s u) (hv : CtlFrame s v) : CtlFrame s (if c then u else v) := by
  split <;> assumption

/-- Every controller instruction but ST changes only what contexts, jobs and their ends change. -/
theorem ctlFrame_exec {i : Instr} {c : Who × Word} (hc : encode i = some c) (hst : ∀ w f, i ≠ .st w f) (h : exec i s = .next t) :
    CtlFrame s t := by
  have h0 := CtlFrame.refl s
  cases i
  case st w f => exact absurd rfl (hst w f)
  case aluAdd | aluSub | aluAnd | aluOr | aluXor | aluSll | aluSrl | aluSra | aluMin | aluMax | aluMinu | aluMaxu | aluSlt | aluSltu
    | aluClz | aluPopc | addi | lih | ld | aadd | amov | aget | cmppEq | cmppNe | cmppLt | cmppLtu | cmppLe | cmppLeu | pand | por
    | pnot | sysRd | sysNop => exact CtlFrame.scalar h
  case mxF | mxH | mxQ | mxRib32 | mxRib16 | accOpen | accDrain | veAdd | veSub | veMul | veNeg | veAbs | veCmpEq | veCmpLt | veCmpLe
    | veSel | veMax | veMin | veCvt | veRecip | veSqrt | veRsqrt | veLog2 | veLn | veExp | veSigmoid | veSum | veSumsq | veLsum
    | veLse | veSoftmax | veMaxr | veMinr | vePow | veTopk | veTopkmerge | veCombine | veKltopk | veQz | veAmax | veDq | veXpose
    | updStat | updApply | reelIn | reelOut | reelPsend | syncPrecv | twBits | twMask | twUnif | shutScan | shutEmit | shutTake
    | shutFree => exact Host.Outcome.next.inj h ▸ CtlFrame.issue s _ _ _
  case br | loop | endl =>
    exact Host.Outcome.next.inj h ▸ CtlFrame.controller fun b _ => ctlFrame_ite (ctlFrame_takeBranch ..) (h0.setWho ..)
  case syncKwait | syncKread | syncFence =>
    exact Host.Outcome.next.inj h ▸ CtlFrame.controller fun b _ => ctlFrame_ite h0 (h0.setWho ..)
  case syncKjoin =>
    refine Host.Outcome.next.inj h ▸ CtlFrame.controller fun b _ => ?_
    dsimp only
    split
    · exact h0
    · exact CtlFrame.settleJoins _ _ _ (h0.setWho ..)
  case syncStep =>
    refine Host.Outcome.next.inj h ▸ CtlFrame.controller fun b _ => ?_
    dsimp only
    split
    · exact h0
    · split
      · exact (h0.ctlFault ..).reap
      · exact h0.setWho ..
  case sysWr => exact Host.Outcome.next.inj h ▸ CtlFrame.controller fun b _ => h0.setWho ..
  case sysEnd =>
    refine Host.Outcome.next.inj h ▸ CtlFrame.controller fun b _ => ?_
    dsimp only
    split
    · exact h0
    · split
      · exact ((h0.setWho ..).endJob _ _).reap
      · exact h0.setWho ..
  case taskPush =>
    refine Host.Outcome.next.inj h ▸ CtlFrame.controller fun b hb => ?_
    dsimp only
    split
    · exact (h0.setWho ..).setJob hb rfl rfl
    · exact h0.setWho ..
  case taskPop =>
    refine Host.Outcome.next.inj h ▸ CtlFrame.controller fun b hb => ?_
    split
    · exact (h0.setWho ..).setJob hb rfl rfl
    · exact h0.setWho ..
  all_goals nomatch hc

end Sys2Proof.Laws
end

section
/-! PROOFS. The statement on the frame of the controller's instructions. -/

open Sys2Proof Sys2Proof.Machine Sys2Proof.Claims Sys2Proof.Laws

/-- Settles O14: the frame of `ctlFrame_exec`, field by field. -/
theorem controllerInstructionsFrame : Obligations.ControllerInstructionsFrame := by
  intro s t i c hs hc hst h
  have hf := ctlFrame_exec hc hst h
  refine ⟨fun a ha hout => (hf.mem hs).2 a ha fun p hp ⟨h32, hne, hlo, hhi⟩ => ?_, hf.poison, (congrArg State.host hf.rest :),
    (congrArg State.time hf.rest :), (congrArg State.sec hf.rest :), (congrArg State.power hf.rest :), (congrArg State.ports hf.rest :),
    (congrArg State.rowErr hf.rest :), (congrArg State.spares hf.rest :), (congrArg State.retired hf.rest :), (congrArg State.pending hf.rest :),
    (congrArg (fun u : State => u.mill.nextJid) hf.rest :)⟩
  have := hout p hp h32 hne
  omega

end

section
/-! PROOFS. Command entries, rings and completions (R493 to R497, R511 to R514). -/

namespace Sys2Proof.Laws

open Sys2Proof.Machine Sys2Proof.Claims

variable {s : State} {client : BitVec 8} {ref : Word} {entry : Line}

/-! ### Entries -/

/-- The bytes of an entry behind its OP byte do not depend on it. -/
theorem lineBytes_withOp_above (e : Line) {op : Nat} (h : op < 256) {hi lo : Nat} (hlo : 1 ≤ lo) :
    lineBytes (withOp e op) hi lo = lineBytes e hi lo := by
  have hshift (v : Line) : v.toNat >>> (8 * lo) = (v >>> 8).toNat >>> (8 * (lo - 1)) := by
    rw [BitVec.toNat_ushiftRight, ← Nat.shiftRight_add]
    congr 1
    omega
  have hlow {n : Nat} (hn : n < 256) (i : Nat) : (BitVec.ofNat 512 n).getLsbD (8 + i) = false := by
    rw [BitVec.getLsbD_ofNat, Nat.testBit_lt_two_pow (lt_of_lt_of_le hn (Nat.pow_le_pow_right (show 2 > 0 by decide) (Nat.le_add_right 8 i))),
      Bool.and_false]
  have heq : withOp e op >>> 8 = e >>> 8 := by
    refine BitVec.eq_of_getLsbD_eq fun i _ => ?_
    rw [BitVec.getLsbD_ushiftRight, BitVec.getLsbD_ushiftRight, withOp, BitVec.getLsbD_or, BitVec.getLsbD_and, BitVec.getLsbD_not,
      hlow h, hlow (by decide)]
    by_cases hi : 8 + i < 512
    · simp [hi]
    · simp [hi, BitVec.getLsbD_of_ge e (8 + i) (by omega)]
  rw [lineBytes, lineBytes, bitsOf, bitsOf, hshift, hshift, heq]

/-- An entry with another OP than SUBMIT, without reserved values, is completed and then acts. -/
theorem command_of_op {c op : Nat} (h0 : op ≠ 1) (h : op < 256) (hb : entryBad (withOp entry op) = false) :
    s.command c ref (withOp entry op) = (s.act c (withOp entry op)).2
      (s.cmdDone c (BitVec.ofNat 64 (lineBytes entry 31 24)) (withOp entry op) (s.act c (withOp entry op)).1) := by
  simp [State.command, State.accepts, lineBytes_withOp entry h, h0, hb, lineBytes_withOp_above entry h]

/-- A command of the host with another OP than SUBMIT, of a ready module. -/
theorem exec_of_entry (hr : s.power.phase = .ready) {i : Instr} {op : Nat} (h0 : op ≠ 1) (h : op < 256)
    (he : exec i s = .next (if s.on then s.command client.toNat ref (withOp entry op) else s)) (hb : entryBad (withOp entry op) = false)
    {r : Byte × (State → State)} (ha : s.act client.toNat (withOp entry op) = r) :
    exec i s = .next (r.2 (s.cmdDone client.toNat (BitVec.ofNat 64 (lineBytes entry 31 24)) (withOp entry op) r.1)) := by
  rw [he, if_pos (s.on_eq hr), command_of_op h0 h hb, ha]

theorem act_of_none {c op : Nat} (h : op < 256) (hj : s.jobRef c (lineBytes entry 31 24) = none) : s.act c (withOp entry op) = (0x6B, id) := by
  rw [State.act, lineBytes_withOp_above entry h (by decide), hj]

variable {c j : Nat} {b : Job}

theorem act_stop_notes (hj : s.jobRef c (lineBytes entry 31 24) = some (j, b)) (h : b.steps = true ∨ b.camp.isSome = true) :
    s.act c (withOp entry 2) = (0, fun s => s.modJob j fun b => { b with stopAt := true }) := by
  simp only [State.act, lineBytes_withOp_above entry (show 2 < 256 by decide) (show 1 ≤ 24 by decide), hj,
    lineBytes_withOp entry (show 2 < 256 by decide), Bool.or_eq_true, h, if_true]

theorem act_stop_drops (hj : s.jobRef c (lineBytes entry 31 24) = some (j, b)) (hs : b.steps = false) (hc : b.camp = none) :
    s.act c (withOp entry 2) = (0, fun s => s.dropJob j b 0x6A) := by
  simp only [State.act, lineBytes_withOp_above entry (show 2 < 256 by decide) (show 1 ≤ 24 by decide), hj,
    lineBytes_withOp entry (show 2 < 256 by decide), hs, hc, Option.isSome_none, Bool.or_self, Bool.false_eq_true, if_false]

theorem act_resume_paused (hj : s.jobRef c (lineBytes entry 31 24) = some (j, b)) {p : Camp} (hp : b.camp = some p) (hs : p.paused = true) :
    s.act c (withOp entry 3) = (0, fun s => s.modCamp j fun c => { c with paused := false }) := by
  simp only [State.act, lineBytes_withOp_above entry (show 3 < 256 by decide) (show 1 ≤ 24 by decide), hj,
    lineBytes_withOp entry (show 3 < 256 by decide), hp, hs, if_true]

theorem act_resume_other (hj : s.jobRef c (lineBytes entry 31 24) = some (j, b)) (hp : b.camp = none) :
    s.act c (withOp entry 3) = (jobCfg, id) := by
  simp only [State.act, lineBytes_withOp_above entry (show 3 < 256 by decide) (show 1 ≤ 24 by decide), hj,
    lineBytes_withOp entry (show 3 < 256 by decide), hp]

theorem act_abort (hj : s.jobRef c (lineBytes entry 31 24) = some (j, b)) :
    s.act c (withOp entry 4) = (0, fun s => s.dropJob j b 0x69) := by
  simp only [State.act, lineBytes_withOp_above entry (show 4 < 256 by decide) (show 1 ≤ 24 by decide), hj,
    lineBytes_withOp entry (show 4 < 256 by decide)]

/-! ### Rings -/

theorem leNat_lt : ∀ bs : List Byte, leNat bs < 256 ^ bs.length
  | [] => by simp [leNat]
  | b :: bs => by
    have h := leNat_lt bs
    have hb := b.isLt
    simp only [leNat, List.length_cons, Nat.pow_succ]
    omega

theorem natAt_lt (s : State) (k n : Nat) : s.natAt k n < 256 ^ n := by
  have h := leNat_lt (Mem.bytes s.mem k n)
  rwa [Mem.bytes, List.length_map, List.length_range] at h

/-- A poll of a function that is there and enabled: an overrun, or its new entries one by one. -/
theorem exec_poll_of_enabled (hr : s.power.phase = .ready) (hf : client.toNat < 32) (ht : s.fnThere client.toNat = true)
    (he : (s.fn client.toNat).rcfg.msb = true) {prod cons : Nat} (hp : s.natAt (s.cmdKey client.toNat 0) 8 = prod)
    (hc : s.natAt (s.cmdKey client.toNat 8) 8 = cons) :
    exec (.commandRingPoll client) s = .next (if 2 ^ (s.fn client.toNat).live.rlog < (prod + 2 ^ 64 - cons) % 2 ^ 64 then
      ((s.complete { client := client.toNat, kind := 2, status := jobCfg, tag := 0, ref := 0, last := true }).setFn client.toNat
        { s.fn client.toNat with rcfg := (s.fn client.toNat).rcfg &&& 0x7FFFFFFFFFFFFFFF }).baroWrite 0x10 0 false
          [locW .client client.toNat, codeW 0 1 0]
      else s.consume client.toNat ((prod + 2 ^ 64 - cons) % 2 ^ 64) cons) := by
  change execCommandRingPoll client s = _
  have hcond : ¬(!s.on || 32 ≤ client.toNat || !s.fnThere client.toNat || !(s.fn client.toNat).en) = true := by
    simp [s.on_eq hr, hf, ht, Fn.en, he]
  rw [execCommandRingPoll, if_neg hcond, hp, hc]

theorem exec_poll_of_idle (h : s.fnThere client.toNat = false ∨ (s.fn client.toNat).rcfg.msb = false) :
    exec (.commandRingPoll client) s = .next s := by
  change execCommandRingPoll client s = _
  have hcond : (!s.on || 32 ≤ client.toNat || !s.fnThere client.toNat || !(s.fn client.toNat).en) = true := by
    rcases h with h | h <;> simp [Fn.en, h]
  rw [execCommandRingPoll, if_pos hcond]

theorem consume_one {f q : Nat} (ha : s.accepts (BitVec.ofNat 512 (s.natAt (s.cmdKey f (64 + q % 2 ^ (s.fn f).live.rlog * 64)) 64)) = true) :
    s.consume f 1 q =
      let u := s.command f (BitVec.ofNat 64 q) (BitVec.ofNat 512 (s.natAt (s.cmdKey f (64 + q % 2 ^ (s.fn f).live.rlog * 64)) 64))
      u.putAt (u.cmdKey f 8) (leBytes 8 (q + 1)) := by
  simp only [State.consume, ha, Bool.not_true, Bool.false_eq_true, if_false]

/-! ### Completions -/

theorem interrupt_of_unmasked {f v : Nat} (h : (s.fn f).masked v = false) : s.interrupt f v = s.emit (.msix f v) :=
  if_neg (by rw [h]; exact Bool.false_ne_true)

theorem interrupt_of_masked {f v : Nat} (h : (s.fn f).masked v = true) :
    s.interrupt f v = s.setFn f { s.fn f with pba := (s.fn f).pba ||| (1#64 <<< v) } := if_pos h

/-- The oldest held completion of a function that is there and takes it, without fault counts, where its ring has room. -/
theorem exec_completionWrite_of_room (hr : s.power.phase = .ready) {c : Compl}
    (hc : s.mill.held.find? (fun c => c.client = client.toNat) = some c) (ht : s.fnThere client.toNat = true)
    (he : (s.fn client.toNat).rcfg.msb = true ∨ c.last = true) {prod : Nat} (hp : s.natAt (s.cplKey client.toNat 0) 8 = prod)
    (hroom : (prod + 2 ^ 64 - s.natAt (s.cplKey client.toNat 8) 8) % 2 ^ 64 < 2 ^ (s.fn client.toNat).live.clog) (hf : c.flog = 0) :
    exec (.completionWrite client) s = .next (
      let u : State := { s with mill := { s.mill with held := s.mill.held.erase c } }
      let v := u.putAt (u.cplKey client.toNat (64 + prod % 2 ^ (s.fn client.toNat).live.clog * 64)) c.bytes
      let t := v.putAt (v.cplKey client.toNat 0) (leBytes 8 (prod + 1))
      if c.irq then t.interrupt client.toNat c.vec else t) := by
  change execCompletionWrite client s = _
  have hcond : ¬(!s.on || !s.fnThere client.toNat || !((s.fn client.toNat).en || c.last) ||
      decide (2 ^ (s.fn client.toNat).live.clog ≤ (prod + 2 ^ 64 - s.natAt (s.cplKey client.toNat 8) 8) % 2 ^ 64)) = true := by
    rw [decide_eq_false (Nat.not_le.mpr hroom)]
    rcases he with he | he <;> simp [s.on_eq hr, ht, Fn.en, he]
  rw [execCompletionWrite, hc, hp]
  simp only [State.writeCounts, hf, if_true]
  rw [if_neg hcond]

theorem exec_completionWrite_of_held {c : Compl} (hc : s.mill.held.find? (fun c => c.client = client.toNat) = some c)
    (h : ((s.fn client.toNat).rcfg.msb = false ∧ c.last = false) ∨ s.fnThere client.toNat = false ∨
      2 ^ (s.fn client.toNat).live.clog ≤ (s.natAt (s.cplKey client.toNat 0) 8 + 2 ^ 64 - s.natAt (s.cplKey client.toNat 8) 8) % 2 ^ 64) :
    exec (.completionWrite client) s = .next s := by
  change execCompletionWrite client s = _
  have hcond : (!s.on || !s.fnThere client.toNat || !((s.fn client.toNat).en || c.last) ||
      decide (2 ^ (s.fn client.toNat).live.clog ≤
        (s.natAt (s.cplKey client.toNat 0) 8 + 2 ^ 64 - s.natAt (s.cplKey client.toNat 8) 8) % 2 ^ 64)) = true := by
    rcases h with ⟨h1, h2⟩ | h | h
    · simp [Fn.en, h1, h2]
    · simp [h]
    · simp only [decide_eq_true h, Bool.or_true]
  rw [execCompletionWrite, hc]
  exact congrArg _ (if_pos hcond)

end Sys2Proof.Laws
end

section
/-! PROOFS. The statements on commands and completions. -/

open Sys2Proof Sys2Proof.Machine Sys2Proof.Claims Sys2Proof.Laws

/-- Settles O24: STOP, RESUME and ABORT by what the client's job is, the sender's binding, and the poll by the entries behind CONSUMER. -/
theorem jobControlCommands : Obligations.JobControlCommands := by
  refine ⟨?_, fun s hr => ⟨fun src ref entry => ⟨fun c hc => ?_, fun hc => ?_⟩, fun client hf => ?_⟩⟩
  · intro s client ref entry hr h2 h3 h4 c name said
    have hstop {r} := exec_of_entry (s := s) (client := client) (ref := ref) (r := r) hr (by decide) (by decide) (i := .stop client ref entry) rfl h2
    have hresume {r} := exec_of_entry (s := s) (client := client) (ref := ref) (r := r) hr (by decide) (by decide) (i := .resume client ref entry) rfl h3
    have habort {r} := exec_of_entry (s := s) (client := client) (ref := ref) (r := r) hr (by decide) (by decide) (i := .abort client ref entry) rfl h4
    exact ⟨fun hj => ⟨hstop (act_of_none (by decide) hj), hresume (act_of_none (by decide) hj), habort (act_of_none (by decide) hj)⟩,
      fun j b hj => ⟨fun h => hstop (act_stop_notes hj h), fun hs hc => hstop (act_stop_drops hj hs hc),
        fun p hp hs => hresume (act_resume_paused hj hp hs), fun hp => hresume (act_resume_other hj hp), habort (act_abort hj)⟩⟩
  · change execRemoteCommand src ref entry s = _
    rw [execRemoteCommand, if_pos (s.on_eq hr), State.recvCommand, BitVec.ofNat_toNat, BitVec.setWidth_eq, hc]
  · change execRemoteCommand src ref entry s = _
    have hnone : ((List.range 256).find? fun c => s.binding c = some src) = none :=
      List.find?_eq_none.mpr fun c hm => by simpa using hc c (List.mem_range.mp hm)
    rw [execRemoteCommand, if_pos (s.on_eq hr), State.recvCommand, BitVec.ofNat_toNat, BitVec.setWidth_eq, hnone]
  · intro f prod cons e u
    have hprod : prod < 2 ^ 64 := natAt_lt s _ 8
    have hcons : cons < 2 ^ 64 := natAt_lt s _ 8
    refine ⟨fun h => ?_, fun ht he hnew ha => ?_, fun ht he hle hover => ?_⟩
    · by_cases hidle : s.fnThere f = false ∨ (s.fn f).rcfg.msb = false
      · exact exec_poll_of_idle hidle
      · obtain ⟨ht, he⟩ : s.fnThere f = true ∧ (s.fn f).rcfg.msb = true := by simpa using hidle
        have heq : prod = cons := by simpa [ht, he] using h
        have hn : (cons + 2 ^ 64 - cons) % 2 ^ 64 = 0 := by omega
        rw [exec_poll_of_enabled hr hf ht he heq rfl, hn, if_neg (Nat.not_lt_zero _)]
        rfl
    · have hn : (cons + 1 + 2 ^ 64 - cons) % 2 ^ 64 = 1 := by omega
      have hpos : 0 < 2 ^ (s.fn f).live.rlog := Nat.two_pow_pos _
      rw [exec_poll_of_enabled hr hf ht he hnew rfl, hn, if_neg (Nat.not_lt.mpr hpos), consume_one ha]
    · have hn : (prod + 2 ^ 64 - cons) % 2 ^ 64 = prod - cons := by omega
      let c : Compl := { client := f, kind := 2, status := jobCfg, tag := 0, ref := 0, last := true }
      have hheld : s.complete c =
          { s with mill := { s.mill with held := s.mill.held ++ [c] } } := by
        rw [State.complete, if_neg (show ¬f = 32 by omega), if_neg (show ¬33 ≤ f by omega)]
      refine ⟨_, exec_poll_of_enabled hr hf ht he rfl rfl, ?_, c, rfl, rfl, rfl, ?_⟩
      · rw [if_pos (by rw [hn]; exact hover), baroWrite_transient, hheld]
        rfl
      · rw [if_pos (by rw [hn]; exact hover), baroWrite_transient, hheld]
        rfl

/-- Settles O25: the completion is written where the ring has room, and waits otherwise. -/
theorem completionWrites : Obligations.CompletionWrites := by
  intro s client c hr hc f prod cons u v t
  have hcons : cons < 2 ^ 64 := natAt_lt s _ 8
  refine ⟨fun ht he hle hlt hroom hf => ?_, fun h => exec_completionWrite_of_held hc (h.imp_right (Or.imp_right ?_))⟩
  · have hn : (prod + 2 ^ 64 - cons) % 2 ^ 64 < 2 ^ (s.fn f).live.clog := by
      rwa [show (prod + 2 ^ 64 - cons) % 2 ^ 64 = prod - cons by omega]
    have hexec := exec_completionWrite_of_room hr hc ht he rfl hn hf
    refine ⟨fun hi => ?_, fun hi hm => ?_, fun hi hm => ?_⟩
    · rw [hexec, hi]
      rfl
    · rw [hexec, hi]
      exact congrArg _ (interrupt_of_unmasked (s := t) hm)
    · rw [hexec, hi]
      exact congrArg _ (interrupt_of_masked (s := t) hm)
  · rintro ⟨hle, hlt, hfull⟩
    rwa [show (prod + 2 ^ 64 - cons) % 2 ^ 64 = prod - cons by omega]

end

section
/-! SUPPORT. The fields of a register after a write of it, bit by bit (R12, R16, R17). -/

namespace Sys2Proof.Laws

open Sys2Proof.Machine

/-! ### Bits of a field -/

theorem testBit_bitsOf (v lo w i : Nat) : (bitsOf v lo w).testBit i = (decide (i < w) && v.testBit (lo + i)) := by
  rw [bitsOf, Nat.testBit_mod_two_pow, Nat.testBit_shiftRight]

theorem bitsOf_lt (v lo w : Nat) : bitsOf v lo w < 2 ^ w := Nat.mod_lt _ (Nat.two_pow_pos w)

/-- A number cut at a field: what lies above, the field, and what lies below. -/
theorem split_field (v lo w : Nat) : v = 2 ^ lo * (2 ^ w * (v / 2 ^ (lo + w)) + bitsOf v lo w) + v % 2 ^ lo := by
  have h1 : v = 2 ^ lo * (v / 2 ^ lo) + v % 2 ^ lo := (Nat.div_add_mod _ _).symm
  have h2 : v / 2 ^ lo = 2 ^ w * (v / 2 ^ (lo + w)) + bitsOf v lo w := by
    rw [bitsOf, Nat.shiftRight_eq_div_pow, Nat.pow_add, ← Nat.div_div_eq_div_mul]
    exact (Nat.div_add_mod _ _).symm
  rw [← h2]
  exact h1

theorem testBit_replace (hi x l lo w i : Nat) (hx : x < 2 ^ w) (hl : l < 2 ^ lo) :
    (2 ^ lo * (2 ^ w * hi + x) + l).testBit i =
      if i < lo then l.testBit i else if i < lo + w then x.testBit (i - lo) else hi.testBit (i - (lo + w)) := by
  rw [Nat.testBit_two_pow_mul_add _ hl]
  split
  · rfl
  · rw [Nat.testBit_two_pow_mul_add _ hx]
    by_cases h : i - lo < w
    · rw [if_pos h, if_pos (by omega)]
    · rw [if_neg h, if_neg (by omega), Nat.sub_sub]

/-- A field that is written without a reserved code holds the value's bits, and every other bit stays. -/
theorem testBit_fldPut (f : Fld) (v old i : Nat) :
    (f.put v old).testBit i =
      if f.lo ≤ i ∧ i < f.lo + f.w ∧ f.bad (bitsOf v f.lo f.w) = false then v.testBit i else old.testBit i := by
  unfold Fld.put
  by_cases hb : f.bad (bitsOf v f.lo f.w) = true
  · simp [hb]
  · have hold := split_field old f.lo f.w
    have hnew : old - bitsOf old f.lo f.w * 2 ^ f.lo + bitsOf v f.lo f.w * 2 ^ f.lo =
        2 ^ f.lo * (2 ^ f.w * (old / 2 ^ (f.lo + f.w)) + bitsOf v f.lo f.w) + old % 2 ^ f.lo := by
      have hkey (k a m x l : Nat) : k * (a + m) + l - m * k + x * k = k * (a + x) + l := by
        rw [Nat.mul_add, Nat.mul_add, Nat.mul_comm m, Nat.mul_comm x]
        omega
      exact (congrArg (· - _ + _) hold).trans (hkey ..)
    dsimp only
    rw [if_neg hb, hnew, testBit_replace _ _ _ _ _ _ (bitsOf_lt ..) (Nat.mod_lt _ (Nat.two_pow_pos _))]
    conv_rhs => rw [hold]
    rw [testBit_replace _ _ _ _ _ _ (bitsOf_lt ..) (Nat.mod_lt _ (Nat.two_pow_pos _))]
    rw [Bool.not_eq_true] at hb
    by_cases h1 : i < f.lo
    · simp [h1]
    · by_cases h2 : i < f.lo + f.w
      · have h3 : i - f.lo < f.w := by omega
        have h4 : f.lo + (i - f.lo) = i := by omega
        simp [h1, h2, h3, h4, testBit_bitsOf, hb, Nat.not_lt.mp h1]
      · simp [h1, h2]

/-! ### JOB_RCFG -/

variable {s t u : State}

section
variable (v x : Nat)

/-- The bits of JOB_RCFG that a write reaches: EN, the ring spaces, and the two log sizes where they are not reserved. -/
theorem testBit_rcfg_flag {i : Nat} (h : 61 ≤ i) (h' : i ≤ 63) : (putFields rcfgFields v x).testBit i = v.testBit i := by
  have : i = 61 ∨ i = 62 ∨ i = 63 := by omega
  rcases this with rfl | rfl | rfl <;> simp [putFields, rcfgFields, fld, testBit_fldPut]

theorem bitsOf_rcfg_rlog : bitsOf (putFields rcfgFields v x) 20 4 = if 4 ≤ bitsOf v 20 4 then bitsOf v 20 4 else bitsOf x 20 4 := by
  refine Nat.eq_of_testBit_eq fun i => ?_
  rw [apply_ite (Nat.testBit · i), testBit_bitsOf, testBit_bitsOf, testBit_bitsOf]
  by_cases hi : i < 4
  · have : i = 0 ∨ i = 1 ∨ i = 2 ∨ i = 3 := by omega
    rcases this with rfl | rfl | rfl | rfl <;> simp [putFields, rcfgFields, fld, testBit_fldPut]
  · simp [hi]

theorem bitsOf_rcfg_clog : bitsOf (putFields rcfgFields v x) 16 4 = if 4 ≤ bitsOf v 16 4 then bitsOf v 16 4 else bitsOf x 16 4 := by
  refine Nat.eq_of_testBit_eq fun i => ?_
  rw [apply_ite (Nat.testBit · i), testBit_bitsOf, testBit_bitsOf, testBit_bitsOf]
  by_cases hi : i < 4
  · have : i = 0 ∨ i = 1 ∨ i = 2 ∨ i = 3 := by omega
    rcases this with rfl | rfl | rfl | rfl <;> simp [putFields, rcfgFields, fld, testBit_fldPut]
  · simp [hi]

end

theorem bitsOf_four (v lo : Nat) : bitsOf v lo 4 = v / 2 ^ lo % 16 := congrArg (· % 16) (Nat.shiftRight_eq_div_pow v lo)

/-- The ring settings that come into force when EN rises (R495). -/
def rcfgRings (n : Nat) (x : Fn) : Rings :=
  { rspace := n.testBit 62, cspace := n.testBit 61, rlog := bitsOf n 20 4, clog := bitsOf n 16 4, rbase := x.rbase, cbase := x.cbase }

/-! ### The jobs of a client that end -/

open Sys2Proof.Claims

/-- A job whose end is decided and that completes without an entry. -/
def Dropped (b : Job) : Prop := b.endWith.isSome = true ∧ b.quiet = true

/-- JOB_RCFG's reset value. -/
def resetRcfg : Word := 0x0004000000440000

/-- The second state comes from the first by ends of jobs and resets of functions: no job appears or changes its client, one that has
been dropped stays so, and a function at its reset value stays there. -/
structure JobsFollow (s t : State) : Prop where
  rising : Rising s.mill.jobs → Rising t.mill.jobs
  jobs : ∀ p ∈ t.mill.jobs, ∃ q ∈ s.mill.jobs, q.1 = p.1 ∧ q.2.client = p.2.client ∧ (Dropped q.2 → Dropped p.2)
  fns : Rising s.host.fns → Rising t.host.fns ∧ ∀ f, (s.fn f).rcfg = resetRcfg → (t.fn f).rcfg = resetRcfg
  vfs : t.host.vfs = s.host.vfs

namespace JobsFollow

theorem refl (s : State) : JobsFollow s s := ⟨id, fun p hp => ⟨p, hp, rfl, rfl, id⟩, fun h => ⟨h, fun _ => id⟩, rfl⟩

theorem trans (h : JobsFollow s t) (h' : JobsFollow t u) : JobsFollow s u where
  rising hs := h'.rising (h.rising hs)
  jobs p hp := by
    obtain ⟨q, hq, hn, hc, hd⟩ := h'.jobs p hp
    obtain ⟨r, hr, hn', hc', hd'⟩ := h.jobs q hq
    exact ⟨r, hr, hn'.trans hn, hc'.trans hc, hd ∘ hd'⟩
  fns hs :=
    have ht := h.fns hs
    have hu := h'.fns ht.1
    ⟨hu.1, fun f hf => hu.2 f (ht.2 f hf)⟩
  vfs := h'.vfs.trans h.vfs

/-- A change that leaves the host's functions. -/
theorem hosted (hh : t.host = s.host) (hr : Rising s.mill.jobs → Rising t.mill.jobs)
    (hj : ∀ p ∈ t.mill.jobs, ∃ q ∈ s.mill.jobs, q.1 = p.1 ∧ q.2.client = p.2.client ∧ (Dropped q.2 → Dropped p.2)) : JobsFollow s t where
  rising := hr
  jobs := hj
  fns h := by
    unfold State.fn
    rw [hh]
    exact ⟨h, fun _ => id⟩
  vfs := congrArg _ hh

theorem same (hh : t.host = s.host) (hj : t.mill.jobs = s.mill.jobs) : JobsFollow s t :=
  hosted hh (fun h => hj ▸ h) fun p hp => ⟨p, hj ▸ hp, rfl, rfl, id⟩

theorem setJob {j : Nat} {b b' : Job} (hb : s.job? j = some b) (hc : b'.client = b.client) (hd : Dropped b → Dropped b') :
    JobsFollow s (s.setJob j b') :=
  hosted rfl (fun h => rising_put h j b') fun p hp => by
    rcases put_mem hp with rfl | hp
    · exact ⟨_, mem_of_find? hb, rfl, hc.symm, hd⟩
    · exact ⟨p, hp, rfl, rfl, id⟩

theorem endJob (s : State) (j : Nat) (code : Byte) : JobsFollow s (s.endJob j code) := by
  unfold State.endJob
  split
  · exact refl s
  next b hb =>
    split
    · exact refl s
    · refine (setJob (b' := { b with endWith := some code }) hb ?_ fun h => ⟨rfl, h.2⟩).trans (same rfl rfl)
      rfl

theorem foldl {α : Type} {f : State → α → State} (hf : ∀ s a, JobsFollow s (f s a)) : ∀ (l : List α) (s : State), JobsFollow s (l.foldl f s)
  | [], s => refl s
  | a :: l, s => (hf s a).trans (foldl hf l _)

theorem closeShuttles_same (s : State) (b : Job) : (s.closeShuttles b).host = s.host ∧ (s.closeShuttles b).mill = s.mill := by
  refine Prod.mk.inj (foldl_keeps (fun u : State => (u.host, u.mill)) (fun _ _ => ?_) _ s)
  rfl

/-- What is left of the jobs when one is released. -/
theorem releaseJob_same (s : State) (j : Nat) (b : Job) :
    (s.releaseJob j b).host = s.host ∧ (s.releaseJob j b).mill.jobs = s.mill.jobs.drop j := by
  unfold State.releaseJob
  extract_lets t1 t2 t3 m
  have h3 : t3.host = s.host ∧ t3.mill = s.mill := by
    unfold t3
    split
    · exact ⟨rfl, rfl⟩
    · exact closeShuttles_same t2 b
  exact ⟨h3.1, congrArg (·.jobs.drop j) h3.2⟩

theorem writeCounts_same (s : State) (c : Compl) : (s.writeCounts c).host = s.host ∧ (s.writeCounts c).mill = s.mill := by
  unfold State.writeCounts
  split <;> exact ⟨rfl, rfl⟩

theorem complete_same (s : State) (c : Compl) : (s.complete c).host = s.host ∧ (s.complete c).mill.jobs = s.mill.jobs := by
  have hw := writeCounts_same s c
  unfold State.complete
  split
  · exact ⟨hw.1, (congrArg Mill.jobs hw.2 :)⟩
  · split
    · split
      next d _ =>
        have hs := (sansFabric_emit _ (.remoteCompl d c.bytes)).trans (sansFabric_send (s.writeCounts c) { dst := d, tc := 1, type := 0, data := c.bytes })
        exact ⟨(congrArg State.host hs :).trans hw.1, (congrArg (fun u : State => u.mill.jobs) hs :).trans (congrArg _ hw.2)⟩
      · exact ⟨rfl, rfl⟩
    · exact ⟨rfl, rfl⟩

/-- A job that is removed leaves the table, and nothing else of it changes. -/
theorem removeJob_same (s : State) (j : Nat) (status : Byte) :
    (s.removeJob j status).host = s.host ∧
      ((s.removeJob j status).mill.jobs = s.mill.jobs ∧ s.job? j = none ∨ (s.removeJob j status).mill.jobs = s.mill.jobs.drop j) := by
  unfold State.removeJob
  split
  next h => exact ⟨rfl, .inl ⟨rfl, h⟩⟩
  next b hb =>
    have hr := releaseJob_same s j b
    extract_lets fl u
    have hu : u.host = s.host ∧ u.mill.jobs = s.mill.jobs.drop j := hr
    split
    · exact ⟨hu.1, .inr hu.2⟩
    · have hc := complete_same u (b.compl status fl.1 fl.2)
      exact ⟨hc.1.trans hu.1, .inr (hc.2.trans hu.2)⟩

theorem removeJob (s : State) (j : Nat) (status : Byte) : JobsFollow s (s.removeJob j status) := by
  obtain ⟨hh, ⟨hj, _⟩ | hj⟩ := removeJob_same s j status
  · exact same hh hj
  · exact hosted hh (fun h => hj ▸ rising_drop h j) fun p hp => ⟨p, mem_drop (hj ▸ hp), rfl, rfl, id⟩

theorem reap (s : State) : JobsFollow s s.reap := by
  refine foldl (fun s p => ?_) _ s
  split
  · split
    · exact removeJob ..
    · exact refl s
  · exact refl s

theorem dropJob (s : State) (j : Nat) (b : Job) (code : Byte) : JobsFollow s (s.dropJob j b code) := by
  unfold State.dropJob
  split
  · exact removeJob ..
  · exact (endJob ..).trans (reap _)

theorem quieten (s : State) (j : Nat) : JobsFollow s (s.modJob j fun b => { b with quiet := true }) := by
  unfold State.modJob
  split
  next b hb =>
    refine setJob hb ?_ fun h => ⟨h.1, rfl⟩
    rfl
  · exact refl s

/-- The end of a job that an end was decided for. -/
theorem job?_endJob {j : Nat} {code : Byte} {b : Job} (h : (s.endJob j code).job? j = some b) :
    ∃ b0, s.job? j = some b0 ∧ b.endWith.isSome = true ∧ b.quiet = b0.quiet := by
  unfold State.endJob at h
  split at h
  next hn => rw [hn] at h; cases h
  next b0 hb =>
    split at h
    next he => exact ⟨b0, hb, by rw [hb] at h; cases h; exact ⟨he, rfl⟩⟩
    next =>
      have h' : ((s.setJob j { b0 with endWith := some code }).job? j) = some b := h
      rw [State.job?_setJob_same] at h'
      cases h'
      exact ⟨b0, hb, rfl, rfl⟩

/-- A job that is taken away quietly is gone, or its end is decided and completes without an entry. -/
theorem dropped_dropJob (h : Rising s.mill.jobs) (j : Nat) (b : Job) (code : Byte) :
    ∀ p ∈ ((s.modJob j fun b => { b with quiet := true }).dropJob j b code).mill.jobs, p.1 = j → Dropped p.2 := by
  have hq := (quieten s j).rising h
  have hquiet : ∀ b', (s.modJob j fun b => { b with quiet := true }).job? j = some b' → b'.quiet = true := by
    intro b' hb'
    unfold State.modJob at hb'
    split at hb'
    next b1 _ =>
      rw [State.job?_setJob_same] at hb'
      exact Option.some.inj hb' ▸ rfl
    next hn => rw [hn] at hb'; cases hb'
  generalize (s.modJob j fun b => { b with quiet := true }) = u at hq hquiet
  intro p hp hpj
  unfold State.dropJob at hp
  split at hp
  · obtain ⟨_, ⟨hj, hn⟩ | hj⟩ := removeJob_same u j code
    · rw [hj] at hp
      rw [State.job?, ← hpj, find?_of_mem hq hp] at hn
      cases hn
    · rw [hj] at hp
      exact absurd hpj (ne_of_mem_drop hq hp)
  · obtain ⟨q, hqm, hqn, _, hd⟩ := (reap _).jobs p hp
    refine hd ?_
    have hfind := find?_of_mem ((endJob u j code).rising hq) hqm
    rw [hqn, hpj] at hfind
    obtain ⟨b0, hb0, he, hquiet0⟩ := job?_endJob hfind
    exact ⟨he, hquiet0.trans (hquiet b0 hb0)⟩

/-- One round of `abortClient`. -/
def abortOne (client : Nat) (s : State) (p : Nat × Job) : State :=
  if p.2.client = client then (s.modJob p.1 fun b => { b with quiet := true }).dropJob p.1 p.2 0x69 else s

theorem abortOne_follows (client : Nat) (s : State) (p : Nat × Job) : JobsFollow s (abortOne client s p) := by
  unfold abortOne
  split
  · exact (quieten ..).trans (dropJob ..)
  · exact refl s

/-- After the rounds over a list of jobs, those of the client in it are dropped. -/
theorem dropped_abort (client : Nat) : ∀ (l : List (Nat × Job)) (s : State), Rising s.mill.jobs →
    ∀ p ∈ (l.foldl (abortOne client) s).mill.jobs, ∀ q ∈ l, q.1 = p.1 → q.2.client = client → Dropped p.2
  | [], _, _, _, _, q, hq, _, _ => nomatch hq
  | r :: l, s, hs, p, hp, q, hq, hn, hc => by
    have h1 := abortOne_follows client s r
    rcases List.mem_cons.mp hq with rfl | hq
    · obtain ⟨p', hp', hn', _, hd⟩ := (foldl (abortOne_follows client) l _).jobs p hp
      have hone : abortOne client s q = (s.modJob q.1 fun b => { b with quiet := true }).dropJob q.1 q.2 0x69 := if_pos hc
      rw [hone] at hp'
      exact hd (dropped_dropJob hs q.1 q.2 0x69 p' hp' (hn'.trans hn.symm))
    · exact dropped_abort client l _ (h1.rising hs) p hp q hq hn hc

theorem abortClient (s : State) (client : Nat) : JobsFollow s (s.abortClient client) := foldl (abortOne_follows client) _ s

/-- Every job of the client is dropped. -/
theorem dropped_abortClient (h : Rising s.mill.jobs) (client : Nat) : ∀ p ∈ (s.abortClient client).mill.jobs, p.2.client = client → Dropped p.2 := by
  intro p hp hc
  obtain ⟨q, hq, hn, hqc, _⟩ := (abortClient s client).jobs p hp
  exact dropped_abort client s.mill.jobs s h p hp q hq hn (hqc.trans hc)

/-! ### Resets of functions -/

theorem setRcfg (s : State) (f : Nat) : JobsFollow s (s.setFn f { s.fn f with rcfg := resetRcfg }) where
  rising := id
  jobs p hp := ⟨p, hp, rfl, rfl, id⟩
  fns h := by
    refine ⟨rising_set h _ _ _, fun g hg => ?_⟩
    by_cases hfg : f = g
    · subst hfg
      exact congrArg Fn.rcfg (Table.get_set_same (tableRising_zero h) f _ _)
    · exact (congrArg Fn.rcfg (Table.get_set_other (tableRising_zero h) _ _ hfg)).trans hg
  vfs := rfl

theorem resetFn (s : State) (f : Nat) : JobsFollow s (s.resetFn f) := (setRcfg s f).trans (abortClient _ f)

/-- A function that is reset holds the reset value, and its client's jobs are dropped. -/
theorem resetFn_reset (hf : Rising s.host.fns) (hj : Rising s.mill.jobs) (f : Nat) :
    ((s.resetFn f).fn f).rcfg = resetRcfg ∧ ∀ p ∈ (s.resetFn f).mill.jobs, p.2.client = f → Dropped p.2 := by
  have hset := (setRcfg s f).fns hf
  have hsame : ((s.setFn f { s.fn f with rcfg := resetRcfg }).fn f).rcfg = resetRcfg :=
    congrArg Fn.rcfg (Table.get_set_same (tableRising_zero hf) f _ _)
  exact ⟨((abortClient _ f).fns hset.1).2 f hsame, dropped_abortClient (s := s.setFn f _) hj f⟩

/-- After resets of a list of functions each of them holds the reset value, and their clients' jobs are dropped. -/
theorem resetFns_reset : ∀ (l : List Nat) (s : State), Rising s.host.fns → Rising s.mill.jobs → ∀ f ∈ l,
    ((l.foldl State.resetFn s).fn f).rcfg = resetRcfg ∧ ∀ p ∈ (l.foldl State.resetFn s).mill.jobs, p.2.client = f → Dropped p.2
  | [], _, _, _, _, hf => nomatch hf
  | g :: l, s, hs, hj, f, hf => by
    have h1 := resetFn s g
    have hl : JobsFollow (s.resetFn g) (l.foldl State.resetFn (s.resetFn g)) := foldl resetFn l _
    rcases List.mem_cons.mp hf with rfl | hf
    · have hr := resetFn_reset hs hj f
      refine ⟨(hl.fns (h1.fns hs).1).2 f hr.1, fun p hp hc => ?_⟩
      obtain ⟨q, hq, _, hqc, hd⟩ := hl.jobs p hp
      exact hd (hr.2 q hq (hqc.trans hc))
    · exact resetFns_reset l _ (h1.fns hs).1 (h1.rising hj) f hf

end JobsFollow

/-- The reset of the PF, with the state in which every function is reset. -/
theorem resetPf_reset (hf : Rising s.host.fns) (hj : Rising s.mill.jobs) :
    (s.resetPf).host.vfs = 0 ∧ ∀ f, f < 32 → f ≤ s.host.vfs →
      (s.resetPf.fn f).rcfg = resetRcfg ∧ ∀ p ∈ s.resetPf.mill.jobs, p.2.client = f → Dropped p.2 := by
  let u := s.resetFn 0
  let l := (List.range 32).filter fun f => 0 < f && u.fnThere f
  have hu := JobsFollow.resetFn s 0
  have hl : JobsFollow u (l.foldl State.resetFn u) := JobsFollow.foldl JobsFollow.resetFn l u
  refine ⟨rfl, fun f h32 hle => ?_⟩
  change ((l.foldl State.resetFn u).fn f).rcfg = _ ∧ ∀ p ∈ (l.foldl State.resetFn u).mill.jobs, _
  by_cases h0 : f = 0
  · subst h0
    have hr := JobsFollow.resetFn_reset hf hj 0
    refine ⟨(hl.fns (hu.fns hf).1).2 0 hr.1, fun p hp hc => ?_⟩
    obtain ⟨q, hq, _, hqc, hd⟩ := hl.jobs p hp
    exact hd (hr.2 q hq (hqc.trans hc))
  · have hmem : f ∈ l := by
      have : f ≤ u.host.vfs := hu.vfs ▸ hle
      simp only [l, List.mem_filter, List.mem_range, State.fnThere, Bool.and_eq_true, decide_eq_true_eq]
      exact ⟨h32, Nat.pos_of_ne_zero h0, this⟩
    exact JobsFollow.resetFns_reset l u (hu.fns hf).1 (hu.rising hj) f hmem

end Sys2Proof.Laws
end

section
/-! PROOFS. The statement on JOB_RCFG and the resets of functions. -/

open Sys2Proof Sys2Proof.Machine Sys2Proof.Claims Sys2Proof.Laws

/-- Settles O26: the write field by field, and the resets by what they leave of the client's jobs. -/
theorem ringConfigurationAndFunctionResets : Obligations.RingConfigurationAndFunctionResets := by
  refine ⟨fun s fn v hr => ?_, fun s fn hr hf hj => ?_⟩
  · intro x n y
    have hon := s.on_eq hr
    have hbit : ∀ i, 61 ≤ i → i ≤ 63 → n.testBit i = v.getLsbD i := fun i h h' => testBit_rcfg_flag v.toNat x.rcfg.toNat h h'
    have hen : y.en = v.msb := by
      rw [Fn.en, BitVec.msb_eq_getLsbD_last, BitVec.msb_eq_getLsbD_last, BitVec.getLsbD_ofNat]
      exact hbit 63 (by decide) (by decide)
    have hexec (ht : s.fnThere fn.toNat = true) : exec (.jobRcfgWrite fn v) s = .next (s.setFn fn.toNat
        (if y.en && !x.en then { y with live := rcfgRings n x } else y)) := by
      change execJobRcfgWrite fn v s = _
      rw [execJobRcfgWrite, if_neg (by simp [hon, ht])]
      rfl
    refine ⟨fun ht => ?_, fun ht h => ?_, fun ht hx hv => ?_⟩
    · change execJobRcfgWrite fn v s = _
      rw [execJobRcfgWrite, if_pos (by simp [ht])]
    · rw [hexec ht, if_neg]
      rcases h with h | h
      · simp [show x.en = true from h]
      · simp [hen, h]
    · refine ⟨rcfgRings n x, ?_, rfl, rfl, hbit 62 (by decide) (by decide), hbit 61 (by decide) (by decide), fun h => ?_, fun h => ?_,
        fun h => ?_, fun h => ?_⟩
      · rw [hexec ht, if_pos (by rw [hen, hv, show x.en = false from hx]; rfl)]
      · exact (bitsOf_rcfg_rlog ..).trans (by rw [bitsOf_four, if_pos h])
      · exact (bitsOf_rcfg_rlog ..).trans (by rw [bitsOf_four, bitsOf_four, if_neg (by omega)])
      · exact (bitsOf_rcfg_clog ..).trans (by rw [bitsOf_four, if_pos h])
      · exact (bitsOf_rcfg_clog ..).trans (by rw [bitsOf_four, bitsOf_four, if_neg (by omega)])
  · have hon := s.on_eq hr
    have hbme : exec (.busMasterEnableClear fn) s = .next (if s.fnThere fn.toNat then s.resetFn fn.toNat else s) := by
      change execBusMasterEnableClear fn s = _
      rw [execBusMasterEnableClear, hon, Bool.true_and]
    have hflr (fn : BitVec 5) : exec (.functionLevelReset fn) s =
        .next (if s.fnThere fn.toNat then if fn = 0 then s.resetPf else s.resetFn fn.toNat else s) := by
      change execFunctionLevelReset fn s = _
      rw [execFunctionLevelReset, hon]
      cases s.fnThere fn.toNat <;> rfl
    refine ⟨fun ht => ?_, fun ht => ?_, ?_⟩
    · rw [hbme, hflr, ht]
      exact ⟨rfl, rfl⟩
    · have hreset := JobsFollow.resetFn_reset hf hj fn.toNat
      refine ⟨_, hbme.trans (by rw [ht]; rfl), hreset.1, hreset.2, fun h0 => ?_⟩
      rw [hflr, ht, if_neg h0]
      rfl
    · have hreset := resetPf_reset hf hj
      refine ⟨_, hflr 0, hreset.1, fun f h32 hle => (hreset.2 f h32 hle).1, fun p hp h32 hle => (hreset.2 p.2.client h32 hle).2 p hp rfl⟩

end

section
/-! PROOFS. The tick of the time counter, and the reset values (R12, R570). -/

namespace Sys2Proof.Laws

open Sys2Proof.Machine

variable {s : State}

/-- The stall counts are in the frames, and nothing else changes when they count. -/
theorem countStalls_frames (s : State) : { s.countStalls with frames := [] } = { s with frames := [] } :=
  foldl_keeps (fun u : State => { u with frames := [] }) (f := fun s f =>
    let x := s.frame f
    if s.stalled f ∧ x.stall ≠ 0xFFFF then s.setFrame f { x with stall := x.stall + 1 } else s)
    (fun u f => by dsimp only; split <;> rfl) (List.range 32) s

/-- Flits that go out change the fabric and what is sent. -/
theorem sansFabric_flushLinks (s : State) : sansFabric s.flushLinks = sansFabric s :=
  foldl_keeps sansFabric (f := fun s (l : Nat × Link) => s.flushLink l.1) (fun s l => sansFabric_flushLink s l.1) _ s

/-- The end of a pulse of PPS_OUT changes the pulse and what is sent. -/
theorem endPulse {u t : State} (ht : { t with frames := [] } = { u with frames := [] }) : ∃ p,
    { (if t.time.ppsOut ∧ t.time.ppsEnd ≤ t.ns then ({ t with time := { t.time with ppsOut := false } }).emit (.pps false) else t) with
      frames := [], out := [] } = { u with frames := [], out := [], time := { u.time with ppsOut := p } } := by
  split
  · refine ⟨false, ?_⟩
    exact (congrArg (fun v : State => ({ v with out := [], time := { v.time with ppsOut := false } } : State)) ht :)
  · refine ⟨u.time.ppsOut, ?_⟩
    exact (congrArg (fun v : State => ({ v with out := [] } : State)) ht :)

/-- The state after a tick of a module that is not off, but for the frames, the pulse and what is sent. -/
theorem tick_of_running (h : s.power.phase ≠ .off) (h' : s.power.phase ≠ .thermalOff) :
    ∃ p, { s.tick with frames := [], out := [] } =
      { s.flushLinks with frames := [], out := [], time := { s.flushLinks.time.advance with ppsOut := p } } := by
  have htick : s.tick =
      (let u := s.flushLinks
       let t := { u with time := u.time.advance }
       let t := if u.ns / 1000 = t.ns / 1000 then t else t.countStalls
       if t.time.ppsOut ∧ t.time.ppsEnd ≤ t.ns then ({ t with time := { t.time with ppsOut := false } }).emit (.pps false) else t) := by
    unfold State.tick
    cases hp : s.power.phase
    case off => exact absurd hp h
    case thermalOff => exact absurd hp h'
    all_goals rfl
  rw [htick]
  refine endPulse (u := { s.flushLinks with time := s.flushLinks.time.advance }) ?_
  split
  · rfl
  · exact countStalls_frames _

end Sys2Proof.Laws
end

section
/-! PROOFS. The statements on the tick and on reset. -/

open Sys2Proof Sys2Proof.Machine Sys2Proof.Laws

/-- Settles O2: `tick`, by whether the clocks run. -/
theorem emptyQueueTicks : Obligations.EmptyQueueTicks := by
  intro s hq
  have hstep : step s = .next s.tick := by rw [step, hq]
  refine ⟨fun h h' => ⟨_, hstep, ?_⟩, fun h => ?_⟩
  · obtain ⟨p, ht⟩ := tick_of_running h h'
    have hf := sansFabric_flushLinks s
    refine ⟨(congrArg (fun v : State => v.time.now) ht :).trans ?_, (congrArg State.mem ht :).trans (congrArg State.mem hf :),
      (congrArg State.spindles ht :).trans (congrArg State.spindles hf :), (congrArg State.mill ht :).trans (congrArg State.mill hf :),
      (congrArg State.fabric ht :), (congrArg State.baro ht :).trans (congrArg State.baro hf :),
      (congrArg State.power ht :).trans (congrArg State.power hf :), (congrArg State.sec ht :).trans (congrArg State.sec hf :)⟩
    exact (congrArg (fun v : State => v.time.advance.now) hf :)
  · rw [hstep, State.tick]
    rcases h with h | h <;> rw [h]

/-- Settles O55: every register of the reset state, read. -/
theorem resetRegisters : Obligations.ResetRegisters := by
  refine ⟨rfl, rfl, fun w => ⟨rfl, rfl, rfl, rfl, rfl, rfl, rfl⟩, fun f => ⟨rfl, rfl, rfl, rfl⟩, fun l => ⟨rfl, rfl⟩, rfl, rfl, rfl, ?_, ?_, ?_, ?_, rfl, rfl, rfl, rfl, rfl, fun n => congrArg (leBytes 64) (BitVec.toNat_zero (w := 512)),
    fun c => rfl⟩
  · decide
  · decide
  · decide
  · decide

end

section
/-! PROOFS. Start-up, the save, and the operating points (R573 to R595). -/

namespace Sys2Proof.Laws

open Sys2Proof.Machine

variable {s : State}

/-! ### Memory over a power loss -/

/-- A filter that keeps a key keeps what it reads as, in a canonical memory. -/
theorem memGet_filter {f : Host.Cell → Bool} {k : Nat} (hf : ∀ b, f (k, b) = true) : ∀ {lo : Nat} {m : List Host.Cell},
    Mem.wfFrom lo m = true → Mem.get (m.filter f) k = Mem.get m k
  | _, [], _ => rfl
  | lo, c :: m, h => by
    obtain ⟨i, b⟩ := c
    have hm : Mem.wfFrom (i + 1) m = true := by
      simp only [Mem.wfFrom, Bool.and_eq_true] at h
      exact h.2
    have ih := memGet_filter hf hm
    by_cases hik : i = k
    · subst hik
      rw [List.filter_cons_of_pos (hf b)]
      simp [Mem.get]
    · cases hc : f (i, b) with
      | true =>
        rw [List.filter_cons_of_pos hc]
        simp only [Mem.get, if_neg hik, ih]
      | false =>
        rw [List.filter_cons_of_neg (by rw [hc]; exact Bool.false_ne_true), ih]
        simp only [Mem.get, if_neg hik]
        split
        · exact memGet_of_lt hm (by omega)
        · rfl

theorem memGet_cleared_bank (h : Mem.wf s.mem = true) (phase : Phase) (reached : Nat) {k : Nat} (hk : spaceOf k = 6) :
    Mem.get (s.cleared phase reached).mem k = Mem.get s.mem k :=
  memGet_filter (fun b => by simp [keptCell, hk]) h

/-! ### Start-up -/

theorem bankOnly_plainWord (s : State) (w v : Nat) : BankOnly s (s.plainWord w v) := by
  unfold State.plainWord
  split
  · exact .refl s
  · exact (bankOnly_putWord s w v).trans (bankOnly_verify _ _ _)

theorem bankOnly_plainBytes (s : State) (off : Nat) (bs : List Byte) : BankOnly s (s.plainBytes off bs) :=
  BankOnly.foldl (fun u i => bankOnly_plainWord u (off / 8 + i) (leNat ((bs.drop (8 * i)).take 8))) _ s

theorem exec_startUp (s : State) : exec .startUp s = .next s.startPhase := rfl

theorem startPhase_of_off (h : s.power.phase = .off) : s.startPhase = s.cleared .starting 1 := by
  rw [State.startPhase, h]
  rfl

theorem armed_iff (v : Nat) : s.armed v = true ↔
    (s.power.phase = .ready ∨ s.power.phase = .starting ∧ 4 ≤ s.power.reached) ∧ s.core0 = true ∧ 110 ≤ v := by
  simp [State.armed, and_assoc]

theorem exec_brownoutSave (cause : BitVec 2) (v : BitVec 8) :
    exec (.brownoutSave cause v) s = .next (if s.armed v.toNat && decide (cause.toNat < 3) then s.save cause.toNat else s) := rfl

theorem exec_brownoutSave_of_unarmed (cause : BitVec 2) {v : BitVec 8} (h : s.armed v.toNat = false) :
    exec (.brownoutSave cause v) s = .next s := by
  rw [exec_brownoutSave, h]
  rfl

theorem not_armed {v : Nat} (h : v < 110 ∨ s.core0 = false ∨ (s.power.phase ≠ .ready ∧ s.power.phase ≠ .starting)) : s.armed v = false := by
  rw [← Bool.not_eq_true, armed_iff]
  rintro ⟨hp, hc, hv⟩
  rcases h with h | h | ⟨h1, h2⟩
  · omega
  · rw [h] at hc; cases hc
  · exact hp.elim h1 fun hp => h2 hp.1

theorem exec_saveEnd_of_saving (h : s.power.phase = .saving) {ok good : Bool} : exec (.saveEnd ok good) s =
    .next (if good && decide ((s.endSave ok).power.phase = .off) then (s.endSave ok).startPhase else s.endSave ok) :=
  congrArg _ (if_neg (fun hn => hn h))

/-! ### Configuration requests -/

theorem exec_configRequest (fn : BitVec 5) (req : CfgReq) (hp : s.host.perst = false)
    (h : s.power.phase = .ready ∨ s.power.phase = .starting ∨ s.power.phase = .recovery) :
    exec (.configRequest ⟨fn, req⟩) s = .next (if !s.host.fnReady then s.emit (.cfgRetry fn.toNat)
      else if s.fnThere fn.toNat then (s.configure fn.toNat req).emit (.cfgOk fn.toNat) else s) := by
  change execConfigRequest ⟨fn, req⟩ s = _
  rw [execConfigRequest, if_neg]
  rcases h with h | h | h <;> simp [hp, h]

theorem masked_set {x : Fn} {v : Nat} {e : BitVec 128} (h : e.getLsbD 96 = true) :
    ({ x with msix := x.msix.set v e 0 } : Fn).masked v = true := by
  have hne : e ≠ 0 := fun h0 => by rw [h0] at h; simp at h
  rw [Fn.masked, get_set_of_ne _ _ hne]
  exact h

/-! ### Operating points -/

theorem railOf_lt {c : Nat} (h : c < 16) : railOf c < 2 ^ 16 := by
  unfold railOf
  omega

variable {x : Frame} {cur tgt : Nat}

theorem point_setDvfs (hc : cur < 16) (ht : tgt < 16) : (x.setDvfs cur tgt).point = cur := by
  have hr := railOf_lt hc
  simp only [Frame.point, Frame.setDvfs, dvfsWord, bitsOf, BitVec.toNat_ofNat, Nat.shiftRight_eq_div_pow]
  split <;> split <;> omega

theorem target_setDvfs (hc : cur < 16) (ht : tgt < 16) : (x.setDvfs cur tgt).target = tgt := by
  have hr := railOf_lt hc
  simp only [Frame.target, Frame.setDvfs, dvfsWord, bitsOf, BitVec.toNat_ofNat, Nat.shiftRight_eq_div_pow]
  split <;> split <;> omega

theorem point_lt (x : Frame) : x.point < 16 := Nat.mod_lt _ (by decide)

theorem target_lt (x : Frame) : x.target < 16 := Nat.mod_lt _ (by decide)

theorem target_retarget (x : Frame) (temp watts : Nat) : (x.retarget true temp watts).target = 15 :=
  target_setDvfs (tgt := 15) (point_lt x) (by decide)

theorem point_retarget (x : Frame) (temp watts : Nat) : (x.retarget true temp watts).point = x.point :=
  point_setDvfs (tgt := 15) (point_lt x) (by decide)

/-- A frame after 1 ms is never the frame at reset: it counts an idle millisecond, or its target is 15. -/
theorem retarget_ne (x : Frame) (resident : Bool) (temp watts : Nat) : x.retarget resident temp watts ≠ {} := by
  intro h
  cases resident with
  | false => exact Nat.succ_ne_zero _ (congrArg Frame.idleFor h)
  | true =>
    have ht := target_retarget x temp watts
    rw [h] at ht
    exact absurd ht (by decide)

/-! ### Frames, each in its turn -/

/-- The state without the frames. -/
def sansFrames (s : State) : State := { s with frames := [] }

/-- Each frame of a list takes what `g` makes of it. -/
def eachFrame (g : Nat → Frame → Frame) (l : List Nat) (s : State) : State := l.foldl (fun t f => t.setFrame f (g f (t.frame f))) s

theorem sansFrames_eachFrame (g : Nat → Frame → Frame) (l : List Nat) (s : State) : sansFrames (eachFrame g l s) = sansFrames s := by
  refine foldl_keeps sansFrames (fun u f => ?_) l s
  rfl

variable {g : Nat → Frame → Frame} (hg : ∀ f x, g f x ≠ {})

theorem frame_setFrame_same (s : State) (f : Nat) (hx : x ≠ {}) : (s.setFrame f x).frame f = x := get_set_of_ne _ _ hx

theorem frame_setFrame_other (s : State) {f n : Nat} (hx : x ≠ {}) (h : f ≠ n) : (s.setFrame f x).frame n = s.frame n := by
  rw [State.frame, State.setFrame_frames, Table.set, if_neg hx]
  exact Table.get_put_other _ _ _ h

include hg

theorem frame_eachFrame_of_notMem {n : Nat} {l : List Nat} (s : State) (h : n ∉ l) : (eachFrame g l s).frame n = s.frame n := by
  induction l generalizing s with
  | nil => rfl
  | cons f l ih =>
    obtain ⟨hne, hl⟩ := not_or.mp (mt List.mem_cons.mpr h)
    exact (ih _ hl).trans (frame_setFrame_other s (hg _ _) (Ne.symm hne))

theorem frame_eachFrame_of_mem {n : Nat} {l : List Nat} (s : State) (hd : l.Nodup) (hm : n ∈ l) :
    (eachFrame g l s).frame n = g n (s.frame n) := by
  induction l generalizing s with
  | nil => cases hm
  | cons f l ih =>
    obtain ⟨hf, hl⟩ := List.nodup_cons.mp hd
    by_cases hn : n = f
    · subst hn
      exact (frame_eachFrame_of_notMem hg _ hf).trans (frame_setFrame_same s _ (hg _ _))
    · have hm' := (List.mem_cons.mp hm).resolve_left hn
      exact (ih _ hl hm').trans (congrArg _ (frame_setFrame_other s (hg _ _) (Ne.symm hn)))

end Sys2Proof.Laws
end

section
/-! PROOFS. The statements on power. -/

open Sys2Proof Sys2Proof.Machine Sys2Proof.Laws

/-- Settles O51: the abort, the next start, and the armed save. -/
theorem fallDuringStartUp : Obligations.FallDuringStartUp := by
  intro s hs
  refine ⟨fun h => ⟨s.cleared .off 0, (s.cleared .off 0).cleared .starting 1, ?_, rfl, fun k hk => memGet_cleared_bank hs _ _ hk, ?_, rfl,
    rfl⟩, fun h => ⟨?_, ?_⟩⟩
  · exact congrArg _ (if_pos h)
  · exact congrArg _ (startPhase_of_off rfl)
  · refine congrArg _ (if_neg ?_)
    rcases h with h | ⟨h, h'⟩
    · simp [h]
    · simp [h, h']
  · intro cause v h0 hc hv
    refine ⟨s.save cause.toNat, ?_, rfl, rfl, rfl⟩
    rw [exec_brownoutSave, (armed_iff v.toNat).mpr ⟨h, h0, hv⟩, decide_eq_true hc]
    rfl

/-- Settles O52: `startPhase` phase by phase, and the host link's requests. -/
theorem startUpPhases : Obligations.StartUpPhases := by
  intro s
  refine ⟨fun h => ?_, fun h => ⟨fun hn => ?_, fun hn => ?_, fun hn => ?_, fun hn => ?_, fun hn => ?_, fun hn => ?_, fun hn => ?_⟩,
    fun h => ?_, fun h => ?_, fun h => ?_, rfl, fun h => ?_, fun h => ?_, fun fn req h => ?_, fun fn hp h => ⟨fun hn req => ?_,
    fun hn ht req => ?_, fun hn ht => ⟨?_, fun n => ⟨_, exec_configRequest 0 _ hp h, ?_, ?_⟩, fun v e he => ?_⟩⟩⟩
  · rw [exec_startUp, startPhase_of_off h]
  · rw [exec_startUp]
    simp only [State.startPhase, h, hn]
  · rw [exec_startUp]
    simp only [State.startPhase, h, hn]
  · rw [exec_startUp]
    simp only [State.startPhase, h, hn]
  · rw [exec_startUp]
    simp only [State.startPhase, h, hn]
  · have h6 : s.startPhase = s.phase6 := by simp only [State.startPhase, h, hn]
    exact congrArg _ h6
  · rw [exec_startUp]
    simp only [State.startPhase, h, hn]
  · rw [exec_startUp]
    simp only [State.startPhase, h, hn]
  · rcases h with h | h | h | h <;> rw [exec_startUp, State.startPhase, h]
  · change execModuleReset s = _
    rcases h with h | h | h <;> rw [execModuleReset, h]
  · change execModuleReset s = _
    rcases h with h | h | h <;> rw [execModuleReset, h]
  · exact congrArg _ (if_neg (by simp [State.on, h]))
  · exact congrArg _ (if_pos (s.on_eq h))
  · exact congrArg _ (if_pos (by rw [h]; rfl))
  · rw [exec_configRequest fn req hp h, hn]
    rfl
  · rw [exec_configRequest fn req hp h, hn, ht]
    rfl
  · rw [exec_configRequest fn _ hp h, hn, ht]
    rfl
  · rw [hn]
    rfl
  · rw [hn]
    exact List.getLast?_concat
  · rw [exec_configRequest fn _ hp h, hn, ht]
    exact congrArg (fun u : State => Host.Outcome.next (u.emit (.cfgOk fn.toNat))) (if_pos (by rw [masked_set he]; rfl))

/-- Settles O53: by the phase the command finds. -/
theorem saveAndShutdown : Obligations.SaveAndShutdown := by
  intro s
  refine ⟨fun cause v h => exec_brownoutSave_of_unarmed cause (not_armed (h.imp_right .inl)), fun cause v h => ?_, fun ok good h => ?_, fun h => ⟨fun good hc => ?_, fun hc => ⟨?_, ?_, ?_⟩⟩,
    fun v => ⟨fun h h0 hv => ?_, fun h hv => ?_, fun h => ?_, fun h => ?_⟩, fun h => ?_, fun h => ?_, fun h => ?_⟩
  · refine exec_brownoutSave_of_unarmed cause (not_armed (.inr (.inr ?_)))
    rcases h with h | h | h | h <;> simp [h]
  · exact congrArg _ (if_pos h)
  · rw [exec_saveEnd_of_saving h, State.endSave, if_neg Bool.false_ne_true, if_pos hc]
    exact congrArg _ (if_neg (by simp [State.cleared]))
  · rw [exec_saveEnd_of_saving h, State.endSave, if_neg Bool.false_ne_true, if_neg hc]
    rfl
  · rw [exec_saveEnd_of_saving h, State.endSave, if_neg Bool.false_ne_true, if_neg hc]
    rfl
  · have hb := bankOnly_plainBytes s saveBase ((s.bytesAt (keyOf 6 saveBase) 256).set 0 1)
    have hcause : (s.plainBytes saveBase ((s.bytesAt (keyOf 6 saveBase) 256).set 0 1)).power.cause = s.power.cause :=
      (congrArg (fun u : State => u.power.cause) hb.rest :)
    rw [exec_saveEnd_of_saving h, State.endSave, if_pos rfl, hcause, if_neg hc]
    rfl
  · change execThermalShutdown v s = _
    rw [execThermalShutdown, h]
    exact congrArg _ (if_pos ((armed_iff _).mpr ⟨.inl h, h0, hv⟩))
  · change execThermalShutdown v s = _
    have ha : s.armed v.toNat = false := not_armed (hv.imp_right .inl)
    rcases h with h | h | h <;> rw [execThermalShutdown, h, ha] <;> rfl
  · change execThermalShutdown v s = _
    rw [execThermalShutdown, h]
  · change execThermalShutdown v s = _
    rcases h with h | h <;> rw [execThermalShutdown, h]
  · change execVin48Removed s = _
    rw [execVin48Removed, h]
  · change execVin48Removed s = _
    rcases h with h | h <;> rw [execVin48Removed, h]
  · change execVin48Removed s = _
    rcases h with h | h | h <;> rw [execVin48Removed, h]

/-- Settles O54: the points and limits from FRM_DVFS, and each frame in its turn. -/
theorem operatingPointsAndSensors : Obligations.OperatingPointsAndSensors := by
  refine ⟨fun s temps watts f hr => ⟨fun h => ?_, fun h => ?_⟩, fun f temp watts => ⟨target_retarget f temp watts,
    point_retarget f temp watts, fun h => ?_, fun h h' => ?_, fun h => ?_, fun h => ?_, fun h => ?_⟩, fun s f hr => ?_,
    fun s watts vin tj hot v hr => ⟨?_, fun h => ?_, fun h => ?_⟩⟩
  · exact congrArg _ (if_pos (by rw [decide_eq_true h, Bool.or_true]))
  · let g (f : Nat) (x : Frame) : Frame := x.retarget (s.residentOn f) (temps.getD f 0).toNat watts.toNat
    let u : State := { s with power := { s.power with dvfsAt := s.ns / 10 ^ 6 } }
    have hexec : exec (.dvfsUpdate temps watts) s = .next (eachFrame g (List.range 32) u) := by
      change execDvfsUpdate temps watts s = _
      rw [execDvfsUpdate, if_neg (by rw [s.on_eq hr, decide_eq_false (by omega)]; decide)]
      rfl
    have hkept (t : State) (ht : sansFrames t = sansFrames u) : t.spindles = s.spindles ∧ t.power.dvfsAt = s.ns / 10 ^ 6 :=
      ⟨(congrArg State.spindles ht :), (congrArg (fun v : State => v.power.dvfsAt) ht :)⟩
    obtain ⟨hspn, hat⟩ := hkept _ (sansFrames_eachFrame g (List.range 32) u)
    have hg (n : Nat) (x : Frame) : g n x ≠ {} := retarget_ne x _ _ _
    have hmem : f.toNat ∈ List.range 32 := List.mem_range.mpr f.isLt
    have hframe := frame_eachFrame_of_mem hg u List.nodup_range hmem
    exact ⟨_, hexec, hspn, hat, hframe⟩
  · exact (if_pos (decide_eq_true h) : capNext _ _ _ _ = _)
  · exact (if_neg (by simp; omega) : capNext _ _ _ _ = _).trans (if_neg (by simp; omega))
  · exact (if_neg (by simp; omega) : capNext _ _ _ _ = _).trans (if_pos (decide_eq_true h))
  · exact (if_pos (decide_eq_true h) : capNext _ _ _ _ = _)
  · exact (if_neg (by simp; omega) : capNext _ _ _ _ = _).trans (if_pos (decide_eq_true h))
  · intro x
    have hstep : exec (.dvfsStep f) s = .next (if !s.on || (x.rising && (List.range f.toNat).any fun g => (s.frame g).rising) then s
        else s.setFrame f.toNat (x.setDvfs (if x.point < x.goal then x.point + 1 else if x.goal < x.point then x.point - 1 else x.point)
          x.target)) := rfl
    refine ⟨fun hlt h => ?_, fun hlt hcap hex => ?_, fun hlt => ?_, ?_⟩
    · have hwait : (x.rising && (List.range f.toNat).any fun g => (s.frame g).rising) = false := by
        rw [Bool.and_eq_false_iff, List.any_eq_false]
        refine h.imp (fun hc => ?_) fun hg g hm => ?_
        · simp [Frame.rising, hc]
        · rw [hg g (List.mem_range.mp hm)]
          exact Bool.false_ne_true
      rw [hstep, hwait, s.on_eq hr, if_pos hlt]
      rfl
    · obtain ⟨g, hg, hrise⟩ := hex
      have hwait : (x.rising && (List.range f.toNat).any fun g => (s.frame g).rising) = true := by
        rw [Bool.and_eq_true, List.any_eq_true]
        exact ⟨decide_eq_true ⟨hcap, hlt⟩, g, List.mem_range.mpr hg, hrise⟩
      rw [hstep, hwait, Bool.or_true]
      rfl
    · have hwait : x.rising = false := decide_eq_false fun h => absurd h.2 (by omega)
      rw [hstep, hwait, s.on_eq hr, if_neg (show ¬x.point < x.goal by omega), if_pos hlt]
      rfl
    · let g (_ : Nat) (x : Frame) : Frame := { x with capT := 0 : Frame }.setDvfs 0 x.target
      have hg (n : Nat) (x : Frame) : g n x ≠ {} := fun h => nomatch congrArg Frame.capT h
      have hmem : f.toNat ∈ List.range 32 := List.mem_range.mpr f.isLt
      have hframe := frame_eachFrame_of_mem hg s List.nodup_range hmem
      have hexec : exec .thermalEmergency s = .next (eachFrame g (List.range 32) s) := by
        change execThermalEmergency s = _
        rw [execThermalEmergency, s.on_eq hr]
        rfl
      refine ⟨_, hexec, ?_, ?_⟩
      · rw [hframe]
        exact point_setDvfs (by decide) (target_lt _)
      · rw [hframe]
        exact target_setDvfs (by decide) (target_lt _)
  · exact congrArg _ (if_pos (s.on_eq hr))
  · exact congrArg _ (if_pos (by simp [hr, h]))
  · exact congrArg _ (if_neg (by simp [hr, h]))

end

section
/-! PROOFS. REGISTER_WRITE by the access codes of the registers (R12 to R17). -/

namespace Sys2Proof.Laws

open Sys2Proof.Machine

variable {s : State} {r : Reg} {v : Word}

/-- Before the module is ready nothing is written. -/
theorem exec_registerWrite_of_not_ready (h : s.power.phase ≠ .ready) (fails : Bool) : exec (.registerWrite r v fails) s = .next s := by
  have hon : s.on = false := decide_eq_false h
  change execRegisterWrite r v fails s = _
  unfold execRegisterWrite
  split
  · rw [execJobRcfgWrite, hon]
    rfl
  · rw [hon]
    rfl

/-- A register outside WPREG takes what `regWrite` gives it, or stays. -/
theorem exec_registerWrite_plain (hr : s.power.phase = .ready) (hw : r.wpFields = none) (hj : ∀ f, r ≠ .jobRcfg f) {o : Option State}
    (ho : s.regWrite r v = o) : exec (.registerWrite r v false) s = .next (o.getD s) := by
  change execRegisterWrite r v false s = _
  unfold execRegisterWrite
  split
  next f => exact absurd rfl (hj f)
  next =>
    rw [if_pos (s.on_eq hr), State.regWriteChecked, ho, hw]
    cases o <;> rfl

end Sys2Proof.Laws
end

section
/-! PROOFS. The statement on register writes. -/

open Sys2Proof Sys2Proof.Machine Sys2Proof.Laws

/-- Settles O29: `regWrite`, register by register. -/
theorem registerWritesByAccess : Obligations.RegisterWritesByAccess := by
  intro s v
  refine ⟨fun h r fails => exec_registerWrite_of_not_ready h fails, fun hr => ⟨fun r n fs h => exec_registerWrite_wp v hr h rfl, ?_, ?_, ?_, ?_⟩⟩
  · intro n p m c f l w g u
    have hro {r : Reg} (hw : r.wpFields = none) (hj : ∀ f, r ≠ .jobRcfg f) (ho : s.regWrite r v = some s) :
        exec (.registerWrite r v false) s = .next s := exec_registerWrite_plain hr hw hj ho
    refine ⟨hro rfl ?_ rfl, hro rfl ?_ rfl, hro rfl ?_ rfl, hro rfl ?_ rfl, hro rfl ?_ rfl, hro rfl ?_ rfl, hro rfl ?_ rfl, hro rfl ?_ rfl,
      hro rfl ?_ rfl, hro rfl ?_ rfl, hro rfl ?_ rfl, hro rfl ?_ rfl, hro rfl ?_ rfl, hro rfl ?_ rfl, hro rfl ?_ rfl, hro rfl ?_ rfl,
      hro rfl ?_ rfl, hro rfl ?_ rfl, hro rfl ?_ rfl, hro rfl ?_ rfl⟩ <;> exact fun _ h => nomatch h
  · exact fun f => exec_registerWrite_plain (r := .frmPwrctl f) hr rfl (fun _ h => nomatch h) rfl
  · exact fun f => ⟨exec_registerWrite_plain (r := .jobRbase f) hr rfl (fun _ h => nomatch h) rfl,
      exec_registerWrite_plain (r := .jobCbase f) hr rfl (fun _ h => nomatch h) rfl⟩
  · have hcmp (u : BitVec 3) := exec_registerWrite_plain (r := .timeCmp u) (v := v) hr rfl (fun _ h => nomatch h) rfl
    refine fun u => ⟨fun hu => ?_, hcmp 7, fun hv => ?_⟩
    · rw [hcmp u, State.regWrite]
      simp only [Reg.wpFields, if_neg hu, Option.getD_some]
    · refine exec_registerWrite_plain (r := .timeCmpctl) (o := none) hr rfl (fun _ h => nomatch h) ?_
      exact if_pos hv

end

section
/-! PROOFS. Shuttle and pipeline packets as they arrive (R303, R304, R311, R366, R368). -/

namespace Sys2Proof.Laws

open Sys2Proof.Machine

variable {s : State} {h : PHdr} {j : Nat} {b : Job}

theorem tagf_low (h : PHdr) : h.tagf 0 32 = h.tag.toNat % 2 ^ 32 := rfl

theorem tagf_high (h : PHdr) : h.tagf 32 32 = h.tag.toNat / 2 ^ 32 := by
  have ht := h.tag.isLt
  rw [PHdr.tagf, bitsOf, Nat.shiftRight_eq_div_pow]
  omega

theorem forJob_of_some (hf : s.fjob? h = some (j, b)) (f : Nat → Job → State) : s.forJob h f = f j b := by
  rw [State.forJob, hf]

theorem forJob_of_none (hf : s.fjob? h = none) (f : Nat → Job → State) : s.forJob h f = s.unknownJob h := by
  rw [State.forJob, hf]

theorem needReplay_of_steps (hj : s.job? j = some b) (hb : b.steps = true) (code : Byte) (addr : Nat) :
    s.needReplay j code addr =
      s.setJob j { b with fault := b.fault.or (some (code, addr)), causes := b.causes ++ [(code, addr)] } := by
  rw [State.needReplay, hj]
  exact if_neg (by rw [hb]; exact Bool.false_ne_true)

/-! ### Shuttles -/

theorem exec_shuttleRecord (hr : s.power.phase = .ready) (slot : List Byte) :
    exec (.shuttleRecord h slot) s = .next (s.recvRecord h slot) := congrArg _ (if_pos (State.on_eq s hr))

theorem exec_shuttleCredit (hr : s.power.phase = .ready) : exec (.shuttleCredit h) s = .next (s.recvCredit h) :=
  congrArg _ (if_pos (State.on_eq s hr))

theorem exec_shuttleRewind (hr : s.power.phase = .ready) : exec (.shuttleRewind h) s = .next (s.recvRewind h) :=
  congrArg _ (if_pos (State.on_eq s hr))

/-- How far a record's SQN is ahead of PROD, in 16 bits (R303). -/
theorem ahead_toNat (n : Nat) (p : BitVec 16) :
    (BitVec.ofNat 16 (n % 2 ^ 32) - p).toNat = (n % 2 ^ 32 + 2 ^ 16 - p.toNat) % 2 ^ 16 := by
  rw [BitVec.toNat_sub, BitVec.toNat_ofNat]
  have := p.isLt
  omega

theorem ahead_msb (n : Nat) (p : BitVec 16) :
    (BitVec.ofNat 16 (n % 2 ^ 32) - p).msb = decide (2 ^ 15 ≤ (n % 2 ^ 32 + 2 ^ 16 - p.toNat) % 2 ^ 16) := by
  rw [BitVec.msb_eq_decide, ahead_toNat]

/-- A record of a slot that the frame consumes, by how far its SQN is ahead of PROD. -/
theorem recvRecord_of_remote (hf : s.fjob? h = some (j, b)) {slot : List Byte} (hx : h.xt.toNat < 32)
    (hm : s.remoteShuttle b h.xt.toNat = true) (hl : slot.length = 384) : s.recvRecord h slot =
      if (BitVec.ofNat 16 (h.tag.toNat % 2 ^ 32) - (s.frame h.xt.toNat).prod).msb = true then s
      else if BitVec.ofNat 16 (h.tag.toNat % 2 ^ 32) - (s.frame h.xt.toNat).prod = 0 then
        (s.putAt (slotKey h.xt.toNat (h.tag.toNat % 2 ^ 32)) slot).setFrame h.xt.toNat
          { s.frame h.xt.toNat with prod := (s.frame h.xt.toNat).prod + 1 }
      else s.putAt (slotKey h.xt.toNat (h.tag.toNat % 2 ^ 32)) slot := by
  refine (forJob_of_some hf _).trans (if_congr ?_ rfl rfl)
  rw [tagf_low, hm, hl]
  simp [hx]

theorem recvCredit_of_producing (hf : s.fjob? h = some (j, b)) {i : Nat} (hi : producing b h = some i) : s.recvCredit h =
    s.setJob j { b with
      prods := b.prods.set i { b.prods.get i {} with freed := BitVec.ofNat 16 (h.tag.toNat % 2 ^ 32) } {} } := by
  refine (forJob_of_some hf _).trans ?_
  rw [hi, tagf_low]

theorem recvRewind_of_producing (hf : s.fjob? h = some (j, b)) {i : Nat} (hi : producing b h = some i)
    (hm : s.remoteShuttle b h.xt.toNat = false) (hs : b.steps = true) (ht : h.tag.toNat / 2 ^ 32 = b.step % 2 ^ 32) :
    s.recvRewind h = s.needReplay j 0 (h.src.toNat % 2 ^ 14 + 1) := by
  have hmine : (decide (h.xt.toNat < 32) && s.remoteShuttle b h.xt.toNat &&
      decide (bitsOf (s.frame h.xt.toNat).shctl.toNat 16 14 = h.src.toNat % 2 ^ 14)) = false := by
    rw [hm, Bool.and_false, Bool.false_and]
  refine (forJob_of_some hf _).trans ((if_neg ?_).trans ?_)
  · rw [tagf_high, hs, hi, ht]
    simp
  · exact congrArg (State.needReplay · j 0 _) (if_neg (by rw [hmine]; exact Bool.false_ne_true))

theorem recvRewind_of_other_step (hf : s.fjob? h = some (j, b)) (ht : h.tag.toNat / 2 ^ 32 ≠ b.step % 2 ^ 32) :
    s.recvRewind h = s :=
  (forJob_of_some hf _).trans (if_pos (.inl (by rwa [tagf_high])))

/-- The consumer's peer in FRM_SHCTL, read as a number or as a field. -/
theorem bitsOf_extract (v : BitVec 32) : BitVec.ofNat 14 (bitsOf v.toNat 16 14) = v.extractLsb' 16 14 := by
  apply BitVec.eq_of_toNat_eq
  rw [BitVec.toNat_ofNat, BitVec.extractLsb'_toNat, bitsOf, Nat.mod_mod]

theorem exec_creditReturn (hr : s.power.phase = .ready) {frame : BitVec 5} {p : Nat × Job}
    (hp : List.find? (fun p => s.remoteShuttle p.2 frame.toNat && decide (p.2.st ≠ .waiting)) s.mill.jobs = some p) :
    exec (.creditReturn frame) s = .next
      (if (s.frame frame.toNat).freed = (s.frame frame.toNat).reported then s
      else (s.setFrame frame.toNat { s.frame frame.toNat with reported := (s.frame frame.toNat).freed }).send
        { dst := BitVec.ofNat 14 (bitsOf (s.frame frame.toNat).shctl.toNat 16 14)
          tc := 2
          type := 1
          fjob := p.2.fjob
          xt := frame.toNat
          tag := (s.frame frame.toNat).freed.toNat + p.2.step % 2 ^ 32 * 2 ^ 32 }) := by
  change execCreditReturn frame s = _
  rw [execCreditReturn, State.on_eq s hr]
  refine congrArg _ ?_
  split
  next q _ hq =>
    cases hp.symm.trans hq
    rfl
  next hn => exact absurd hp (hn p rfl)

/-- Settles O32: a known job's packet reaches its handler, whose branch the SQN's 16-bit distance or the tag's step chooses. -/
theorem shuttleArrivalsAndCredits : Obligations.ShuttleArrivalsAndCredits := by
  unfold Obligations.ShuttleArrivalsAndCredits
  refine ⟨fun s h j b hr hf => ⟨fun slot hx hm hl => ⟨fun hp => ?_, fun h0 h1 => ?_, fun h1 => ?_⟩, fun i hi => ?_,
    fun i hi hm hs hn hj ht => ?_, fun ht => ?_⟩, fun s frame p hr hp => ⟨fun he => ?_, fun he => ?_⟩⟩
  · have hz : BitVec.ofNat 16 (h.tag.toNat % 2 ^ 32) - (s.frame h.xt.toNat).prod = 0 := by
      apply BitVec.eq_of_toNat_eq
      rw [ahead_toNat]
      change _ = 0
      omega
    rw [exec_shuttleRecord hr, recvRecord_of_remote hf hx hm hl, if_neg (by rw [hz]; decide), if_pos hz]
  · have hz : BitVec.ofNat 16 (h.tag.toNat % 2 ^ 32) - (s.frame h.xt.toNat).prod ≠ 0 := fun hz => by
      have := ahead_toNat h.tag.toNat (s.frame h.xt.toNat).prod
      rw [hz] at this
      change 0 = _ at this
      omega
    rw [exec_shuttleRecord hr, recvRecord_of_remote hf hx hm hl, if_neg (by rw [ahead_msb, decide_eq_true_iff]; omega), if_neg hz]
  · rw [exec_shuttleRecord hr, recvRecord_of_remote hf hx hm hl, if_pos (by rw [ahead_msb, decide_eq_true_iff]; exact h1)]
  · rw [exec_shuttleCredit hr, recvCredit_of_producing hf hi]
  · rw [exec_shuttleRewind hr, recvRewind_of_producing hf hi hm hs ht, needReplay_of_steps hj hs, hn, Option.none_or]
  · rw [exec_shuttleRewind hr, recvRewind_of_other_step hf ht]
  · rw [exec_creditReturn hr hp, if_pos he]
  · rw [exec_creditReturn hr hp, if_neg he]
    rw [bitsOf_extract]

/-! ### Pipelines -/

theorem exec_pipeMessage (hr : s.power.phase = .ready) (data : List Byte) :
    exec (.pipeMessage h data) s = .next (s.recvPipe h data) := congrArg _ (if_pos (State.on_eq s hr))

theorem exec_pipeCommitNotice (hr : s.power.phase = .ready) : exec (.pipeCommitNotice h) s = .next (s.recvNotice h) :=
  congrArg _ (if_pos (State.on_eq s hr))

theorem tagf_message (h : PHdr) : h.tagf 32 10 = h.tag.toNat / 2 ^ 32 % 2 ^ 10 := by
  rw [PHdr.tagf, bitsOf, Nat.shiftRight_eq_div_pow]

theorem tagf_unit (h : PHdr) : h.tagf 42 18 = h.tag.toNat / 2 ^ 42 % 2 ^ 18 := by
  rw [PHdr.tagf, bitsOf, Nat.shiftRight_eq_div_pow]

/-- The channel with a part of a message at an offset kept, before it is asked whether the message is whole. -/
def Chan.keep (c : Chan) (last : Bool) (mb unit len : Nat) : Chan :=
  { c with
    parts := c.parts.set (mb * 2 ^ 18 + unit) len 0
    ends := if last then c.ends.set mb (unit * 4096 + len) 0 else c.ends }

/-- The channel with a part kept, the message arrived where it is whole. -/
def Chan.take (c : Chan) (last : Bool) (mb unit len : Nat) : Chan :=
  let c := Chan.keep c last mb unit len
  if c.ends.get mb 0 ≠ 0 ∧ c.got mb = c.ends.get mb 0 then { c with arrived := c.arrived ++ [mb] } else c

/-- A message in one packet is whole with it. -/
theorem take_whole {c : Chan} (hc : c.parts = []) (mb : Nat) {len : Nat} (hl : len ≠ 0) :
    Chan.take c true mb 0 len = { Chan.keep c true mb 0 len with arrived := c.arrived ++ [mb] } := by
  have hends : (Chan.keep c true mb 0 len).ends.get mb 0 = len := by
    simp [Chan.keep, Table.set, hl, Table.get_put_same]
  have hgot : (Chan.keep c true mb 0 len).got mb = len := by
    simp [Chan.got, Chan.keep, hc, Table.set, Table.put, hl]
  exact if_pos ⟨by rwa [hends], by rw [hends, hgot]⟩

theorem recvPipe_of_chan (hf : s.fjob? h = some (j, b)) (hj : s.job? j = some b) {c : Chan} (hc : b.chans[h.xt.toNat]? = some c)
    {data : List Byte} {mb unit : Nat} (hmb : h.tagf 32 10 = mb) (hu : h.tagf 42 18 = unit)
    (hgo : ¬(h.tagf 0 32 ≠ b.step % 2 ^ 32 ∨ c.down ≠ (h.type = 0) ∨ c.nmb ≤ mb ∨ mb ∈ c.arrived ∨
      c.slotsz < unit * 4096 + data.length)) :
    s.recvPipe h data = (s.jobPut b (c.ring + mb * c.slotsz + unit * 4096) data).setJob j
      { b with chans := b.chans.set h.xt.toNat (Chan.take c h.last mb unit data.length) } := by
  subst hmb hu
  refine (forJob_of_some hf _).trans ?_
  extract_lets n
  rw [show b.chans[n]? = some c from hc]
  exact (if_neg hgo).trans (modJob_of_some (s := s.jobPut b _ data) hj _)

theorem recvPipe_of_discarded (hf : s.fjob? h = some (j, b)) {c : Chan} (hc : b.chans[h.xt.toNat]? = some c) (data : List Byte)
    (hd : h.tagf 0 32 ≠ b.step % 2 ^ 32 ∨ h.tagf 32 10 ∈ c.arrived) : s.recvPipe h data = s := by
  refine (forJob_of_some hf _).trans ?_
  extract_lets n
  rw [show b.chans[n]? = some c from hc]
  exact if_pos (hd.imp id fun ha => .inr (.inr (.inl ha)))

/-- The commit notices that a notice of a step makes, counted from the job's first step (R368). -/
theorem notice_toNat (n : Nat) (f : BitVec 64) : (BitVec.ofNat 32 (n % 2 ^ 32) - f.truncate 32).toNat =
    (n + 2 ^ 32 - f.toNat % 2 ^ 32) % 2 ^ 32 := by
  rw [BitVec.toNat_sub, BitVec.toNat_ofNat, BitVec.truncate_eq_setWidth, BitVec.toNat_setWidth]
  omega

theorem recvNotice_of_chan (hf : s.fjob? h = some (j, b)) (hj : s.job? j = some b) {c : Chan}
    (hc : b.chans[h.xt.toNat]? = some c) : s.recvNotice h = s.setJob j { b with
      chans := b.chans.set h.xt.toNat { c with
        noticed := max c.noticed ((h.tag.toNat + 2 ^ 32 - b.firstStep.toNat % 2 ^ 32) % 2 ^ 32 + 1) } } := by
  refine (forJob_of_some hf _).trans ?_
  extract_lets n
  rw [show b.chans[n]? = some c from hc, ← notice_toNat, ← tagf_low]
  exact modJob_of_some hj _

/-- Settles O33: an unknown job's packet goes to the record, a known job's to its channel, whose checks the hypotheses pass. -/
theorem pipelineArrivalsAndUnknownJobs : Obligations.PipelineArrivalsAndUnknownJobs := by
  unfold Obligations.PipelineArrivalsAndUnknownJobs
  refine ⟨fun s h data hr hf => ⟨?_, ?_, ?_, ?_, ?_⟩, fun s h j n b c data hr hf hj hn hc =>
    ⟨fun ht htype hmb hnew hunit hlen hne hlast hparts => ⟨Chan.take c true (h.tag.toNat / 2 ^ 32 % 2 ^ 10) 0 data.length, ?_, ?_⟩,
      fun hd => ?_, ?_⟩⟩
  · exact (exec_shuttleRecord hr data).trans (congrArg _ (forJob_of_none hf _))
  · exact (exec_shuttleCredit hr).trans (congrArg _ (forJob_of_none hf _))
  · exact (exec_shuttleRewind hr).trans (congrArg _ (forJob_of_none hf _))
  · exact (exec_pipeMessage hr data).trans (congrArg _ (forJob_of_none hf _))
  · exact (exec_pipeCommitNotice hr).trans (congrArg _ (forJob_of_none hf _))
  · subst hn
    have hgo : ¬(h.tagf 0 32 ≠ b.step % 2 ^ 32 ∨ c.down ≠ (h.type = 0) ∨ c.nmb ≤ h.tag.toNat / 2 ^ 32 % 2 ^ 10 ∨
        h.tag.toNat / 2 ^ 32 % 2 ^ 10 ∈ c.arrived ∨ c.slotsz < 0 * 4096 + data.length) := by
      rintro (h1 | h1 | h1 | h1 | h1)
      · exact h1 ht
      · exact h1 (propext htype.symm)
      · omega
      · exact hnew h1
      · omega
    rw [exec_pipeMessage hr, recvPipe_of_chan hf hj hc (tagf_message h) ((tagf_unit h).trans hunit) hgo, hlast]
    simp
  · rw [take_whole hparts _ (by simpa using hne)]
    exact ⟨rfl, rfl, rfl, rfl⟩
  · subst hn
    rw [exec_pipeMessage hr, recvPipe_of_discarded hf hc data (by rwa [tagf_message, tagf_low])]
  · subst hn
    rw [exec_pipeCommitNotice hr, recvNotice_of_chan hf hj hc]

end Sys2Proof.Laws
end

section
/-! PROOFS. The stages of a campaign's boundary (R313 to R318). -/

namespace Sys2Proof.Laws

open Sys2Proof.Machine

variable {s : State} {j : Nat} {b : Job} {c : Camp}

/-- What the placed campaign of a job at a boundary is. -/
theorem camp?_eq_some_iff : s.camp? j = some (b, c) ↔ s.job? j = some b ∧ b.camp = some c ∧
    (s.on && b.st = .resident && b.endWith.isNone && b.fault.isNone && c.boundary && b.tail.isNone && !s.updPending j) = true := by
  unfold State.camp?
  split
  next b' hb =>
    rw [hb]
    split
    next c' hc =>
      constructor
      · intro h
        split at h
        next hg =>
          obtain ⟨rfl, rfl⟩ := Prod.mk.inj (Option.some.inj h)
          exact ⟨rfl, hc, hg⟩
        · cases h
      · rintro ⟨hb', hc', hg⟩
        cases hb'
        cases hc.symm.trans hc'
        exact if_pos hg
    next hc =>
      refine ⟨nofun, ?_⟩
      rintro ⟨hb', hc', -⟩
      cases hb'
      cases hc.symm.trans hc'
  next hb =>
    rw [hb]
    exact ⟨nofun, fun h => nomatch h.1⟩

theorem modCamp_of_some (hj : s.job? j = some b) (hc : b.camp = some c) (f : Camp → Camp) :
    s.modCamp j f = s.setJob j { b with camp := some (f c) } := by
  rw [State.modCamp, modJob_of_some hj, hc]
  rfl

/-- The campaign after a change of it. -/
theorem job?_modCamp (hj : s.job? j = some b) (hc : b.camp = some c) (f : Camp → Camp) :
    (s.modCamp j f).job? j = some { b with camp := some (f c) } := by
  rw [modCamp_of_some hj hc, State.job?_setJob_same]

theorem modCamp_same (hj : s.job? j = some b) (hc : b.camp = some c) (f : Camp → Camp) :
    (s.modCamp j f).spindles = s.spindles ∧ (s.modCamp j f).mem = s.mem ∧ (s.modCamp j f).ports = s.ports := by
  rw [modCamp_of_some hj hc]
  exact ⟨rfl, rfl, rfl⟩

/-- A change of a campaign that keeps its boundary keeps it a placed campaign at a boundary. -/
theorem camp?_modCamp (h : s.camp? j = some (b, c)) {f : Camp → Camp} (hf : (f c).boundary = c.boundary) :
    (s.modCamp j f).camp? j = some ({ b with camp := some (f c) }, f c) := by
  obtain ⟨hj, hc, hg⟩ := camp?_eq_some_iff.1 h
  refine camp?_eq_some_iff.2 ⟨job?_modCamp hj hc f, rfl, ?_⟩
  have hu : (s.modCamp j f).updPending j = s.updPending j := by
    rw [State.updPending, State.updPending, job?_modCamp hj hc, hj, (modCamp_same hj hc f).1]
    rfl
  have hon : (s.modCamp j f).on = s.on := by
    rw [modCamp_of_some hj hc]
    rfl
  rw [hu, hon, hf]
  exact hg

/-! ### The intake -/

/-- The intake's and the evaluation ring's PRODUCER as a poll reads them. -/
def Camp.see (s : State) (b : Job) (c : Camp) : Camp :=
  let look (ring old : Nat) : Nat := if (s.jobKey b ring).isSome then s.jobNat b ring 8 else old
  { c with avail := look c.inring c.avail, evAvail := look c.evring c.evAvail }

/-- A context of a campaign that waits at the boundary runs on. -/
def wake (j : Nat) (x : Ctx) : Ctx := if x.of j && x.status = .atStep then { x with status := .running } else x

theorem wake_status (j : Nat) (x : Ctx) (h : (wake j x).of j = true) : (wake j x).status ≠ .atStep := by
  unfold wake at *
  split
  · exact nofun
  next hn =>
    intro hs
    rw [if_neg hn] at h
    exact hn (by rw [h, hs]; rfl)

/-- A poll reads PRODUCER of the rings, and then looks at the boundary of the campaign that it has changed. -/
theorem exec_intakePoll_of_camp (h : s.camp? j = some (b, c)) {u : State} (hu : s.modCamp j (Camp.see s b) = u) :
    exec (.intakePoll j) s = .next
      (if c.ckDue || c.evDue || c.ending.isSome || b.stopAt || c.paused || c.reports ≠ [] then u
      else if (u.jobKey b c.inring).isSome && decide (b.perStep ≤ ((Camp.see s b c).avail + 2 ^ 64 - c.consumed) % 2 ^ 64) then
        (u.modCamp j fun c => { u.campNow c with boundary := false }).mapCtxs fun _ _ x => wake j x
      else u.modCamp j fun c => { c with waitFrom := some (c.waitFrom.getD u.ns) }) := by
  obtain ⟨hj, hc, hg⟩ := camp?_eq_some_iff.1 h
  have hon : s.on = true := by
    simp only [Bool.and_eq_true] at hg
    exact hg.1.1.1.1.1.1
  have hcu : u.camp? j = some ({ b with camp := some (Camp.see s b c) }, Camp.see s b c) := hu ▸ camp?_modCamp h rfl
  change execIntakePoll j s = _
  unfold execIntakePoll
  extract_lets v
  have hv : v = u := by
    unfold v
    rw [if_pos hon, hj]
    exact hu
  clear_value v
  subst hv
  rw [hcu]
  rfl

theorem campNow_waited (s : State) (c : Camp) : (s.campNow c).waited = c.waited + (match c.waitFrom with
    | some since => (s.ns - since) / 1000
    | none => 0) := by
  unfold State.campNow
  cases c.waitFrom <;> rfl

theorem campNow_same (s : State) (c : Camp) : (s.campNow c).avail = c.avail ∧ (s.campNow c).consumed = c.consumed ∧
    (s.campNow c).waitFrom = none := by
  unfold State.campNow
  split
  · exact ⟨rfl, rfl, rfl⟩
  next h => exact ⟨rfl, rfl, h⟩

theorem ctxs_wake {q : Nat × Spindle} (hq : q ∈ (s.mapCtxs fun _ _ x => wake j x).spindles) {x : Nat × Ctx}
    (hx : x ∈ q.2.ctxs) (ho : x.2.of j = true) : x.2.status ≠ .atStep := by
  obtain ⟨q', -, -, hq'⟩ := mem_mapVals (t := s.spindles)
    (f := fun _ x => { x with ctxs := x.ctxs.mapVals (fun _ x => wake j x) {} }) hq
  rw [← hq'] at hx
  obtain ⟨x', -, -, hx'⟩ := mem_mapVals (t := q'.2.ctxs) (f := fun _ x => wake j x) hx
  rw [← hx'] at ho ⊢
  exact wake_status j _ ho

section
variable (h : s.camp? j = some (b, c)) (hck : c.ckDue = false) (hev : c.evDue = false) (hend : c.ending = none)
  (hst : b.stopAt = false) (hpa : c.paused = false) (hre : c.reports = []) (hk : (s.jobKey b c.inring).isSome = true)
include h hck hev hend hst hpa hre hk

/-- A boundary with nothing left to do, by whether the intake holds the next step's entries. -/
theorem exec_intakePoll_of_idle : exec (.intakePoll j) s = .next
    (if b.perStep ≤ (s.jobNat b c.inring 8 + 2 ^ 64 - c.consumed) % 2 ^ 64 then
      ((s.modCamp j (Camp.see s b)).modCamp j fun c => { s.campNow c with boundary := false }).mapCtxs fun _ _ x => wake j x
    else (s.modCamp j (Camp.see s b)).modCamp j fun c => { c with waitFrom := some (c.waitFrom.getD s.ns) }) := by
  obtain ⟨hj, hc, -⟩ := camp?_eq_some_iff.1 h
  obtain ⟨u, hu⟩ : ∃ u, s.modCamp j (Camp.see s b) = u := ⟨_, rfl⟩
  have hset := (modCamp_of_some hj hc (Camp.see s b)).symm.trans hu
  have hns : u.ns = s.ns := hset ▸ rfl
  have hku : (u.jobKey b c.inring).isSome = true := (congrArg Option.isSome (hset ▸ rfl)).trans hk
  have havail : (Camp.see s b c).avail = s.jobNat b c.inring 8 := if_pos hk
  have hnow : ∀ c, u.campNow c = s.campNow c := fun c => by
    rw [State.campNow, State.campNow, hns]
  rw [exec_intakePoll_of_camp h hu, if_neg (by simp [hck, hev, hend, hst, hpa, hre]), hku, havail, hu, hns]
  simp only [hnow, Bool.true_and, decide_eq_true_iff]

end

/-! ### Checkpoints, evaluations, reports -/

theorem exec_checkpointReport_of_camp (h : s.camp? j = some (b, c)) (hck : c.ckDue = true) (hpa : c.paused = false)
    (hr : s.slotReach b c (Camp.dueSlot b c) = true) : exec (.checkpointReport j) s = .next
      ((s.writeSlot b c (Camp.dueSlot b c)).modCamp j fun x =>
        { x.queue b 1 (leBytes 8 (x.slotAddr (Camp.dueSlot b c)) ++ leBytes 1 (Camp.dueSlot b c)) with
          ckDue := false, lastSlot := some (Camp.dueSlot b c), lastCk := b.lastStep }) := by
  change execCheckpointReport j s = _
  rw [execCheckpointReport, h]
  exact congrArg _ (if_neg (by rw [hck, hpa, hr]; decide))

/-- The completion that tells the client of a failed checkpoint (R318, R513). -/
def ckptFail (b : Job) : Compl :=
  { client := b.client, kind := 2, status := 0x68, tag := b.tag, ref := b.ref, irq := b.irq, vec := b.vec }

/-- The state with a failed slot's bytes free. -/
def State.ckptSpoilt (s : State) (b : Job) (c : Camp) (slot : Nat) : State :=
  { ({ s with ports := [] } : Sys2Proof.Machine.State).spoilSlot b c slot with ports := s.ports }

theorem exec_checkpointFail_of_camp (h : s.camp? j = some (b, c)) (hd : (c.ckDue || c.finalCk) = true) (hpa : c.paused = false) :
    ∃ slot, exec (.checkpointFail j) s = .next (((State.ckptSpoilt s b c slot).modCamp j fun c =>
      { c.queue b 4 [0x68] with paused := true }).complete (ckptFail b)) := by
  refine ⟨if c.ckDue then Camp.dueSlot b c else c.finalSlot, ?_⟩
  change execCheckpointFail j s = _
  rw [execCheckpointFail, h]
  exact congrArg _ (if_neg (by rw [hd, hpa]; decide))

theorem exec_evaluation_of_camp (h : s.camp? j = some (b, c)) (hev : c.evDue = true) (hck : c.ckDue = false) (hpa : c.paused = false)
    (hk : (s.jobKey b c.evring).isSome = true) (hn : c.evbatch ≤ (c.evAvail + 2 ^ 64 - c.evDone) % 2 ^ 64)
    {toks : List EvalToken} (ht : toks.length = s.evalTokens b c) :
    ∃ kl same, kl.length = 4 ∧ exec (.evaluation j toks) s = .next
      ((s.jobPut b (c.evring + 8) (leBytes 8 (c.evDone + c.evbatch))).modCamp j fun c' =>
        { c'.queue b 2 (kl ++ leBytes 4 toks.length ++ same) with evDue := false, evDone := c.evDone + c.evbatch }) := by
  refine ⟨if c.evalTeacher then leBytes 4 (klMean toks) else [0, 0, 0, 0],
    leBytes 4 (if c.evalTeacher then (toks.filter fun t => t.student = t.teacher).length else 0), ?_, ?_⟩
  · split
    · exact leBytes_length 4 _
    · rfl
  · change execEvaluation j toks s = _
    rw [execEvaluation, h]
    have hk' : (s.jobKey b c.evring).isNone = false := by rw [← Option.not_isSome, hk]; rfl
    exact congrArg _ (if_neg (by simp only [hev, hck, hpa, hk', ht, decide_eq_false (Nat.not_lt.2 hn)]; simp))

theorem exec_evaluation_of_other (j : Nat) {toks : List EvalToken} (ht : ∀ b c, s.camp? j = some (b, c) → toks.length ≠ s.evalTokens b c) :
    exec (.evaluation j toks) s = .next s := by
  change execEvaluation j toks s = _
  unfold execEvaluation
  split
  next b c h => exact congrArg _ (if_pos (by simp [ht b c h]))
  · rfl

/-- A message changes the function that it is pending at, or goes out. -/
theorem interrupt_same (s : State) (f v : Nat) : (s.interrupt f v).mill = s.mill ∧ (s.interrupt f v).spindles = s.spindles := by
  unfold State.interrupt
  extract_lets x
  split <;> exact ⟨rfl, rfl⟩

/-- A report that is put: PRODUCER is one more. -/
theorem putReport_same (hj : s.job? j = some b) (hc : b.camp = some c) (bs : List Byte) :
    (s.putReport j b c bs).job? j = some { b with camp := some { c with produced := c.produced + 1 } } ∧
      (s.putReport j b c bs).spindles = s.spindles := by
  unfold State.putReport
  extract_lets t u v
  have hju : u.job? j = some b := hj
  have hv := job?_modCamp hju hc fun c => { c with produced := c.produced + 1 }
  have hs := (modCamp_same hju hc fun c => { c with produced := c.produced + 1 }).1
  split
  · exact ⟨hv, hs⟩
  · obtain ⟨hm, hsp⟩ := interrupt_same v b.client c.vec
    refine ⟨Eq.trans ?_ hv, hsp.trans hs⟩
    rw [State.job?, hm]
    rfl

theorem exec_reportWrite_of_camp (h : s.camp? j = some (b, c)) {r : List Byte} {rest : List (List Byte)} (hre : c.reports = r :: rest)
    (hroom : s.reportRoom b c = true) :
    exec (.reportWrite j) s = .next ((s.putReport j b c r).modCamp j fun c => { c with reports := rest }) := by
  change execReportWrite j s = _
  rw [execReportWrite, h]
  dsimp only
  rw [hre]
  exact congrArg _ (if_pos hroom)

theorem exec_campaignEnd_of_camp (h : s.camp? j = some (b, c)) {cause : Nat} (he : c.ending = some cause) (hck : c.ckDue = false)
    (hev : c.evDue = false) (hpa : c.paused = false) (hre : c.reports = []) (hfin : c.finalCk = false)
    (hroom : s.reportRoom b c = true) : exec (.campaignEnd j) s =
      .next (((s.putReport j b c (reportBytes b (s.campNow c) 3 (leBytes 1 cause))).endJob j (BitVec.ofNat 8 cause)).reap) := by
  change execCampaignEnd j s = _
  rw [execCampaignEnd, h]
  dsimp only
  rw [he]
  refine congrArg _ ((if_neg (by simp [hck, hev, hpa, hre, hroom, hfin])).trans ?_)
  rw [hfin]
  rfl

/-- A completion handed on keeps the spindles and the ports. -/
theorem complete_keeps (s : State) (c : Compl) : (s.complete c).spindles = s.spindles ∧ (s.complete c).ports = s.ports := by
  have hw : (s.writeCounts c).spindles = s.spindles ∧ (s.writeCounts c).ports = s.ports := by
    unfold State.writeCounts
    split <;> exact ⟨rfl, rfl⟩
  unfold State.complete
  split
  · exact hw
  · split
    · split
      next d _ =>
        have hs := (sansFabric_emit _ (.remoteCompl d c.bytes)).trans
          (sansFabric_send (s.writeCounts c) { dst := d, tc := 1, type := 0, data := c.bytes })
        exact ⟨(congrArg State.spindles hs :).trans hw.1, (congrArg State.ports hs :).trans hw.2⟩
      · exact ⟨rfl, rfl⟩
    · exact ⟨rfl, rfl⟩

/-- Settles O31: each command finds the placed campaign, and a stage's lemma says what it leaves of it. -/
theorem campaignBoundaries : Obligations.CampaignBoundaries := by
  unfold Obligations.CampaignBoundaries
  refine ⟨fun s j b c h hck hev hend hst hpa hre hk => ?_, fun s j b c h hpa => ⟨fun hck hr => ?_, fun hd => ?_,
    fun toks ht => ?_, fun toks hev hck hn hk ht => ?_, fun r rest hre hroom => ?_,
    fun cause he hck hev hre hfin hroom => exec_campaignEnd_of_camp h he hck hev hpa hre hfin hroom⟩⟩
  · obtain ⟨hj, hc, -⟩ := camp?_eq_some_iff.1 h
    have hx := exec_intakePoll_of_idle h hck hev hend hst hpa hre hk
    have hj1 := job?_modCamp hj hc (Camp.see s b)
    obtain ⟨hs1, hm1, -⟩ := modCamp_same hj hc (Camp.see s b)
    have havail : (Camp.see s b c).avail = s.jobNat b c.inring 8 := if_pos hk
    refine ⟨fun hp => ?_, fun hp => ?_⟩
    · obtain ⟨ha, hco, hw⟩ := campNow_same s (Camp.see s b c)
      refine ⟨_, _, _, hx.trans (congrArg _ (if_pos hp)), job?_modCamp hj1 rfl _, rfl, ha.trans havail, rfl, hco, hw,
        campNow_waited s _, fun q hq x hx ho => ctxs_wake hq hx ho, ?_⟩
      exact (modCamp_same hj1 rfl _).2.1.trans hm1
    · refine ⟨_, _, _, hx.trans (congrArg _ (if_neg (Nat.not_le.2 hp))), job?_modCamp hj1 rfl _, rfl, havail, ?_, rfl,
        (modCamp_same hj1 rfl _).1.trans hs1, (modCamp_same hj1 rfl _).2.1.trans hm1⟩
      obtain ⟨-, -, hg⟩ := camp?_eq_some_iff.1 h
      simp only [Bool.and_eq_true] at hg
      exact hg.1.1.2
  · obtain ⟨hj, hc, -⟩ := camp?_eq_some_iff.1 h
    have hj1 : (s.writeSlot b c (Camp.dueSlot b c)).job? j = some b := hj
    exact ⟨_, _, _, exec_checkpointReport_of_camp h hck hpa hr, job?_modCamp hj1 hc _, rfl, rfl, rfl, rfl, rfl, hpa,
      (modCamp_same hj1 hc _).1⟩
  · obtain ⟨hj, hc, -⟩ := camp?_eq_some_iff.1 h
    obtain ⟨slot, hx⟩ := exec_checkpointFail_of_camp h (by rw [Bool.or_eq_true]; exact hd) hpa
    have hj1 : (State.ckptSpoilt s b c slot).job? j = some b := hj
    obtain ⟨hs1, -, hp1⟩ := modCamp_same hj1 hc fun c => { c.queue b 4 [0x68] with paused := true }
    obtain ⟨hs2, hp2⟩ := complete_keeps ((State.ckptSpoilt s b c slot).modCamp j fun c =>
      { c.queue b 4 [0x68] with paused := true }) (ckptFail b)
    have hj2 := job?_modCamp hj1 hc fun c => { c.queue b 4 [0x68] with paused := true }
    exact ⟨_, _, _, hx, (congrArg (Table.find? · j) (JobsFollow.complete_same _ _).2).trans hj2, rfl, rfl, rfl, hs2.trans hs1, hp2.trans hp1⟩
  · refine exec_evaluation_of_other j fun b' c' h' => ?_
    cases h.symm.trans h'
    exact ht
  · obtain ⟨hj, hc, -⟩ := camp?_eq_some_iff.1 h
    obtain ⟨kl, same, hkl, hx⟩ := exec_evaluation_of_camp h hev hck hpa hk hn ht
    have hj1 : (s.jobPut b (c.evring + 8) (leBytes 8 (c.evDone + c.evbatch))).job? j = some b := hj
    refine ⟨_, _, _, _, hx, job?_modCamp hj1 hc _, rfl, rfl, rfl, rfl, ?_, (modCamp_same hj1 hc _).1⟩
    rw [List.append_assoc, List.drop_left' hkl, List.take_left' (leBytes_length 4 _)]
  · obtain ⟨hj, hc, -⟩ := camp?_eq_some_iff.1 h
    obtain ⟨hj1, hs1⟩ := putReport_same hj hc r
    exact ⟨_, _, _, exec_reportWrite_of_camp h hre hroom, job?_modCamp hj1 rfl _, rfl, rfl, rfl, (modCamp_same hj1 rfl _).1.trans hs1⟩

end Sys2Proof.Laws
end

section
/-! PROOFS. The loss of a command core (R121, R123). -/

namespace Sys2Proof.Laws

open Sys2Proof.Machine

variable {s : State}

/-- Without command core 0 a note in REPAIR is not written. -/
theorem repairNote_of_no_core (h : s.core0 = false) (v : Word) :
    (s.repairNote v).mem = s.mem ∧ (s.repairNote v).baro = s.baro := by
  unfold State.repairNote
  split
  · simp [State.bankWord, h]
  · exact ⟨rfl, rfl⟩

/-- The mill without a command core. -/
def loseCore (s : State) (n : Nat) : State := { s with mill := { s.mill with cores := s.mill.cores &&& ~~~(1#8 <<< n) } }

/-- The record of a lost core, and its place among the parts taken out of service. -/
def noteCore (s : State) (n : Nat) : State := (s.baroWrite 0x0E 3 true [locW .core n]).repairNote (locW .core n)

theorem bankOnly_noteCore (s : State) (n : Nat) : BankOnly s (noteCore s n) :=
  (bankOnly_baroWrite s 0x0E 3 true [locW .core n]).trans (bankOnly_repairNote _ (locW .core n))

theorem core0_loseCore_zero (s : State) : (loseCore s 0).core0 = false := by
  change (s.mill.cores &&& ~~~(1#8 <<< 0)).toNat.testBit 0 = false
  rw [BitVec.testBit_toNat]
  simp

theorem exec_commandCoreFail_of_gone {core : BitVec 3} (hc : s.mill.cores.getLsbD core.toNat = false) :
    exec (.commandCoreFail core) s = .next s := by
  refine congrArg _ (if_pos ?_)
  rw [BitVec.testBit_toNat, hc]
  simp

theorem exec_commandCoreFail_of_there (hr : s.power.phase = .ready) {core : BitVec 3} {n : Nat} (hn : core.toNat = n)
    (hc : s.mill.cores.getLsbD n = true) {t : State} (ht : noteCore (loseCore s n) n = t) : exec (.commandCoreFail core) s = .next
      (if n = 0 then ({ t with mill := { t.mill with accepting := false } } : State).emit (.mgmtFail n) else t) := by
  change execCommandCoreFail core s = _
  subst hn
  unfold execCommandCoreFail
  extract_lets n m a b
  have hb : b = t := ht
  clear_value b
  subst hb
  exact congrArg _ (if_neg (by rw [State.on_eq s hr, BitVec.testBit_toNat, hc]; decide))

theorem exec_submit_of_not_accepting (ha : s.mill.accepting = false) (client : BitVec 8) (ref : Word) (entry : Line) :
    exec (.submit client ref entry) s = .next s := by
  have hcmd : s.command client.toNat ref (withOp entry 1) = s := if_pos (by rw [State.accepts, ha, lineBytes_withOp entry (by decide)]; decide)
  change Host.Outcome.next (if s.on = true then s.command client.toNat ref (withOp entry 1) else s) = _
  rw [hcmd, ite_self]

/-- What the loss of a core leaves, whatever is noted of it. -/
theorem lost_of_rest {t : State} {n : Nat} (h : sansBank t = sansBank (loseCore s n)) :
    t.mill.cores = s.mill.cores &&& ~~~(1#8 <<< n) ∧ t.spindles = s.spindles ∧ t.mill.jobs = s.mill.jobs ∧ t.out = s.out ∧
      t.mill.accepting = s.mill.accepting :=
  ⟨(congrArg (fun u : State => u.mill.cores) h :), (congrArg State.spindles h :), (congrArg (fun u : State => u.mill.jobs) h :),
    (congrArg State.out h :), (congrArg (fun u : State => u.mill.accepting) h :)⟩

/-- Settles O43: the record and the note of the loss change the records and the bank alone, and nothing without core 0. -/
theorem commandCoreLoss : Obligations.CommandCoreLoss := by
  unfold Obligations.CommandCoreLoss
  refine fun s core hr => ⟨exec_commandCoreFail_of_gone, fun hc => ?_, fun ha => exec_submit_of_not_accepting ha⟩
  obtain ⟨n, hn⟩ : ∃ n, core.toNat = n := ⟨_, rfl⟩
  have h0 : core = 0 ↔ n = 0 := by rw [← hn]; exact BitVec.toNat_inj.symm
  rw [hn] at hc ⊢
  obtain ⟨t, ht⟩ : ∃ t, noteCore (loseCore s n) n = t := ⟨_, rfl⟩
  obtain ⟨hcores, hspn, hjobs, hout, hacc⟩ := lost_of_rest (ht ▸ (bankOnly_noteCore (loseCore s n) n).rest)
  have hx := exec_commandCoreFail_of_there hr hn hc ht
  rw [h0]
  by_cases hz : n = 0
  · subst hz
    obtain ⟨hmem, hbaro⟩ : t.mem = s.mem ∧ t.baro = s.baro := by
      rw [← ht, noteCore, baroWrite_of_no_core _ (core0_loseCore_zero s)]
      exact repairNote_of_no_core (core0_loseCore_zero s) _
    exact ⟨_, hx.trans (congrArg _ (if_pos rfl)), hcores, hspn, hjobs,
      fun _ => ⟨rfl, hbaro, hmem, congrArg (· ++ [Out.mgmtFail 0]) hout⟩, fun hz => absurd (h0.2 rfl) hz⟩
  · exact ⟨t, hx.trans (congrArg _ (if_neg hz)), hcores, hspn, hjobs, fun h => absurd h hz, fun _ => ⟨hacc, hout⟩⟩

end Sys2Proof.Laws
end

section
/-! PROOFS. Sessions: opening, proof, expiry, and the messages by role (R567, R568). -/

namespace Sys2Proof.Laws

open Sys2Proof.Machine

variable {s : State}

/-! ### Opening -/

section
variable {p : Peer} {cred : BitVec 8} {nc : BitVec 256}

theorem exec_openReq_of_not_carried (hc : s.carries p.tr = false) : exec (.openReq p cred nc) s = .next s :=
  congrArg _ (if_pos (by rw [hc]; rfl))

/-- OPEN_REQ over a transport that carries it. -/
theorem exec_openReq_of_carried (hc : s.carries p.tr = true) : exec (.openReq p cred nc) s = .next
    (if 8 ≤ s.sec.sessions.length then s.respond p (.busy p.tr)
    else if s.credRole cred.toNat = 0 || s.barred cred.toNat then s.respond p (.denied p.tr)
    else
      let u := s.newSid.2.draw.2
      let c : Chal := { sid := s.newSid.1, cred := cred.toNat, nc := nc, nd := s.newSid.2.draw.1.truncate 256, tr := p.tr, src := p.src, at_ := s.ns }
      ({ u with sec := { u.sec with chals := u.sec.chals ++ [c] } }).respond p
        (.chal p.tr c.sid c.nd (s.credSalt cred.toNat).1 (s.credSalt cred.toNat).2)) :=
  congrArg _ (if_neg (by rw [hc]; decide))

end

section
variable {sid : BitVec 32} {mac : BitVec 512} {a : Src} {c : Chal} (hf : s.sec.chals.find? (fun c => c.sid = sid) = some c)
include hf

theorem exec_openProof_of_dropped (hd : (!s.carries c.tr || !sameSource c.tr c.src a || decide (c.at_ + 5 * 10 ^ 9 ≤ s.ns)) = true) :
    exec (.openProof sid ⟨mac, a⟩) s = .next s := by
  change execOpenProof sid ⟨mac, a⟩ s = _
  rw [execOpenProof, hf]
  exact congrArg _ (if_pos hd)

/-- A proof of a challenge that it reaches in time, of a credential that is there and not barred. -/
theorem exec_openProof_of_taken (ht : ¬(!s.carries c.tr || !sameSource c.tr c.src a || decide (c.at_ + 5 * 10 ^ 9 ≤ s.ns)) = true)
    (hr : s.credRole c.cred ≠ 0) (hb : s.barred c.cred = false) : exec (.openProof sid ⟨mac, a⟩) s = .next
      (let u : State := { s with sec := { s.sec with chals := s.sec.chals.erase c } }
      let k := s.credKey c.cred
      let x : Session :=
        { sid := sid, cred := c.cred, role := s.credRole c.cred, key := BitVec.ofNat 512 (leNat (hmac512 k (c.msg skeyLabel)))
          tr := c.tr, src := a, rxSeq := none, txSeq := 0, last := s.ns }
      if hmac512 k (c.msg openLabel) ≠ leBytes 64 mac.toNat then (u.wrongProof c).respond ⟨c.tr, a⟩ (.denied c.tr)
      else if 8 ≤ s.sec.sessions.length then u.respond ⟨c.tr, a⟩ (.busy c.tr)
      else ({ u with sec := { u.sec with sessions := u.sec.sessions ++ [x] } }).respond ⟨c.tr, a⟩
        (.ack c.tr sid (hmac512 k (c.msg ackLabel)) x.role)) := by
  change execOpenProof sid ⟨mac, a⟩ s = _
  rw [execOpenProof, hf]
  refine congrArg _ ((if_neg ht).trans (if_neg ?_))
  change ¬(decide (s.credRole c.cred = 0) || s.barred c.cred) = true
  rw [hb, Bool.or_false, decide_eq_true_iff]
  exact hr

end

theorem sameSource_of {t : Transport} {own src : Src} (h : t = .ethernet → src.ip = own.ip ∧ src.port = own.port) :
    sameSource t own src = true := by
  by_cases ht : t = .ethernet
  · obtain ⟨hi, hp⟩ := h ht
    simp [sameSource, hi, hp]
  · simp [sameSource, ht]

theorem sameSource_of_other {t : Transport} {own src : Src} (ht : t = .ethernet) (h : src.ip ≠ own.ip ∨ src.port ≠ own.port) :
    sameSource t own src = false := by
  rcases h with h | h
  · simp [sameSource, ht, Ne.symm h]
  · simp [sameSource, ht, Ne.symm h]

/-- What an expiry keeps: every other thing, and its own until its time. -/
theorem unexpired_iff {P : Prop} [Decidable P] (at_ now : Nat) : (!(decide P && decide (at_ ≤ now))) = true ↔ (P → now < at_) := by
  rw [Bool.not_eq_true', Bool.and_eq_false_iff, decide_eq_false_iff_not, decide_eq_false_iff_not, Nat.not_le, imp_iff_not_or]

/-- Settles O44: the branches of OPEN_REQ and OPEN_PROOF, and the filters that the expiries are. -/
theorem sessionsOpenAndExpire : Obligations.SessionsOpenAndExpire := by
  unfold Obligations.SessionsOpenAndExpire
  refine ⟨fun s p cred nc => ⟨exec_openReq_of_not_carried, fun hc h8 => ?_, fun hc h8 hd => ?_, fun hc h8 hr hb => ?_⟩,
    fun s sid mac a c hf hc => ⟨fun he hs => ?_, fun ht => ?_, fun hs ht hr hb => ⟨fun hm => ?_, fun hm h8 => ?_⟩⟩,
    fun s sid cred => ⟨_, _, _, rfl, rfl, rfl, fun c => ?_, rfl, fun x => ?_, rfl, fun w => ?_, rfl⟩⟩
  · rw [exec_openReq_of_carried hc, if_pos h8]
  · rw [exec_openReq_of_carried hc, if_neg (Nat.not_le.2 h8), if_pos (by simpa using hd)]
  · rw [exec_openReq_of_carried hc, if_neg (Nat.not_le.2 h8), if_neg (by simp [hr, hb])]
  · exact exec_openProof_of_dropped hf (by rw [sameSource_of_other he hs]; simp)
  · exact exec_openProof_of_dropped hf (by rw [decide_eq_true ht]; simp)
  · rw [exec_openProof_of_taken hf (by simp [hc, sameSource_of hs]; omega) hr hb]
    exact congrArg _ (if_pos hm)
  · rw [exec_openProof_of_taken hf (by simp [hc, sameSource_of hs]; omega) hr hb]
    exact congrArg _ ((if_neg (not_not.2 hm)).trans (if_neg (Nat.not_le.2 h8)))
  · exact List.mem_filter.trans (and_congr_right fun _ => unexpired_iff _ _)
  · exact List.mem_filter.trans (and_congr_right fun _ => unexpired_iff _ _)
  · exact List.mem_filter.trans (and_congr_right fun _ => unexpired_iff _ _)

/-! ### Messages -/

section
variable {m : Msg} {code : Nat} {ops : List Byte} {roles : List Nat} {f : Session → State → State × Answer}

theorem msgSays_iff : msgSays m code ops = true ↔ m.body = BitVec.ofNat 8 code :: ops := decide_eq_true_iff

theorem sessionMsg_of_other (h : s.session? m = none ∨ ¬ m.body = BitVec.ofNat 8 code :: ops) :
    s.sessionMsg m code ops roles f = .next s := by
  unfold State.sessionMsg
  split
  next hg =>
    rw [Bool.and_eq_true, msgSays_iff] at hg
    have hn := h.resolve_right (not_not.2 hg.2)
    rw [State.message, hn]
  · rfl

/-- The session as a message leaves it. -/
def heard (s : State) (x : Session) (m : Msg) : Session := { x with rxSeq := some m.seq, last := s.ns, src := m.src }

section
variable {x : Session} (hr : s.power.phase = .ready) (hm : s.session? m = some x) (hb : m.body = BitVec.ofNat 8 code :: ops)
include hr hm hb

theorem sessionMsg_of_session : s.sessionMsg m code ops roles f = .next
    (if !(x.role ∈ roles) then (s.setSession (heard s x m)).answer (heard s x m) .denied
    else (f (heard s x m) (s.setSession (heard s x m))).1.answer (heard s x m) (f (heard s x m) (s.setSession (heard s x m))).2) := by
  rw [State.sessionMsg, if_pos (by rw [State.on_eq s hr, msgSays_iff.2 hb]; rfl), State.message, hm]
  rfl

theorem sessionMsg_of_role (hx : x.role ∈ roles) : s.sessionMsg m code ops roles f = .next
    ((f (heard s x m) (s.setSession (heard s x m))).1.answer (heard s x m) (f (heard s x m) (s.setSession (heard s x m))).2) := by
  rw [sessionMsg_of_session hr hm hb, if_neg (by simp [hx])]

/-- A message of a role that may send it, by what its effect and its answer are. -/
theorem sessionMsg_of_effect (hx : x.role ∈ roles) {t : State} {a : Answer}
    (he : f (heard s x m) (s.setSession (heard s x m)) = (t, a)) :
    s.sessionMsg m code ops roles f = .next (t.answer (heard s x m) a) := by
  rw [sessionMsg_of_role hr hm hb hx, he]

theorem sessionMsg_of_other_role (hx : x.role ∉ roles) : s.sessionMsg m code ops roles f = .next
    ((s.setSession (heard s x m)).answer (heard s x m) .denied) := by
  rw [sessionMsg_of_session hr hm hb, if_pos (by simp [hx])]

end
end

theorem exec_close_of_other {m : Msg} (h : s.session? m = none ∨ ¬ m.body = BitVec.ofNat 8 0x01 :: []) : exec (.close m) s = .next s := by
  change execClose m s = _
  unfold execClose
  split
  next x hx =>
    rw [Option.filter_eq_some_iff, Bool.and_eq_true, msgSays_iff] at hx
    exact absurd (h.resolve_right (not_not.2 hx.2.2)) (by rw [hx.1]; exact nofun)
  · rfl

theorem exec_close_of_session (hr : s.power.phase = .ready) {m : Msg} {x : Session} (hm : s.session? m = some x)
    (hb : m.body = BitVec.ofNat 8 0x01 :: []) : exec (.close m) s =
      .next { s with sec := { s.sec with sessions := s.sec.sessions.filter fun y => y.sid ≠ x.sid } } := by
  have hx : (s.session? m).filter (fun _ => s.on && msgSays m 0x01 []) = some x := by
    rw [hm, Option.filter_some_pos]
    rw [State.on_eq s hr, msgSays_iff.2 hb]
    rfl
  change execClose m s = _
  rw [execClose, hx]

theorem mem_everyRole {n : Nat} (h : n = 1 ∨ n = 2 ∨ n = 3) : n ∈ [1, 2, 3] := by
  simpa using h

theorem mem_jobRoles {n : Nat} (h : n = 1 ∨ n = 3) : n ∈ [1, 3] := by
  simpa using h

theorem notMem_jobRoles {n : Nat} (h1 : n ≠ 1) (h3 : n ≠ 3) : n ∉ [1, 3] := by
  simp [h1, h3]

/-- Settles O45: each message is `sessionMsg` with its code, its roles and its effect. -/
theorem sessionMessagesTakeEffect : Obligations.SessionMessagesTakeEffect := by
  unfold Obligations.SessionMessagesTakeEffect
  intro s m hr spells
  refine ⟨fun r v fails => sessionMsg_of_other, fun r => sessionMsg_of_other, fun v => ⟨sessionMsg_of_other, sessionMsg_of_other⟩,
    fun e => sessionMsg_of_other, fun i e v => ⟨sessionMsg_of_other, sessionMsg_of_other, sessionMsg_of_other⟩,
    fun n d => sessionMsg_of_other, exec_close_of_other, sessionMsg_of_other, sessionMsg_of_other, fun x0 hm => ?_⟩
  intro x u denied
  have owner (h : x0.role ≠ 3) : x0.role ∉ [3] := fun hx => h (List.mem_singleton.1 hx)
  have hown : x0.role = 3 → x0.role ∈ [3] := List.mem_singleton.2
  refine ⟨exec_close_of_session hr hm, fun r hb hx => sessionMsg_of_role hr hm hb (mem_everyRole hx),
    fun r v fails hb => ⟨fun hx => ?_, fun hx hw => ⟨fun w hc => ?_, fun hc => ?_⟩⟩,
    fun seq hb hx => ⟨fun r hf => ?_, fun hf => ?_⟩, fun seq hb => ⟨fun hx => ?_, fun hx => ?_⟩, fun e hb => ⟨fun h1 h3 => ?_, fun hx => ?_⟩,
    fun hb => ⟨fun h1 h3 => ?_, fun hx => ⟨fun he => ?_, fun c r he => ?_⟩⟩, fun i e hb => ⟨fun hx => ?_, fun hx hi hc => ?_⟩,
    fun i hb => ⟨fun hx => ?_, fun hx hi => ?_⟩, fun i v hb => ⟨fun hx => ?_, fun hx hi => ?_⟩,
    fun n d hb => ⟨fun hx => ?_, fun hx hn => ?_⟩, fun hb => ⟨fun hx => ?_, fun hx ha => ?_⟩⟩
  · by_cases h3 : x0.role = 3
    · exact sessionMsg_of_effect hr hm hb (hown h3) (if_pos (by rw [hx.resolve_left (not_not.2 h3)]; rfl))
    · exact sessionMsg_of_other_role hr hm hb (owner h3)
  · refine sessionMsg_of_effect hr hm hb (hown hx) ((if_neg (by rw [hw]; decide)).trans ?_)
    rw [show State.regWriteChecked (s.setSession (heard s x0 m)) r v fails = some w from hc]
  · refine sessionMsg_of_effect hr hm hb (hown hx) ((if_neg (by rw [hw]; decide)).trans ?_)
    rw [show State.regWriteChecked (s.setSession (heard s x0 m)) r v fails = none from hc]
    rfl
  · refine sessionMsg_of_effect hr hm hb (mem_everyRole hx) ?_
    rw [show Baro.find (s.setSession (heard s x0 m)).baro seq = some r from hf]
    rfl
  · refine sessionMsg_of_effect hr hm hb (mem_everyRole hx) ?_
    rw [show Baro.find (s.setSession (heard s x0 m)).baro seq = none from hf]
    rfl
  · exact sessionMsg_of_other_role hr hm hb fun h => hx (List.mem_singleton.1 h)
  · exact sessionMsg_of_effect hr hm hb (List.mem_singleton.2 hx) rfl
  · exact sessionMsg_of_other_role hr hm hb (notMem_jobRoles h1 h3)
  · exact sessionMsg_of_effect hr hm hb (mem_jobRoles hx) rfl
  · exact sessionMsg_of_other_role hr hm hb (notMem_jobRoles h1 h3)
  · refine sessionMsg_of_effect hr hm hb (mem_jobRoles hx) ?_
    rw [show (s.setSession (heard s x0 m)).mill.ring32 = [] from he]
    rfl
  · refine sessionMsg_of_effect hr hm hb (mem_jobRoles hx) ?_
    rw [show (s.setSession (heard s x0 m)).mill.ring32 = c :: r from he]
    rfl
  · exact sessionMsg_of_other_role hr hm hb (owner hx)
  · exact sessionMsg_of_effect hr hm hb (hown hx) (if_neg (by rw [hc]; simpa using hi))
  · exact sessionMsg_of_other_role hr hm hb (owner hx)
  · exact sessionMsg_of_effect hr hm hb (hown hx) (if_neg (Nat.not_le.2 hi))
  · exact sessionMsg_of_other_role hr hm hb (owner hx)
  · exact sessionMsg_of_effect hr hm hb (hown hx) (if_neg (Nat.not_lt.2 hi))
  · by_cases h3 : x0.role = 3
    · exact sessionMsg_of_effect hr hm hb (hown h3) (if_pos (hx.resolve_left (not_not.2 h3)))
    · exact sessionMsg_of_other_role hr hm hb (owner h3)
  · exact sessionMsg_of_effect hr hm hb (hown hx) (if_neg (Nat.not_lt.2 hn))
  · exact sessionMsg_of_other_role hr hm hb (owner hx)
  · exact sessionMsg_of_effect hr hm hb (hown hx) (congrArg (·, Answer.done []) (if_pos ha))

end Sys2Proof.Laws
end

section
/-! PROOFS. Fabric time (R487 to R489). -/

namespace Sys2Proof.Laws

open Sys2Proof.Machine

variable {s : State} {link : BitVec 6} {tag : Word}

theorem bitsOf_dist (tag : Word) : bitsOf tag.toNat 56 8 = tag.toNat / 2 ^ 56 := by
  have := tag.isLt
  rw [bitsOf, Nat.shiftRight_eq_div_pow]
  omega

/-- A SYNC as its link keeps it: DIST, and how late it came. -/
def keepSync (s : State) (n : Nat) (tag : Word) : State :=
  s.setLink n { s.link n with sync := some (tag.toNat / 2 ^ 56, diff56 s.ns (tag.toNat % 2 ^ 56)) }

theorem exec_fabricSync (hr : s.power.phase = .ready) : exec (.fabricSync link tag) s = .next (s.recvSync link.toNat tag) :=
  congrArg _ (if_pos (State.on_eq s hr))

theorem exec_delayReq (hr : s.power.phase = .ready) : exec (.delayReq link tag) s = .next (s.recvDelayReq link.toNat tag) :=
  congrArg _ (if_pos (State.on_eq s hr))

theorem exec_delayResp (hr : s.power.phase = .ready) : exec (.delayResp link tag) s = .next (s.recvDelayResp link.toNat tag) :=
  congrArg _ (if_pos (State.on_eq s hr))

/-- A SYNC on an UP link: it is kept, and a module that takes fabric time follows its parent (R488). -/
theorem recvSync_of_up {n : Nat} (hu : (s.link n).up = true) : s.recvSync n tag =
    if !s.takesFabric then keepSync s n tag
    else match (keepSync s n tag).parent with
      | none => keepSync s n tag
      | some p =>
        if p.1 = n then ((keepSync s n tag).setSource 1 (min 255 (p.2 + 1)) p.1).slew
          (diff56 s.ns (tag.toNat % 2 ^ 56) - ((s.link n).delay : Int))
        else (keepSync s n tag).setSource 1 (min 255 (p.2 + 1)) p.1 := by
  unfold keepSync
  rw [← bitsOf_dist]
  exact if_neg (by rw [hu]; decide)

theorem exec_fabricSync_of_parent (hr : s.power.phase = .ready) (hu : (s.link link.toNat).up = true) (ht : s.takesFabric = true)
    {p : Nat × Nat} (hp : (keepSync s link.toNat tag).parent = some p) : exec (.fabricSync link tag) s = .next
      (if p.1 = link.toNat then ((keepSync s link.toNat tag).setSource 1 (min 255 (p.2 + 1)) p.1).slew
        (diff56 s.ns (tag.toNat % 2 ^ 56) - ((s.link link.toNat).delay : Int))
      else (keepSync s link.toNat tag).setSource 1 (min 255 (p.2 + 1)) p.1) := by
  rw [exec_fabricSync hr, recvSync_of_up hu, if_neg (by rw [ht]; decide), hp]

theorem recvDelayResp_of_dropped {n : Nat} (h : (s.link n).up = false ∨ (s.link n).sync = none) : s.recvDelayResp n tag = s := by
  rw [State.recvDelayResp]
  cases hx : (s.link n).sync with
  | none => rfl
  | some x => exact if_neg (by rw [h.resolve_right (by rw [hx]; exact nofun)]; decide)

theorem exec_delayMeasure (hr : s.power.phase = .ready) : exec .delayMeasure s = .next
    (if !s.takesFabric then s
    else match s.parent with
      | some p => (s.setLink p.1 { s.link p.1 with reqAt := s.ns }).timePacket p.1 1 s.ns
      | none => s) := by
  change execDelayMeasure s = _
  rw [execDelayMeasure, State.on_eq s hr]
  rfl

theorem exec_fabricHoldover (hr : s.power.phase = .ready) : exec .fabricHoldover s = .next
    (if s.takesFabric && s.timeState = 1 && s.parent.isNone then s.setSource 2 255 s.plink else s) := by
  change execFabricHoldover s = _
  rw [execFabricHoldover, State.on_eq s hr]
  rfl

/-- Settles O38: each packet of the time class by the state of its link, the module's mode, and its parent. -/
theorem fabricTimeFollowsParent : Obligations.FabricTimeFollowsParent := by
  unfold Obligations.FabricTimeFollowsParent
  intro s link tag hr n l late u
  refine ⟨fun hu => ⟨?_, ?_⟩, fun hu ht => ?_, fun hu ht p hp => ⟨fun hn => ?_, fun hn => ?_⟩, fun hu => ?_, fun x hu hx => ?_, fun hd => ?_,
    fun p ht hp => ?_, fun hd => ?_, fun ht hst hp => ?_, fun hd => ?_, ?_⟩
  · exact (exec_fabricSync hr).trans (congrArg _ (if_pos (by rw [show (s.link link.toNat).up = false from hu]; rfl)))
  · exact (exec_delayReq hr).trans (congrArg _ (if_neg (by rw [show (s.link link.toNat).up = false from hu]; decide)))
  · rw [exec_fabricSync hr, recvSync_of_up hu, if_pos (by rw [ht]; rfl)]
    rfl
  · exact (exec_fabricSync_of_parent hr hu ht hp).trans (congrArg _ (if_neg hn))
  · refine (exec_fabricSync_of_parent hr hu ht hp).trans (congrArg _ ((if_pos hn).trans ?_))
    rw [hn]
    rfl
  · exact (exec_delayReq hr).trans (congrArg _ (if_pos hu))
  · rw [exec_delayResp hr, State.recvDelayResp, show (s.link link.toNat).sync = some x from hx]
    exact congrArg _ (if_pos hu)
  · rw [exec_delayResp hr, recvDelayResp_of_dropped hd]
  · rw [exec_delayMeasure hr, if_neg (by rw [ht]; decide), hp]
  · rw [exec_delayMeasure hr]
    rcases hd with hd | hd
    · rw [if_pos (by rw [hd]; rfl)]
    · rw [hd]
      exact congrArg _ (ite_self s)
  · rw [exec_fabricHoldover hr, if_pos (by rw [ht, hst, hp]; decide)]
  · rw [exec_fabricHoldover hr, if_neg]
    rcases hd with hd | hd | hd
    · simp [hd]
    · simp [hd]
    · rw [← Option.not_isSome, hd]
      simp
  · exact congrArg _ (if_neg (by rw [State.on_eq s hr]; decide))

end Sys2Proof.Laws
end

section
/-! PROOFS. The debug port (R569, R592). -/

namespace Sys2Proof.Laws

open Sys2Proof.Machine

variable {s : State}

/-- What a scan of the boundary cells leaves. -/
def scanned (s : State) (t : Tap) (bits : List Bool) : State :=
  ({ s with
    sec := { s.sec with tap := t, pins := bits }
    free := s.free + (bits.length + 63) / 64 }).emit (.tdo (s.sampled bits.length))

theorem exec_extest (h : s.tapOn = true) (bits : List Bool) : exec (.extest bits) s =
    .next (if s.scope = 2 ∧ s.anyResident = false then scanned s .extest bits else s.passBits bits) := by
  change execExtest bits s = _
  rw [execExtest, if_neg (by rw [h]; decide)]
  simp only [Bool.not_eq_true']
  rfl

/-- A debug scope written into SEC_STAT reads back. -/
theorem scope_written (v : BitVec 32) {n : Nat} (hn : n < 4) : bitsOf ((v &&& 0xF9FFFFFF) ||| BitVec.ofNat 32 (n * 2 ^ 25)).toNat 25 2 = n := by
  have hfield : ((v &&& 0xF9FFFFFF) ||| BitVec.ofNat 32 (n * 2 ^ 25)).extractLsb' 25 2 = BitVec.ofNat 2 n := by
    have hv : BitVec.ofNat 32 (n * 2 ^ 25) = (BitVec.ofNat 2 n).setWidth 32 <<< 25 := by
      apply BitVec.eq_of_toNat_eq
      simp only [BitVec.toNat_ofNat, BitVec.toNat_shiftLeft, BitVec.toNat_setWidth, Nat.shiftLeft_eq]
      omega
    rw [hv]
    ext i hi
    have h2 : i = 0 ∨ i = 1 := by omega
    rcases h2 with rfl | rfl <;> simp
  have hnat := congrArg BitVec.toNat hfield
  rw [BitVec.extractLsb'_toNat, BitVec.toNat_ofNat] at hnat
  rw [bitsOf, hnat]
  omega

theorem tokenOk_scope {k : Token} (h : s.tokenOk k = true) : k.scope.toNat < 3 := by
  simp only [State.tokenOk, Bool.and_eq_true, Bool.or_eq_true, decide_eq_true_iff] at h
  obtain ⟨⟨⟨-, hs⟩, -⟩, -⟩ := h
  rcases hs with hs | hs <;> rw [hs] <;> decide

theorem scope_lt (s : State) : s.scope < 4 := Nat.mod_lt _ (by decide)

/-- The state with a debug scope written into SEC_STAT. -/
def unlocked (x : State) (n : Nat) : State :=
  { x with sec := { x.sec with stat := (x.sec.stat &&& 0xF9FFFFFF) ||| BitVec.ofNat 32 (n * 2 ^ 25) } }

theorem unlocked_scope (x : State) {n : Nat} (hn : n < 4) : (unlocked x n).scope = n := scope_written x.sec.stat hn

theorem scope_of_stat {t : State} (h : t.sec.stat = s.sec.stat) : t.scope = s.scope := by
  rw [State.scope, State.scope, h]

/-- What an accepted token leaves of the state that has drawn its new nonce. -/
theorem extend_unlocked_same (s : State) (v : BitVec 64) (d : List Byte) (n : Nat) :
    let t := unlocked (State.extend { s.draw.2 with sec := { s.draw.2.sec with nonce := v } } 9 d) n
    t.sec.nonce = v ∧ t.mill = s.mill ∧ t.mem = s.mem ∧ t.sec.meas = (s.extend 9 d).sec.meas := ⟨rfl, rfl, rfl, rfl⟩

/-- Every token draws a new nonce; one that passes the checks is measured, and its scope unlocked (R569). -/
def tokened (s : State) (k : Token) : State :=
  let x := { s.draw.2 with sec := { s.draw.2.sec with nonce := s.draw.1.truncate 64 } }
  if !s.tokenOk k then x
  else
    unlocked (x.extend 9 (sha512 (tokenBytes k ++ leBytes 512 k.sig.toNat))) (max s.scope (k.scope.toNat % 4))

theorem exec_dbgToken (h : s.tapOn = true) (k : Token) : exec (.dbgToken k) s = .next (tokened s k) :=
  congrArg _ (if_neg (by rw [h]; decide))

theorem tokened_of_bad {k : Token} (h : s.tokenOk k ≠ true) :
    tokened s k = { s.draw.2 with sec := { s.draw.2.sec with nonce := s.draw.1.truncate 64 } } :=
  if_pos (by simpa using h)

theorem tokened_of_ok {k : Token} (h : s.tokenOk k = true) : tokened s k =
    unlocked (State.extend { s.draw.2 with sec := { s.draw.2.sec with nonce := s.draw.1.truncate 64 } } 9
      (sha512 (tokenBytes k ++ leBytes 512 k.sig.toNat))) (max s.scope (k.scope.toNat % 4)) :=
  if_neg (by rw [h]; decide)

theorem tokened_scope_of_ok {k : Token} (h : s.tokenOk k = true) : (tokened s k).scope = max s.scope k.scope.toNat := by
  have hm : k.scope.toNat % 4 = k.scope.toNat := Nat.mod_eq_of_lt (lt_trans (tokenOk_scope h) (by decide))
  have hx : max s.scope k.scope.toNat < 4 := max_lt (scope_lt s) (lt_trans (tokenOk_scope h) (by decide))
  rw [tokened_of_ok h, hm]
  exact unlocked_scope _ hx

theorem tokened_scope_of_bad {k : Token} (h : s.tokenOk k ≠ true) : (tokened s k).scope = s.scope := by
  rw [tokened_of_bad h]
  exact scope_of_stat rfl

theorem tokened_scope (s : State) (k : Token) :
    (tokened s k).scope = if s.tokenOk k = true then max s.scope k.scope.toNat else s.scope := by
  by_cases hk : s.tokenOk k = true
  · rw [if_pos hk, tokened_scope_of_ok hk]
  · rw [if_neg hk, tokened_scope_of_bad hk]

theorem tokened_same (s : State) (k : Token) : (tokened s k).sec.nonce = s.draw.1.truncate 64 ∧ (tokened s k).mill = s.mill ∧
    (tokened s k).mem = s.mem ∧ (tokened s k).sec.meas =
      if s.tokenOk k = true then (s.extend 9 (sha512 (tokenBytes k ++ leBytes 512 k.sig.toNat))).sec.meas else s.sec.meas := by
  by_cases hk : s.tokenOk k = true
  · rw [if_pos hk, tokened_of_ok hk]
    exact extend_unlocked_same _ _ _ _
  · rw [if_neg hk, tokened_of_bad hk]
    exact ⟨rfl, rfl, rfl, rfl⟩

theorem exec_dbgTrigRelease_of_scope (h : s.tapOn = true) (hs : s.scope = 2) :
    exec .dbgTrigRelease s = .next { s with sec := { s.sec with dbgTrig := false } } := by
  change execDbgTrigRelease s = _
  rw [execDbgTrigRelease, h, hs]
  by_cases hd : s.sec.dbgTrig = true
  · exact congrArg _ (if_pos hd)
  · refine congrArg _ ((if_neg hd).trans ?_)
    rw [Bool.not_eq_true] at hd
    exact congrArg (fun d => { s with sec := { s.sec with dbgTrig := d } }) hd

/-- Settles O48: the TAP's instructions with power, tokens by their checks, and the trigger by the scope. -/
theorem debugPort : Obligations.DebugPort := by
  unfold Obligations.DebugPort
  intro s bits k pass scan
  refine ⟨fun h => ⟨?_, ?_, ?_⟩, fun h => ⟨?_, ?_, ?_, exec_extest h bits, ?_, ?_, fun hs => ⟨?_, ?_⟩, fun hs => ⟨fun hp => ?_, fun hp => ?_,
    exec_dbgTrigRelease_of_scope h hs⟩⟩⟩
  · exact congrArg _ (if_neg (by rw [h]; decide))
  · exact congrArg _ (if_neg (by rw [h]; decide))
  · exact congrArg _ (if_pos (by rw [h]; rfl))
  · exact congrArg _ (if_pos h)
  · exact congrArg _ (if_pos h)
  · exact congrArg _ (if_pos h)
  · exact congrArg _ (if_pos h)
  · obtain ⟨hnonce, hmill, hmem, hmeas⟩ := tokened_same s k
    exact ⟨_, exec_dbgToken h k, hnonce, hmill, hmem, tokened_scope s k, hmeas⟩
  · exact congrArg _ ((if_neg (by rw [h]; decide)).trans (if_pos hs))
  · exact congrArg _ (if_neg (by simp [hs]))
  · exact congrArg _ ((if_neg (by rw [h]; decide)).trans ((if_neg (not_not.2 hs)).trans (if_neg (by simpa using hp))))
  · exact congrArg _ ((if_neg (by rw [h]; decide)).trans ((if_neg (not_not.2 hs)).trans (if_pos hp)))

end Sys2Proof.Laws
end

section
/-! PROOFS. The time unit: PTP, the pulses and the compare units (R570 to R572). -/

namespace Sys2Proof.Laws

open Sys2Proof.Machine

variable {s : State} {m : PtpMsg}

/-! ### The servo -/

theorem toInt_ofInt_ppm {v : Int} (hl : -4294967 ≤ v) (hu : v ≤ 4294967) : (BitVec.ofInt 32 v).toInt = v := by
  rw [BitVec.toInt_ofInt]
  exact Int.bmod_eq_of_le (by omega) (by omega)

section
variable (free : Nat) {old : BitVec 32} {off : Int} (hl : -4294967 ≤ old.toInt) (hu : old.toInt ≤ 4294967)
include hl hu

/-- A counter that runs ahead is slowed, down to the bound. -/
theorem servoFreq_of_ahead (ho : 0 < off) : (servoFreq free old off).toInt = -4294967 ∨ (servoFreq free old off).toInt < old.toInt := by
  rw [servoFreq, if_pos ho, toInt_ofInt_ppm (by omega) (by omega)]
  omega

/-- A counter that lags goes faster, up to the bound. -/
theorem servoFreq_of_behind (ho : off < 0) : (servoFreq free old off).toInt = 4294967 ∨ old.toInt < (servoFreq free old off).toInt := by
  rw [servoFreq, if_neg (by omega), toInt_ofInt_ppm (by omega) (by omega)]
  omega

end

/-- A slew changes the frequency alone. -/
theorem slew_time (s : State) (off : Int) : (s.slew off).time.now = s.time.now ∧ (s.slew off).time.locked = s.time.locked := by
  unfold State.slew
  split <;> exact ⟨rfl, rfl⟩

/-! ### PTP -/

theorem ptpHears_iff : s.ptpHears m = true ↔ s.ptpOn = true ∧ m.domain.toNat = bitsOf s.timeCtl 24 8 ∧ m.eth = s.timeCtl.testBit 23 := by
  simp [State.ptpHears, and_assoc]

theorem not_ptpHears (h : s.ptpOn = false ∨ m.domain.toNat ≠ bitsOf s.timeCtl 24 8 ∨ m.eth ≠ s.timeCtl.testBit 23) :
    s.ptpHears m = false := by
  rw [← Bool.not_eq_true, ptpHears_iff]
  rintro ⟨h1, h2, h3⟩
  rcases h with h | h | h
  · rw [h1] at h; cases h
  · exact h h2
  · exact h h3

/-- The clock as a Sync leaves it, before it is corrected. -/
def ptpNoted (s : State) (m : PtpMsg) (off : Int) (good : Nat) : State :=
  { s with time := { s.time with
    offs := BitVec.ofInt 64 off
    good := min good 16
    locked := s.time.locked || decide (16 ≤ good)
    master := m.time
    syncAt := s.ns } }

/-- The correction of the counter: forward at once, else by slewing. -/
def ptpSteered (s u : State) (there off : Int) : State :=
  if s.ptpSteers = false then u
  else if off < -100000 then { u with time := { u.time with now := there.toNat * 2 ^ 32 } }
  else u.slew off

theorem ptpSteered_locked (s u : State) (there off : Int) : (ptpSteered s u there off).time.locked = u.time.locked := by
  unfold ptpSteered
  split
  · rfl
  · split
    · rfl
    · exact (slew_time u off).2

theorem ptpSteered_now {u : State} (hu : u.time.now = s.time.now) {there off : Int} (hoff : off = s.ns - there)
    (hn : s.time.now < 2 ^ 96) : s.time.now ≤ (ptpSteered s u there off).time.now := by
  unfold ptpSteered
  split
  · exact hu.ge
  · split
    next hf =>
      change s.time.now ≤ there.toNat * 2 ^ 32
      have hns : s.ns = s.time.now / 2 ^ 32 := Nat.mod_eq_of_lt (by omega)
      omega
    · exact (slew_time u off).1.symm ▸ hu.ge

theorem exec_ptpSync (h : s.ptpHears m = true) {there off : Int} {good : Nat} (ht : (m.time.toNat + s.time.path : Int) = there)
    (ho : s.ns - there = off) (hg : (if -1000 ≤ off ∧ off ≤ 1000 then s.time.good + 1 else 0) = good) {u v : State}
    (hu : ptpNoted s m off good = u) (hv : ptpSteered s u there off = v) : exec (.ptpSync m) s = .next
      (if v.time.locked && !s.time.locked then v.settleSource else v) := by
  subst ht ho hg hu hv
  refine congrArg _ ((if_neg (by rw [h]; decide)).trans ?_)
  unfold ptpSteered
  simp only [Bool.not_eq_true']
  rfl

/-- Settles O49: what PTP does with a message that it hears, by whether the port steers the counter and by the lock. -/
theorem ptpServo : Obligations.PtpServo := by
  unfold Obligations.PtpServo
  intro s m
  refine ⟨fun h => ⟨?_, ?_⟩, fun h => ?_, fun free old off hl hu => ⟨servoFreq_of_ahead free hl hu, servoFreq_of_behind free hl hu⟩,
    fun hon hd he => ?_, fun hon hl ht => ?_, fun h => ?_⟩
  · exact congrArg _ (if_pos (by rw [not_ptpHears h]; rfl))
  · change execPtpDelayResp m s = _
    rw [execPtpDelayResp, not_ptpHears h]
  · exact congrArg _ (if_neg (by rw [h]; decide))
  · have hh := ptpHears_iff.2 ⟨hon, hd, he⟩
    intro there off good u v
    have hx := exec_ptpSync hh (there := there) (off := off) (good := good) rfl rfl rfl (u := u) (v := v) rfl rfl
    have hlock : v.time.locked = (s.time.locked || decide (16 ≤ good)) := ptpSteered_locked s u there off
    refine ⟨fun hl => hx.trans (congrArg _ (if_neg ?_)), fun hl hg => hx.trans (congrArg _ (if_pos ?_)), ptpSteered_now (s := s) (u := u) (there := there) (off := off) rfl rfl,
      congrArg _ (if_pos hon), fun t3 ht => ?_, fun ht => ?_⟩
    · rw [hlock]
      rcases hl with hl | hl
      · simp [hl]
      · rw [decide_eq_false (Nat.not_le.2 hl)]
        simp
    · rw [hlock, hl, decide_eq_true hg]
      rfl
    · change execPtpDelayResp m s = _
      rw [execPtpDelayResp, hh, ht]
    · change execPtpDelayResp m s = _
      rw [execPtpDelayResp, hh, ht]
  · exact congrArg _ (if_pos (by rw [hon, hl, decide_eq_true ht]; rfl))
  · refine congrArg _ (if_neg ?_)
    rcases h with h | h
    · simp [h]
    · rw [decide_eq_false (Nat.not_le.2 h)]
      simp

/-! ### Pulses and compare units -/

theorem time_counted (c : Prop) [Decidable c] (t : State) : (if c then t else t.countStalls).time = t.time := by
  split
  · rfl
  · exact (congrArg State.time (countStalls_frames t) :)

/-- A tick ends a pulse whose time is over, whatever else it does. -/
theorem tick_pps (h : s.power.phase = .ready) : ∃ t, t.time.ppsEnd = s.time.ppsEnd ∧ s.tick =
    if t.time.ppsOut ∧ t.time.ppsEnd ≤ t.ns then ({ t with time := { t.time with ppsOut := false } }).emit (.pps false) else t := by
  have hend : s.flushLinks.time.ppsEnd = s.time.ppsEnd := (congrArg (fun u : State => u.time.ppsEnd) (sansFabric_flushLinks s) :)
  unfold State.tick
  rw [h]
  generalize s.flushLinks = u at hend ⊢
  refine ⟨_, ?_, rfl⟩
  exact (congrArg Time.ppsEnd (time_counted _ _)).trans hend

theorem tick_ppsOut (h : s.power.phase = .ready) (he : s.time.ppsEnd ≤ s.tick.ns) : s.tick.time.ppsOut = false := by
  obtain ⟨t, ht, htick⟩ := tick_pps h
  rw [htick] at he ⊢
  split
  · rfl
  next hn =>
    rw [if_neg hn, ← ht] at he
    rw [← Bool.not_eq_true]
    exact fun hp => hn ⟨hp, he⟩

theorem exec_ppsInEdge (h : s.power.phase = .ready) {r : Nat} (hr : s.ns % 10 ^ 9 = r) {u : State}
    (hu : ({ s with time := { s.time with ppsin := BitVec.ofNat 64 s.ns } } : State) = u) : exec .ppsInEdge s = .next
      (if !s.timeCtl.testBit 22 then u
      else if r ≤ 1000 then u.slew (r : Int)
      else if 10 ^ 9 - 1000 ≤ r then { u with time := { u.time with now := (s.ns - r + 10 ^ 9) * 2 ^ 32 } }
      else u) := by
  subst hr hu
  exact congrArg _ (if_neg (by rw [State.on_eq s h]; decide))

theorem exec_ppsOut (h : s.power.phase = .ready) : exec .ppsOut s = .next
    (if s.ppsAllowed && !s.sec.dbgTrig && !s.time.ppsOut && decide (s.ns % 10 ^ 9 ≤ 2) then
      ({ s with time := { s.time with
        ppsOut := true
        ppsEnd := s.ns - s.ns % 10 ^ 9 + 10 ^ 8 } }).emit (.pps true)
    else s) := by
  change execPpsOut s = _
  rw [execPpsOut, State.on_eq s h]
  rfl

theorem exec_compareFire_of_not_due {n : BitVec 3} (h : s.time.cmpctl.toNat.testBit n.toNat = false ∨ s.ns < (s.time.cmp.get n.toNat 0).toNat) :
    exec (.compareFire n) s = .next s := by
  refine congrArg _ (if_pos ?_)
  rcases h with h | h
  · simp [h]
  · rw [decide_eq_true h, Bool.or_true]

theorem exec_compareFire_of_due (hr : s.power.phase = .ready) {n : BitVec 3} (hb : s.time.cmpctl.toNat.testBit n.toNat = true)
    (hv : (s.time.cmp.get n.toNat 0).toNat ≤ s.ns) : exec (.compareFire n) s = .next
      (if n.toNat = 7 then
        { s with
          time := { s.time with
            cmp := s.time.cmp.set 7 (BitVec.ofNat 64 (s.ns + 1) + ((Config.freeBits s.free).truncate 32).zeroExtend 64) 0 }
          free := s.free + 1 }
      else ({ s with time := { s.time with cmpctl := s.time.cmpctl &&& ~~~(1#32 <<< n.toNat) } }).baroWrite 0x0C 1 true
        [codeW 0 (8 + n.toNat) (s.time.cmp.get n.toNat 0).toNat]) :=
  congrArg _ (if_neg (by rw [State.on_eq s hr, hb, decide_eq_false (Nat.not_lt.2 hv)]; decide))

/-- Settles O50: each pulse and each compare unit by the branch that its hypotheses choose. -/
theorem pulsesAndCompareUnits : Obligations.PulsesAndCompareUnits := by
  unfold Obligations.PulsesAndCompareUnits
  intro s hr r u
  have hin := exec_ppsInEdge hr (r := r) rfl (u := u) rfl
  refine ⟨fun h => hin.trans (congrArg _ ?_), fun hb h => hin.trans (congrArg _ ?_), fun hb h => hin.trans (congrArg _ ?_),
    fun ha hd hp h => ?_, fun h => ?_, fun _ he => tick_ppsOut hr he,
    fun n => ⟨exec_compareFire_of_not_due, fun hb hv h7 => ?_, fun hb hv => ?_⟩⟩
  · rcases h with h | ⟨hl, hu⟩
    · exact if_pos (by rw [h]; rfl)
    · rw [if_neg (Nat.not_le.2 hl), if_neg (Nat.not_le.2 hu), ite_self]
  · rw [if_neg (by rw [hb]; decide), if_neg (by omega), if_pos h]
  · rw [if_neg (by rw [hb]; decide), if_pos h]
  · exact (exec_ppsOut hr).trans (congrArg _ (if_pos (by rw [ha, hd, hp, decide_eq_true h]; rfl)))
  · refine (exec_ppsOut hr).trans (congrArg _ (if_neg ?_))
    rcases h with h | h | h | h
    · simp [h]
    · simp [h]
    · simp [h]
    · rw [decide_eq_false (Nat.not_le.2 h)]
      simp
  · exact (exec_compareFire_of_due hr hb hv).trans (congrArg _ (if_neg fun h => h7 (BitVec.eq_of_toNat_eq h)))
  · exact ⟨_, (exec_compareFire_of_due (n := 7) hr hb hv).trans (congrArg _ (if_pos rfl)), rfl, rfl, rfl⟩

end Sys2Proof.Laws
end

section
/-! PROOFS. Requests and atomic operations at the memory (R449, R450). -/

namespace Sys2Proof.Laws

open Sys2Proof.Machine

variable {s : State}

theorem poisonUnit_pos (u : Nat) : 0 < (poisonUnit u).2 := by
  unfold poisonUnit
  dsimp only
  split
  · decide
  · split <;> decide

/-- A write of consecutive bytes heals the units that it covers. -/
theorem healed_bytes (s : State) (k : Nat) (bs : List Byte) :
    s.healed (bs.zipIdx.map fun p => (k + p.2, p.1)) = s.healedAt k bs.length := by
  refine List.filter_congr fun u _ => congrArg _ ?_
  rw [Bool.eq_iff_iff, decide_eq_true_iff, List.all_eq_true]
  have hany (a : Nat) : ((bs.zipIdx.map fun p => (k + p.2, p.1)).any fun w => decide (w.1 = a)) = true ↔ k ≤ a ∧ a < k + bs.length := by
    simp only [List.any_eq_true, List.mem_map, decide_eq_true_iff]
    constructor
    · rintro ⟨_, ⟨⟨b, i⟩, hp, rfl⟩, rfl⟩
      have := (List.mem_zipIdx hp).2.1
      exact ⟨Nat.le_add_right _ _, by omega⟩
    · rintro ⟨hl, hu⟩
      have hi : a - k < bs.length := by omega
      refine ⟨(a, bs[a - k]), ⟨(bs[a - k], a - k), ?_, ?_⟩, rfl⟩
      · rw [List.mem_zipIdx_iff_getElem?]
        exact List.getElem?_eq_getElem hi
      · simp only [Prod.mk.injEq, and_true]
        omega
  simp only [List.mem_range, hany]
  have hp := poisonUnit_pos u
  constructor
  · intro h
    have h0 := h 0 hp
    have h1 := h ((poisonUnit u).2 - 1) (by omega)
    omega
  · intro h i hi
    omega

section
variable {stack : BitVec 4} {unit : BitVec 30}

theorem exec_hbmRequest_of_beyond (h : 22888 * 32768 ≤ unit.toNat) (st : Option Line) :
    exec (.hbmRequest stack unit st) s = .next s :=
  congrArg _ (if_pos (by rw [decide_eq_true h, Bool.or_true]))

theorem exec_hbmRequest_of_held (hr : s.power.phase = .ready) (h : unit.toNat < 22888 * 32768) {k : Nat}
    (hk : keyOf 1 (stack.toNat * 2 ^ 36 + unit.toNat * 64) = k) (st : Option Line) :
    exec (.hbmRequest stack unit st) s = .next (match st with
      | some v => { s with mem := Mem.setNat s.mem k 64 v.toNat, poison := s.healedAt k 64 }
      | none => s.emit (.rowData k (BitVec.ofNat 512 (s.natAt k 64)) (s.poison.any fun u => u / 64 = k / 64))) := by
  subst hk
  change execHbmRequest stack unit st s = _
  unfold execHbmRequest
  extract_lets k
  refine congrArg _ ((if_neg ?_).trans ?_)
  · rw [State.on_eq s hr, decide_eq_false (Nat.not_le.2 h)]
    decide
  · cases st with
    | none => rfl
    | some v =>
      have hh := healed_bytes s k (leBytes 64 v.toNat)
      rw [leBytes_length] at hh
      dsimp only
      rw [hh]
      rfl

end

/-- A line's bytes, as a number in base 256. -/
theorem lineByte (v : Line) (j : Nat) : BitVec.ofNat 8 (v.toNat / 256 ^ j) = v.extractLsb' (8 * j) 8 := by
  apply BitVec.eq_of_toNat_eq
  rw [BitVec.toNat_ofNat, BitVec.extractLsb'_toNat, Nat.shiftRight_eq_div_pow, Nat.pow_mul]

/-! ### Atomic operations -/

theorem atomicPlace_aligned {a n : Nat} (h : s.atomicPlace a n = true) : a % n = 0 := by
  simp only [State.atomicPlace, Bool.and_eq_true, decide_eq_true_iff] at h
  exact h.1.2

theorem atomicCmd_of_place {kind : AtomKind} {a n v : Nat} (h : s.atomicPlace a n = true) :
    s.atomicCmd kind a n v = { s with mem := atomic s.mem kind a v } := if_pos h

theorem atomicCmd_of_misaligned {kind : AtomKind} {a n v : Nat} (h : a % n ≠ 0) : s.atomicCmd kind a n v = s :=
  if_neg fun hp => h (atomicPlace_aligned hp)

theorem atomicCmd_of_host {kind : AtomKind} {a n v : Nat} (h : spaceOf a = 0) : s.atomicCmd kind a n v = s :=
  if_neg (by simp [State.atomicPlace, h])

theorem f32Max_toNat {a : Nat} {v : BitVec 32} (ha : a ≤ 0x7F800000) (hv : v.toNat ≤ 0x7F800000) :
    (f32Max (BitVec.ofNat 32 a) v).toNat = max a v.toNat := by
  have h32 : (BitVec.ofNat 32 a).toNat = a := Nat.mod_eq_of_lt (by omega)
  rw [f32Max, if_neg (by rw [h32]; omega)]
  split
  next h => rw [h32] at h; omega
  next h => rw [h32] at h ⊢; omega

/-- Settles O39: a store is a number written at the unit's key; an atomic operation the number that its kind gives. -/
theorem memoryRequestsServed : Obligations.MemoryRequestsServed := by
  unfold Obligations.MemoryRequestsServed
  refine ⟨fun s stack unit hr => ⟨exec_hbmRequest_of_beyond, fun h => ⟨exec_hbmRequest_of_held hr h rfl none, fun v hm => ?_⟩⟩,
    fun s a hm => ⟨fun v hp ha hv => ?_, fun v hp => ?_, fun v hp => ?_, fun v hp => ?_, fun v x y => ⟨fun h => ⟨?_, ?_⟩, fun h => ?_, fun h => ⟨?_, ?_⟩⟩⟩⟩
  · refine ⟨_, exec_hbmRequest_of_held hr h rfl (some v), fun j hj => ?_, fun a ha => memGet_setNat_outside hm _ ha⟩
    rw [memGet_setNat hm _ _ hj, lineByte]
  · refine congrArg _ ((atomicCmd_of_place hp).trans ?_)
    rw [atomic, BitVec.ofNat_toNat, BitVec.setWidth_eq, f32Max_toNat ha hv]
  · refine congrArg _ ((atomicCmd_of_place hp).trans ?_)
    rw [atomic, BitVec.ofNat_toNat, BitVec.setWidth_eq]
  · exact congrArg _ (atomicCmd_of_place hp)
  · have hx : exec (.atomicByteOr a v) s = .next { s with mem := Mem.setNat s.mem a 1 (Mem.get s.mem a ||| BitVec.ofNat 8 v.toNat).toNat } :=
      congrArg Host.Outcome.next (atomicCmd_of_place hp)
    rw [BitVec.ofNat_toNat, BitVec.setWidth_eq] at hx
    refine ⟨_, hx, ?_, fun b hb => memGet_setNat_outside hm _ (by omega)⟩
    have h := memGet_setNat hm a (Mem.get s.mem a ||| v).toNat (n := 1) (j := 0) (by decide)
    rw [Nat.pow_zero, Nat.div_one, BitVec.ofNat_toNat, BitVec.setWidth_eq] at h
    exact h
  · exact congrArg _ (atomicCmd_of_misaligned h)
  · exact congrArg _ (atomicCmd_of_misaligned h)
  · exact congrArg _ (atomicCmd_of_misaligned h)
  · exact congrArg _ (atomicCmd_of_host h)
  · exact congrArg _ (atomicCmd_of_host h)

end Sys2Proof.Laws
end

section
/-! PROOFS. What the residue checks find (R516 to R520). -/

namespace Sys2Proof.Laws

open Sys2Proof.Machine

theorem residue7_cast (v : Int) : (residue7 v : Int) = v % 7 := Int.toNat_of_nonneg (Int.emod_nonneg v (by decide))

/-- Two residues agree exactly when the values differ by a multiple of 7. -/
theorem residue7_eq_iff (a b : Int) : residue7 a = residue7 b ↔ (a - b) % 7 = 0 := by
  rw [← Int.natCast_inj, residue7_cast, residue7_cast]
  omega

theorem mismatch_iff (v d : Int) : mismatch v d = true ↔ d % 7 ≠ 0 := by
  rw [mismatch, decide_eq_true_iff, ne_eq, residue7_eq_iff, add_sub_cancel_left]

theorem mismatch_eq (v d : Int) : mismatch v d = decide (d % 7 ≠ 0) := by
  rw [Bool.eq_iff_iff, mismatch_iff, decide_eq_true_iff]

theorem shiftAgrees_iff (x y d : Int) (m : Nat) : shiftAgrees x y d m = true ↔ (y * 2 ^ m + d - x) % 7 = 0 := by
  have hmul : y % 7 * 2 ^ m % 7 = y * 2 ^ m % 7 := (Int.mod_modEq y 7).mul_right (2 ^ m)
  rw [shiftAgrees, decide_eq_true_iff, residue7_eq_iff, residue7_cast, residue7_cast]
  omega

theorem logAddAgrees_iff (larger v slope sum : Int) : logAddAgrees larger v slope sum = true ↔ (sum - (larger + v + slope)) % 7 = 0 := by
  rw [logAddAgrees, decide_eq_true_iff, residue7_eq_iff, Nat.cast_add, Nat.cast_add, residue7_cast, residue7_cast, residue7_cast]
  omega

theorem groupFails_value (at_ len : Nat) (d again v : Int) :
    groupFails (.value at_ len d again) v = if d % 7 = 0 then 0 else if again % 7 = 0 then 1 else 2 := by
  change (outcome v d again).1 = _
  rw [outcome, mismatch_eq, mismatch_eq]
  by_cases hd : d % 7 = 0
  · simp [hd]
  · by_cases ha : again % 7 = 0 <;> simp [hd, ha]

/-- The checks that compare residues of two sides, by whether the sides agree. -/
theorem twice_fst (e : Int) (agrees again : Bool) :
    (if !!agrees then (0, e) else if again then ((2 : Nat), (0 : Int)) else (1, 0)).1 = if agrees = true then 0 else if again then 2 else 1 := by
  cases agrees <;> cases again <;> rfl

theorem groupFails_shift (at_ len m : Nat) (x y cut v : Int) (again : Bool) : groupFails (.shift at_ len x y cut m again) v =
    if (y * 2 ^ m + cut - x) % 7 = 0 then 0 else if again then 2 else 1 :=
  (twice_fst _ _ again).trans (if_congr (shiftAgrees_iff x y cut m) rfl rfl)

theorem groupFails_logAdd (at_ len : Nat) (larger w slope sum v : Int) (again : Bool) :
    groupFails (.logAdd at_ len larger w slope sum again) v =
      if (sum - (larger + w + slope)) % 7 = 0 then 0 else if again then 2 else 1 :=
  (twice_fst _ _ again).trans (if_congr (logAddAgrees_iff larger w slope sum) rfl rfl)

theorem groupFails_bits (again : Bool) (v : Int) : groupFails (.bits again) v = if again then 2 else 1 :=
  twice_fst 0 false again

section
variable (w : BitVec 19) (e flips : Nat) (d v : Int) (res : BitVec 3) (again : Bool)

theorem storeOutcome_of_many (h : 3 ≤ flips) : storeOutcome (.store w e flips d res again) v =
    if (d - res.toNat) % 7 = 0 then (0, d) else (if again then 2 else 1, 0) := by
  have hagree : residue7 (v + d) = residue7 (residue7 v + res.toNat : Nat) ↔ (d - res.toNat) % 7 = 0 := by
    rw [residue7_eq_iff, Nat.cast_add, residue7_cast]
    omega
  have hcond : (flips = 2 ∨ residue7 (v + d) ≠ residue7 (residue7 v + res.toNat : Nat)) ↔ ¬(d - res.toNat) % 7 = 0 := by
    rw [ne_eq, hagree]
    omega
  exact (if_neg (by omega)).trans ((if_congr hcond rfl rfl).trans (ite_not _ _ _))

theorem storeCorrects_of_other (h : flips ≠ 1) : storeCorrects (.store w e flips d res again) = none := by
  unfold storeCorrects
  split
  next heq => cases heq; exact absurd rfl h
  · rfl

end

end Sys2Proof.Laws
end

section
/-! PROOFS. Patrol scrubbing, spare rows, and the CXL ports (R427, R451 to R454). -/

namespace Sys2Proof.Laws

open Sys2Proof.Machine

variable {s : State}

/-! ### Records in a sound bank -/

theorem ringRec_sound (s : State) (ws : List Word) : (s.ringRec ws).weak = s.weak ∧ (s.ringRec ws).mill = s.mill := by
  have hfold (l : List (Word × Nat)) : (l.foldl (fun t p => t.ringWord p.2 p.1) s).weak = s.weak ∧
      (l.foldl (fun t p => t.ringWord p.2 p.1) s).mill = s.mill := by
    refine Prod.mk.inj (foldl_keeps (fun u : State => (u.weak, u.mill)) (fun u p => ?_) l s)
    unfold State.ringWord
    extract_lets w
    split <;> rfl
  unfold State.ringRec
  extract_lets order t
  exact hfold order

theorem baroPut_sound (s : State) (type sev : Nat) (persist : Bool) (body : List Word) :
    (s.baroPut type sev persist body).weak = s.weak ∧ (s.baroPut type sev persist body).mill = s.mill := by
  unfold State.baroPut
  split
  · exact ⟨rfl, rfl⟩
  · extract_lets r x b t u
    have hu : u.weak = t.weak ∧ u.mill = t.mill := ringRec_sound t r.words
    clear_value u
    split
    · exact hu
    · exact ⟨rfl, rfl⟩

/-- In a sound bank a record and a note of it in REPAIR leave one record, or two where the note meets a worn word. -/
theorem record_next (h0 : s.core0 = true) (hw : s.weak = []) (type sev : Nat) (body : List Word) (v : Word) :
    ((s.baroWrite type sev true body).repairNote v).baro.next = s.baro.next + 1 ∨
      ((s.baroWrite type sev true body).repairNote v).baro.next = s.baro.next + 2 := by
  rw [baroWrite_of_sound _ hw]
  have hnext := baroPut_next _ h0 type sev true body
  obtain ⟨hweak, hmill⟩ := baroPut_sound s type sev true body
  generalize s.baroPut type sev true body = t at hnext hweak hmill
  have ht0 : t.core0 = true := (congrArg (fun m : Mill => m.cores.toNat.testBit 0) hmill).trans h0
  unfold State.repairNote
  split
  next off _ =>
    by_cases hworn : t.worn (off / 8) = true
    · right
      rw [bankWord_of_worn _ ht0 hworn, baroWrite_of_sound _ (hweak.trans hw), baroPut_next _ ht0, hnext, add_assoc]
      rfl
    · left
      rw [bankWord_of_verifies _ ht0 (by simpa using hworn) (by rw [hweak, hw]; exact List.not_mem_nil)]
      exact hnext
  · exact .inl hnext

/-! ### Patrol scrubbing -/

section
variable {a : Nat} (hr : s.power.phase = .ready)
include hr

theorem exec_patrolScrub (found : EccFound) : exec (.patrolScrub a found) s = .next
    (if spaceOf a = 2 then
      (if found = .uncorrectable then { s with poison := if (poisonUnit a).1 ∈ s.poison then s.poison else s.poison ++ [(poisonUnit a).1] }
      else s)
    else if !(spaceOf a = 1 || spaceOf a = 3 || spaceOf a = 4) then s
    else match found with
      | .clean => s
      | .corrected =>
        if 3 ≤ (s.countRow (a / 64 * 64)).2 then (s.countRow (a / 64 * 64)).1.repairRow a (s.countRow (a / 64 * 64)).2
        else (s.countRow (a / 64 * 64)).1
      | .uncorrectable =>
        State.repairRow { s with poison := if (poisonUnit a).1 ∈ s.poison then s.poison else s.poison ++ [(poisonUnit a).1] } a 1) :=
  congrArg _ (if_neg (by rw [State.on_eq s hr]; decide))

theorem exec_patrolScrub_clean : exec (.patrolScrub a .clean) s = .next s := by
  rw [exec_patrolScrub hr, if_neg (c := EccFound.clean = .uncorrectable) (by decide), ite_self, ite_self]

end

theorem mem_marked (l : List Nat) (u : Nat) : u ∈ (if u ∈ l then l else l ++ [u]) := by
  split
  next h => exact h
  · exact List.mem_append_right _ (List.mem_singleton_self u)

/-- The state whose row has gone to a spare row of its part. -/
def spared (s : State) (row part : Nat) : State :=
  { s with spares := s.spares.set part (s.spares.get part 0 + 1) 0, rowErr := s.rowErr.filter fun r => r.1 ≠ row }

theorem spareRow_of_spare {row part count tier : Nat} (h : s.spares.get part 0 < count) : s.spareRow row part count tier =
    some (((spared s row part).baroWrite 0x07 1 true [locW .address (offOf row), codeW 0 tier 0]).repairNote
      (locW .address (offOf row))) := if_pos h

theorem repairRow_of_spare {key : Nat} (n : Nat) (h : s.spares.get (sparesOf key).1 0 < (sparesOf key).2) : ∃ u v,
    s.repairRow key n = ((spared s (key / 64 * 64) (sparesOf key).1).baroWrite 0x07 1 true u).repairNote v := by
  refine ⟨[locW .address (offOf (key / 64 * 64)), codeW 0 (tierOf key) 0], locW .address (offOf (key / 64 * 64)), ?_⟩
  rw [State.repairRow, spareRow_of_spare h]

/-! ### CXL ports -/

section
variable {p : Nat} {x : Port}

theorem port_setPort (s : State) (p : Nat) (hx : x ≠ {}) : (s.setPort p x).port p = x := by
  rw [State.port, State.setPort, Table.set, if_neg hx]
  exact Table.get_put_same _ _ _ _

theorem ports_portRec (s : State) (p n : Nat) : (s.portRec p n).ports = s.ports :=
  (congrArg State.ports (bankOnly_baroWrite s 0x09 1 true [noLoc, noLoc, codeW 0 n p]).rest :)

theorem spindles_portRec (s : State) (p n : Nat) : (s.portRec p n).spindles = s.spindles :=
  (congrArg State.spindles (bankOnly_baroWrite s 0x09 1 true [noLoc, noLoc, codeW 0 n p]).rest :)

theorem jobs_portRec (s : State) (p n : Nat) : (s.portRec p n).mill.jobs = s.mill.jobs :=
  (congrArg (fun u : State => u.mill.jobs) (bankOnly_baroWrite s 0x09 1 true [noLoc, noLoc, codeW 0 n p]).rest :)

/-- A job whose page lies on a port that is given up ends, its pages there unmapped (R427). -/
def endOnPort (p : Nat) (s : State) (q : Nat × Job) : State :=
  if (q.2.pages ++ q.2.creelMap).any fun e => onPort p e.2 then
    ((s.modJob q.1 fun b => { b with
      pages := b.pages.filter (fun e => !onPort p e.2)
      creelMap := b.creelMap.filter fun e => !onPort p e.2 }).endJob q.1 0x56).reap
  else s

theorem ctlFrame_endOnPort {t : State} (h : CtlFrame s t) (q : Nat × Job) : CtlFrame s (endOnPort p t q) := by
  unfold endOnPort
  split
  · exact ((h.modJob q.1 (f := fun b => { b with
      pages := b.pages.filter (fun e => !onPort p e.2)
      creelMap := b.creelMap.filter fun e => !onPort p e.2 }) (fun _ => rfl) (fun _ => rfl)).endJob q.1 0x56).reap
  · exact h

theorem giveUp_eq (s : State) (p : Nat) : s.giveUp p =
    ((s.setPort p { s.port p with givenUp := true }).portRec p 6).mill.jobs.foldl (endOnPort p)
      ((s.setPort p { s.port p with givenUp := true }).portRec p 6) := rfl

theorem port_of_ports {t : State} (h : t.ports = s.ports) (p : Nat) : t.port p = s.port p := by
  rw [State.port, State.port, h]

/-- Giving a port up keeps it given up, whatever happens to the jobs. -/
theorem port_giveUp (s : State) (p : Nat) : ((s.giveUp p).port p).givenUp = true := by
  have hset : (s.setPort p { s.port p with givenUp := true }).port p = { s.port p with givenUp := true } :=
    port_setPort s p fun h => nomatch (congrArg Port.givenUp h :)
  have hu := (port_of_ports (ports_portRec (s.setPort p { s.port p with givenUp := true }) p 6) p).trans hset
  rw [giveUp_eq]
  generalize (s.setPort p { s.port p with givenUp := true }).portRec p 6 = u at hu
  have hports : (u.mill.jobs.foldl (endOnPort p) u).ports = u.ports :=
    (congrArg State.ports (CtlFrame.foldl (fun t q ht => ctlFrame_endOnPort ht q) u.mill.jobs (.refl u)).rest :)
  rw [port_of_ports hports, hu]

theorem foldl_endOnPort_of_no_page (l : List (Nat × Job)) (u : State)
    (h : ∀ q ∈ l, ∀ e ∈ q.2.pages ++ q.2.creelMap, onPort p e.2 = false) : l.foldl (endOnPort p) u = u := by
  induction l with
  | nil => rfl
  | cons q l ih =>
    have hq : endOnPort p u q = u := by
      refine if_neg ?_
      rw [List.any_eq_true]
      rintro ⟨e, he, ho⟩
      rw [h q List.mem_cons_self e he] at ho
      cases ho
    rw [List.foldl_cons, hq]
    exact ih fun q' hq' => h q' (List.mem_cons_of_mem _ hq')

/-- Where no page lies on a port, giving it up ends no job. -/
theorem giveUp_of_no_page (h : ∀ q ∈ s.mill.jobs, ∀ e ∈ q.2.pages ++ q.2.creelMap, onPort p e.2 = false) :
    s.giveUp p = (s.setPort p { s.port p with givenUp := true }).portRec p 6 := by
  rw [giveUp_eq, jobs_portRec]
  exact foldl_endOnPort_of_no_page _ _ h

end

/-- An operation that reads a port as it is lost: it signals RESIDUE with the address, and writes nothing. -/
theorem portFault_of_reads {p : Nat} {r : ROp} {b : Job} (hj : s.job? r.q.job = some b) {a : Nat} (hc : r.code = 0)
    (ha : s.readsPort b p r.q = some a) : s.portFault p r = { rop s r.q (Run.fail 0x40 a) with closes := r.closes } := by
  rw [State.portFault, hj]
  dsimp only
  rw [if_neg (not_not.2 hc), ha]

theorem portFault_of_no_read {p : Nat} {r : ROp} {b : Job} (hj : s.job? r.q.job = some b) (ha : s.readsPort b p r.q = none) :
    s.portFault p r = r := by
  rw [State.portFault, hj]
  dsimp only
  rw [ha]
  exact ite_self r

section
variable {port : Bool} {p : Nat} (hp : portNo port = p) {x : Port} (hx : s.port p = x) (hr : s.power.phase = .ready)
include hp hx hr

theorem exec_cxlPortLost (hids : x.ids ≠ []) (hl : x.lost = false) (hg : x.givenUp = false) : exec (.cxlPortLost port) s = .next
    (((s.mapSpns fun _ y => { y with running := y.running.map fun r => (r.1, s.portFault p r.2) }).setPort p { x with
      lost := true
      since := s.ns
      triedAt := s.ns }).portRec p 4) := by
  subst hp hx
  exact congrArg _ (if_neg (by rw [State.on_eq s hr, hl, hg, decide_eq_false hids]; decide))

theorem exec_cxlRetrain {trained : Bool} {ids : List (Word × Word)} (hl : x.lost = true) (hg : x.givenUp = false)
    (ht : x.triedAt + 10 ^ 10 ≤ s.ns) {u : State} (hu : s.setPort p { x with triedAt := s.ns } = u) :
    exec (.cxlRetrain port trained ids) s = .next
      (if !trained then u
      else if ids = x.ids then (u.setPort p { x with
        lost := false
        triedAt := u.ns }).portRec p 5
      else if ids.any fun i => i.1 ∉ x.ids.map (·.1) then u.giveUp p
      else u) := by
  subst hp hx hu
  exact congrArg _ (if_neg (by rw [State.on_eq s hr, hl, hg, decide_eq_false (Nat.not_lt.2 ht)]; decide))

theorem exec_cxlGiveUp (hl : x.lost = true) (hg : x.givenUp = false) (ht : x.since + 600 * 10 ^ 9 ≤ s.ns) :
    exec (.cxlGiveUp port) s = .next (s.giveUp p) := by
  subst hp hx
  exact congrArg _ (if_neg (by rw [State.on_eq s hr, hl, hg, decide_eq_false (Nat.not_lt.2 ht)]; decide))

end

theorem exec_cxlPortLost_of_gone {port : Bool} (h : (s.port (portNo port)).lost = true ∨ (s.port (portNo port)).givenUp = true) :
    exec (.cxlPortLost port) s = .next s := by
  refine congrArg _ (if_pos ?_)
  rcases h with h | h <;> simp [h]

theorem exec_cxlRetrain_of_other {port trained : Bool} {ids : List (Word × Word)} (h : (s.port (portNo port)).lost = false ∨
    (s.port (portNo port)).givenUp = true ∨ s.ns < (s.port (portNo port)).triedAt + 10 ^ 10) :
    exec (.cxlRetrain port trained ids) s = .next s := by
  refine congrArg _ (if_pos ?_)
  rcases h with h | h | h
  · simp [h]
  · simp [h]
  · rw [decide_eq_true h, Bool.or_true]

theorem exec_cxlGiveUp_of_other {port : Bool} (h : (s.port (portNo port)).lost = false ∨
    (s.port (portNo port)).givenUp = true ∨ s.ns < (s.port (portNo port)).since + 600 * 10 ^ 9) :
    exec (.cxlGiveUp port) s = .next s := by
  refine congrArg _ (if_pos ?_)
  rcases h with h | h | h
  · simp [h]
  · simp [h]
  · rw [decide_eq_true h, Bool.or_true]

/-- The state with a poisoned unit noted. -/
def marked (s : State) (a : Nat) : State :=
  { s with poison := if (poisonUnit a).1 ∈ s.poison then s.poison else s.poison ++ [(poisonUnit a).1] }

theorem not_here {a : Nat} (h : spaceOf a = 1 ∨ spaceOf a = 3 ∨ spaceOf a = 4) :
    spaceOf a ≠ 2 ∧ ¬(!(spaceOf a = 1 || spaceOf a = 3 || spaceOf a = 4)) = true := by
  rcases h with h | h | h <;> rw [h] <;> decide

theorem exec_patrolScrub_corrected {a : Nat} (hr : s.power.phase = .ready) (h : spaceOf a = 1 ∨ spaceOf a = 3 ∨ spaceOf a = 4)
    (hn : (s.countRow (a / 64 * 64)).2 < 3) : exec (.patrolScrub a .corrected) s = .next (s.countRow (a / 64 * 64)).1 := by
  obtain ⟨h2, hh⟩ := not_here h
  rw [exec_patrolScrub hr, if_neg h2, if_neg hh]
  exact congrArg _ (if_neg (Nat.not_le.2 hn))

theorem exec_patrolScrub_uncorrectable {a : Nat} (hr : s.power.phase = .ready) (h : spaceOf a = 1 ∨ spaceOf a = 3 ∨ spaceOf a = 4) :
    exec (.patrolScrub a .uncorrectable) s = .next ((marked s a).repairRow a 1) := by
  obtain ⟨h2, hh⟩ := not_here h
  rw [exec_patrolScrub hr, if_neg h2, if_neg hh]
  rfl

theorem exec_patrolScrub_cxl {a : Nat} (hr : s.power.phase = .ready) (h : spaceOf a = 2) :
    exec (.patrolScrub a .corrected) s = .next s ∧ exec (.patrolScrub a .uncorrectable) s = .next (marked s a) := by
  rw [exec_patrolScrub hr, exec_patrolScrub hr, if_pos h, if_pos h, if_neg (c := EccFound.corrected = .uncorrectable) (by decide),
    if_pos rfl]
  exact ⟨rfl, rfl⟩

/-- A row whose part has a spare row left: the unit poisoned, the spare used, the row's errors forgotten, and the record. -/
theorem repairRow_marked {a : Nat} (h : s.spares.get (sparesOf a).1 0 < (sparesOf a).2) {t : State}
    (ht : (marked s a).repairRow a 1 = t) : (poisonUnit a).1 ∈ t.poison ∧
      t.spares = s.spares.set (sparesOf a).1 (s.spares.get (sparesOf a).1 0 + 1) 0 ∧ (∀ r ∈ t.rowErr, r.1 ≠ a / 64 * 64) ∧
      t.spindles = s.spindles ∧ t.mill.jobs = s.mill.jobs ∧ t.retired = s.retired ∧
      (s.core0 = true → s.weak = [] → t.baro.next = s.baro.next + 1 ∨ t.baro.next = s.baro.next + 2) := by
  obtain ⟨u, v, hu⟩ := repairRow_of_spare (s := marked s a) 1 h
  rw [ht] at hu
  have hrest : sansBank t = sansBank (spared (marked s a) (a / 64 * 64) (sparesOf a).1) :=
    hu ▸ ((bankOnly_baroWrite _ 0x07 1 true u).trans (bankOnly_repairNote _ v)).rest
  have hpoison : t.poison = (marked s a).poison := (congrArg State.poison hrest :)
  have hrow : t.rowErr = s.rowErr.filter fun r => r.1 ≠ a / 64 * 64 := (congrArg State.rowErr hrest :)
  refine ⟨?_, (congrArg State.spares hrest :), ?_, (congrArg State.spindles hrest :), (congrArg (fun u : State => u.mill.jobs) hrest :),
    (congrArg State.retired hrest :), fun h0 hw => ?_⟩
  · rw [hpoison]
    exact mem_marked s.poison _
  · rw [hrow]
    exact fun r hr => of_decide_eq_true (List.mem_filter.1 hr).2
  · rw [hu]
    exact record_next (s := spared (marked s a) (a / 64 * 64) (sparesOf a).1) h0 hw 0x07 1 u v

/-- A port with expanders that is set, and recorded, reads as it was set. -/
theorem port_returned {u : State} {p : Nat} {y : Port} {now : Nat} (h : y.ids ≠ []) :
    ((((u.setPort p { y with lost := false, triedAt := now }).portRec p 5).port p).lost = false) ∧
      (((u.setPort p { y with lost := false, triedAt := now }).portRec p 5).port p).ids = y.ids := by
  rw [port_of_ports (ports_portRec _ p 5), port_setPort u p (x := { y with lost := false, triedAt := now }) fun hy => h (congrArg Port.ids hy :)]
  exact ⟨rfl, rfl⟩

/-- Settles O40: residues as remainders, the scrub's branches, and the ports' tables through the records. -/
theorem scrubbingAndCxlPorts : Obligations.ScrubbingAndCxlPorts := by
  unfold Obligations.ScrubbingAndCxlPorts
  refine ⟨⟨mismatch_iff, groupFails_value, groupFails_shift, groupFails_logAdd, groupFails_bits, fun w e flips d v res again =>
      ⟨fun h => ?_, storeCorrects_of_other w e flips d res again, fun h => ?_, storeOutcome_of_many w e flips d v res again⟩⟩,
    fun s a hr => ⟨exec_patrolScrub_clean hr, fun h => ?_, fun h hn => exec_patrolScrub_corrected hr h hn, fun h hs => ?_⟩,
    fun s port ids hr => ⟨exec_cxlPortLost rfl rfl hr, fun r b hj => ⟨portFault_of_no_read hj, fun a hc ha => ?_⟩,
      exec_cxlPortLost_of_gone, fun hl hg ht => ?_, exec_cxlRetrain_of_other, fun hl hg ht hno => ?_, exec_cxlGiveUp_of_other⟩⟩
  · subst h
    exact ⟨rfl, rfl⟩
  · subst h
    rfl
  · obtain ⟨hc, hu⟩ := exec_patrolScrub_cxl hr h
    exact ⟨hc, _, hu, mem_marked s.poison _, rfl, rfl, rfl⟩
  · exact ⟨_, exec_patrolScrub_uncorrectable hr h, repairRow_marked hs rfl⟩
  · rw [portFault_of_reads hj hc ha]
    exact ⟨rfl, rfl, rfl⟩
  · have hx (trained : Bool) (ids : List (Word × Word)) := exec_cxlRetrain (port := port) rfl rfl hr (trained := trained) (ids := ids) hl hg ht rfl
    refine ⟨hx false ids, fun hi hne => ⟨_, (hx true ids).trans (congrArg _ ((if_neg (by decide)).trans (if_pos hi))), ?_⟩,
      fun hi hall => (hx true ids).trans (congrArg _ ((if_neg (by decide)).trans ((if_neg hi).trans (if_neg ?_)))), fun i him hio =>
      ⟨_, (hx true ids).trans (congrArg _ ((if_neg (by decide)).trans ((if_neg ?_).trans (if_pos ?_)))), port_giveUp _ _⟩⟩
    · exact ⟨spindles_portRec _ _ 5, jobs_portRec _ _ 5, port_returned (hi ▸ hne)⟩
    · rw [List.any_eq_true]
      rintro ⟨i, him, hio⟩
      exact of_decide_eq_true hio (hall i him)
    · rintro rfl
      exact hio (List.mem_map_of_mem him)
    · exact List.any_eq_true.2 ⟨i, him, decide_eq_true hio⟩
  · rw [exec_cxlGiveUp rfl rfl hr hl hg ht]
    exact congrArg _ (giveUp_of_no_page hno)

end Sys2Proof.Laws
end

section
/-! PROOFS. Spot tests, their votes, and twin samples (R532 to R537). -/

namespace Sys2Proof.Laws

open Sys2Proof.Machine

variable {s : State}

/-! ### Starting a test -/

/-- The state without the sites' registers. -/
def sansSite (s : State) : State := { s with mill := { s.mill with site := [] } }

theorem sansSite_markTesting (s : State) (p : Nat) : sansSite (s.markTesting p) = sansSite s := by
  unfold State.markTesting
  split <;> rfl

/-- What starts with a test: the sites that it takes part in are marked, and nothing else changes before it is entered. -/
theorem sansSite_marked (s : State) (l : List Nat) : sansSite (l.foldl State.markTesting s) = sansSite s :=
  foldl_keeps sansSite sansSite_markTesting l s

theorem startTest_same (s : State) (t : Spot) :
    (s.startTest t).mill.spots = s.mill.spots ++ [t] ∧ (s.startTest t).mill.spotCount = s.mill.spotCount + 1 ∧
      (∀ d ∈ (s.startTest t).mill.due, d.1 ≠ t.site) ∧ (∀ q ∈ (s.startTest t).mill.holds, q ≠ t.site) ∧
      (s.startTest t).mem = s.mem ∧ (s.startTest t).spindles = s.spindles := by
  have hm := sansSite_marked s t.sites
  unfold State.startTest
  generalize t.sites.foldl State.markTesting s = u at hm
  refine ⟨congrArg (· ++ [t]) (congrArg (fun v : State => v.mill.spots) hm :), congrArg (· + 1) (congrArg (fun v : State => v.mill.spotCount) hm :),
    fun d hd => ?_, fun q hq => ?_, (congrArg State.mem hm :), (congrArg State.spindles hm :)⟩
  · exact of_decide_eq_true (List.mem_filter.1 hd).2
  · exact of_decide_eq_true (List.mem_filter.1 hq).2

section
variable {p : Nat}

theorem tryTest_of_boundary {q : Nat} (hb : s.boundary p = true) (hq : s.twinOf p false = some q) :
    s.tryTest p = s.startTest { site := p, twin := q, start := s.ns } := by
  rw [State.tryTest, hb, hq]

theorem tryTest_of_waiting (h : s.boundary p = false ∨ s.twinOf p false = none) (hd : ∀ d ∈ s.mill.due, d.1 ≠ p) :
    s.tryTest p = { s with mill := { s.mill with due := s.mill.due ++ [(p, s.ns)] } } := by
  have hany : ¬(s.mill.due.any fun d => d.1 = p) = true := by
    rw [List.any_eq_true]
    rintro ⟨d, hm, he⟩
    exact hd d hm (of_decide_eq_true he)
  unfold State.tryTest
  split
  next q hb hq =>
    rcases h with h | h
    · rw [h] at hb; cases hb
    · rw [h] at hq; cases hq
  · exact if_neg hany

theorem forcedTest_of_unseated {q : Nat} (hs : s.seated p = none) (hq : s.twinOf p true = some q) :
    s.forcedTest p = some ({ site := p, twin := q, start := s.ns }, none) := by
  simp [State.forcedTest, hs, hq]

theorem quietSite_of_unseated (hs : s.seated p = none) : s.quietSite p = true := by
  rw [State.quietSite, hs]

theorem forceTest_of_unseated {q : Nat} (hs : s.seated p = none) (hq : s.twinOf p true = some q) :
    s.forceTest p = s.startTest { site := p, twin := q, start := s.ns } := by
  rw [State.forceTest, forcedTest_of_unseated hs hq]
  exact if_neg (by rw [quietSite_of_unseated hs]; decide)

theorem forceTest_of_unquiet (hq : s.quietSite p = false) {x : Spot × Option Nat} (hx : s.forcedTest p = some x) :
    s.forceTest p = { s with mill := { s.mill with holds := p :: s.mill.holds.filter (· ≠ p) } } := by
  rw [State.forceTest, hx]
  exact if_pos (by rw [hq]; rfl)

end

section
variable {site : BitVec 9} (hr : s.power.phase = .ready)
include hr

theorem exec_spotTestDue (hp : site.toNat < 288) : exec (.spotTestDue site) s =
    .next (if s.testable site.toNat && s.testDue site.toNat then s.tryTest site.toNat else s) := by
  change execSpotTestDue site s = _
  rw [execSpotTestDue, State.on_eq s hr, decide_eq_true hp]
  rfl

theorem exec_spotTestDeferExpiry : exec (.spotTestDeferExpiry site) s = .next
    (if s.testable site.toNat && s.mill.due.any (fun d => d.1 = site.toNat && decide (d.2 + s.spotTimes.2 ≤ s.ns))
    then s.forceTest site.toNat else s) := by
  change execSpotTestDeferExpiry site s = _
  rw [execSpotTestDeferExpiry, State.on_eq s hr]
  rfl

theorem exec_spotTestRetry : exec (.spotTestRetry site) s = .next
    (if s.testable site.toNat && s.mill.retests.any (fun r => r.1 = site.toNat && decide (r.2 ≤ s.ns))
    then s.tryTest site.toNat else s) := by
  change execSpotTestRetry site s = _
  rw [execSpotTestRetry, State.on_eq s hr]
  rfl

end

/-- Settles O41: the branches of each command, and what a test that starts enters. -/
theorem spotTestsStart : Obligations.SpotTestsStart := by
  unfold Obligations.SpotTestsStart
  intro s site hr hp p
  refine ⟨fun h => ?_, fun ht hd => ⟨fun q hb hq => ?_, fun h hn => ?_⟩, fun ht hd hs q hq => ?_, fun ht hd hq ⟨x, hx⟩ => ?_,
    fun l hl => ?_, fun hd => ?_, fun ht hd q hb hq => ?_, fun hd => ?_, startTest_same s⟩
  · refine (exec_spotTestDue hr hp).trans (congrArg _ (if_neg ?_))
    rcases h with h | h <;> rw [h] <;> simp
  · refine (exec_spotTestDue hr hp).trans (congrArg _ ((if_pos ?_).trans (tryTest_of_boundary hb hq)))
    rw [ht, hd]
    rfl
  · refine (exec_spotTestDue hr hp).trans (congrArg _ ((if_pos ?_).trans (tryTest_of_waiting h hn)))
    rw [ht, hd]
    rfl
  · refine (exec_spotTestDeferExpiry hr).trans (congrArg _ ((if_pos ?_).trans (forceTest_of_unseated hs hq)))
    rw [ht, hd]
    rfl
  · refine (exec_spotTestDeferExpiry hr).trans (congrArg _ ((if_pos ?_).trans (forceTest_of_unquiet hq hx)))
    rw [ht, hd]
    rfl
  · rw [State.testing, decide_eq_true hl, Bool.or_true, Bool.true_or]
  · refine (exec_spotTestDeferExpiry hr).trans (congrArg _ (if_neg ?_))
    rw [hd, Bool.and_false]
    decide
  · refine (exec_spotTestRetry hr).trans (congrArg _ ((if_pos ?_).trans (tryTest_of_boundary hb hq)))
    rw [ht, hd]
    rfl
  · refine (exec_spotTestRetry hr).trans (congrArg _ (if_neg ?_))
    rw [hd, Bool.and_false]
    decide

/-! ### The outcome of a test -/

theorem startTwinTests_of_none (h : s.mill.twinTests = []) : s.startTwinTests = s := by
  rw [State.startTwinTests, h]
  rfl

section
variable {site : BitVec 9} {t : Spot} {d1 d2 d3 : BitVec 128} (hr : s.power.phase = .ready)
  (hf : s.mill.spots.find? (fun t => t.site = site.toNat) = some t)
include hr hf

theorem exec_spotTestComplete : exec (.spotTestComplete site d1 d2 d3) s = .next
    (if decide (s.ns < t.start + 4000000) || !(t.sites ++ t.loan.toList).all s.quietSite then s
    else (s.testOver t d1 d2 d3).startTwinTests) := by
  change execSpotTestComplete site d1 d2 d3 s = _
  rw [execSpotTestComplete, State.on_eq s hr, hf]

theorem exec_spotTestComplete_of_early (h : s.ns < t.start + 4000000) : exec (.spotTestComplete site d1 d2 d3) s = .next s := by
  rw [exec_spotTestComplete hr hf, if_pos (by rw [decide_eq_true h]; rfl)]

theorem exec_spotTestComplete_of_over (h : t.start + 4000000 ≤ s.ns) (hq : (t.sites ++ t.loan.toList).all s.quietSite = true) :
    exec (.spotTestComplete site d1 d2 d3) s = .next (s.testOver t d1 d2 d3).startTwinTests := by
  rw [exec_spotTestComplete hr hf, if_neg (by rw [decide_eq_false (Nat.not_lt.2 h), hq]; decide)]

end

theorem countTest_false (s : State) : s.countTest false = { s with mill := { s.mill with rstat1 := countUp s.mill.rstat1 true } } := by
  simp only [State.countTest, Bool.false_eq_true, if_false]

theorem countTest_true (s : State) :
    s.countTest true = { s with mill := { s.mill with rstat1 := countUp (countUp s.mill.rstat1 true) false } } := by
  simp only [State.countTest, if_true]

section
variable {t : Spot} {d1 d2 d3 : BitVec 128}

theorem testOver_of_pair (h : t.third = none) (hd : d1 = d2) : s.testOver t d1 d2 d3 = ((s.countTest false).endTest t).passTest t := by
  rw [State.testOver, h]
  dsimp only
  rw [if_pos hd, decide_eq_false (not_not.2 hd)]

theorem testOver_of_no_third (h : t.third = none) (hd : d1 ≠ d2) {v : State} (hv : s.countTest true = v) (hn : v.thirdSite t = none) :
    s.testOver t d1 d2 d3 = (v.endTest t).noLoser t noLoc := by
  rw [State.testOver, h]
  dsimp only
  rw [if_neg hd, decide_eq_true hd, hv, hn]

theorem testOver_of_third (h : t.third = none) (hd : d1 ≠ d2) {u v : State} (hv : s.countTest true = v) {r : Nat}
    (hr : v.thirdSite t = some r) (hu : v.markTesting r = u) : s.testOver t d1 d2 d3 =
      { u with mill := { u.mill with
        spotCount := u.mill.spotCount + 1
        spots := u.mill.spots.erase t ++ [{ t with
          third := some r
          start := v.ns }] } } := by
  rw [State.testOver, h]
  dsimp only
  rw [if_neg hd, decide_eq_true hd, hv, hr]
  dsimp only
  rw [hu]

theorem testOver_of_vote {r : Nat} (h : t.third = some r) : s.testOver t d1 d2 d3 =
    (s.countTest (decide ¬(d1 = d2 ∧ d2 = d3))).vote t r d1 d2 d3 := by
  rw [State.testOver, h]
  have hb : (decide (d1 ≠ d2) || decide (d2 ≠ d3)) = decide ¬(d1 = d2 ∧ d2 = d3) := by
    rw [Bool.eq_iff_iff, Bool.or_eq_true, decide_eq_true_iff, decide_eq_true_iff, decide_eq_true_iff, not_and_or]
  dsimp only
  rw [hb]

end

/-- The vote of three digests, by which of them stands alone. -/
theorem voteLoser_cases (t : Spot) (r : Nat) {a b : BitVec 128} (h : a ≠ b) :
    voteLoser t r a a b = some r ∧ voteLoser t r a b a = some t.twin ∧ voteLoser t r b a a = some t.site ∧
      voteLoser t r a a a = none ∧ ∀ c, c ≠ a → c ≠ b → voteLoser t r a b c = none := by
  refine ⟨?_, ?_, ?_, ?_, fun c ha hb => ?_⟩
  · exact if_pos ⟨rfl, h⟩
  · exact (if_neg fun hc => h hc.1).trans (if_pos ⟨rfl, h.symm⟩)
  · exact (if_neg fun hc => h hc.1.symm).trans ((if_neg fun hc => h hc.1.symm).trans (if_pos ⟨rfl, h.symm⟩))
  · exact (if_neg fun hc => hc.2 rfl).trans ((if_neg fun hc => hc.2 rfl).trans (if_neg fun hc => hc.2 rfl))
  · exact (if_neg fun hc => h hc.1).trans ((if_neg fun hc => ha hc.1.symm).trans (if_neg fun hc => hb hc.1.symm))

/-! ### Twin samples -/

/-- The sample taken away, and counted as compared or as abandoned. -/
def sampled (s : State) (t : Twin) (kept : Bool) : State :=
  { s with mill := { s.mill with twins := s.mill.twins.erase t, rstat2 := countUp s.mill.rstat2 kept } }

theorem exec_twinSampleCompare (hr : s.power.phase = .ready) {n : Nat} {t : Twin} {dig : BitVec 128}
    (hf : s.mill.twins.find? (fun t => t.num = n) = some t) {kept : Bool} (hk : s.unchanged t = kept) {u : State}
    (hu : sampled s t kept = u) : exec (.twinSampleCompare n dig) s = .next
      (if !kept || dig = t.dig then u else u.twinMismatch t) := by
  change execTwinSampleCompare n dig s = _
  rw [execTwinSampleCompare, State.on_eq s hr, hf]
  dsimp only
  rw [Bool.not_not, hk, ← hu]
  rfl

/-- Settles O42: a completed test by its digests and whether a third site votes, and a sample by its units and its digest. -/
theorem votesAndTwinSamples : Obligations.VotesAndTwinSamples := by
  unfold Obligations.VotesAndTwinSamples
  refine ⟨⟨fun s site t d1 d2 d3 hr hf => ⟨exec_spotTestComplete_of_early hr hf, fun hs hq => ?_⟩, fun s => startTwinTests_of_none,
    fun t r a b => voteLoser_cases t r⟩, fun s n t dig hr hf => ?_⟩
  · intro u v
    have hx := exec_spotTestComplete_of_over hr hf hs hq (d1 := d1) (d2 := d2) (d3 := d3)
    have hu : s.countTest false = u := countTest_false s
    have hv : s.countTest true = v := countTest_true s
    refine ⟨fun h3 hd => ?_, fun h3 hd => ⟨fun hn => ?_, fun r hr hn => ?_⟩, fun r h3 => ?_⟩
    · rw [hx, testOver_of_pair h3 hd, hu]
    · rw [hx, testOver_of_no_third h3 hd hv hn]
    · obtain ⟨w, hw⟩ : ∃ w, v.markTesting r = w := ⟨_, rfl⟩
      have hm := hw ▸ sansSite_markTesting v r
      have hnone : w.mill.twinTests = [] := (congrArg (fun x : State => x.mill.twinTests) hm :).trans hn
      rw [testOver_of_third h3 hd hv hr hw] at hx
      exact ⟨_, hx.trans (congrArg Host.Outcome.next (startTwinTests_of_none (by exact hnone))), congrArg (· + 1) (congrArg (fun x : State => x.mill.spotCount) hm :),
        (congrArg (fun x : State => x.mill.rstat1) hm :), congrArg (· ++ [_]) (congrArg (fun x : State => x.mill.spots.erase t) hm :)⟩
    · rw [hx, testOver_of_vote h3]
      by_cases he : d1 = d2 ∧ d2 = d3
      · rw [if_pos he, decide_eq_false (not_not.2 he), hu]
      · rw [if_neg he, decide_eq_true he, hv]
  · intro u
    refine ⟨fun hu => ?_, fun hu hd => ?_, fun hu hd => ?_⟩
    · exact (exec_twinSampleCompare hr hf hu (u := u false) rfl).trans (congrArg _ (if_pos rfl))
    · exact (exec_twinSampleCompare hr hf hu (u := u true) rfl).trans (congrArg _ (if_pos (by rw [decide_eq_true hd]; rfl)))
    · exact (exec_twinSampleCompare hr hf hu (u := u true) rfl).trans (congrArg _ (if_neg (by rw [decide_eq_false hd]; decide)))

end Sys2Proof.Laws
end

section
/-! PROOFS. Ownership, provisioning and firmware (R548, R559 to R563). -/

namespace Sys2Proof.Laws

open Sys2Proof.Machine

variable {s : State} {key sig : BitVec 4096}

theorem exec_claim_of_owned (ho : s.owned = true) (t : Transport) (cred : BitVec 1024) : exec (.claim t key cred sig) s = .next s :=
  congrArg _ (if_pos (by rw [ho, Bool.or_true]))

/-- CLAIM over I3C of a module without an owner, by what its checks say. -/
theorem exec_claim_of_free (hc : s.carries .i3c = true) (ho : s.owned = false) (cred : BitVec 1024) {right : Prop} [Decidable right]
    (hr : right ↔ pssVerify key.toNat sig.toNat (Config.signedBytes 1 (keyBytes key ++ leBytes 128 cred.toNat)) = true ∧
      credOk cred.toNat = true ∧ cred.toNat % 256 = 3) {u : State} (hu : (s.identityBytes 24 (keyHash key)).setCred 0 cred.toNat = u) :
    exec (.claim .i3c key cred sig) s = .next (if right then u.setIdflags (u.bank 8 8 ||| 2) else s.respond ⟨.i3c, ⟨0, 0, 0⟩⟩ (.denied .i3c)) := by
  subst hu
  refine congrArg _ ((if_neg ?_).trans ?_)
  · rw [hc, ho]
    decide
  · by_cases h : right
    · obtain ⟨hp, hk, h3⟩ := hr.1 h
      rw [if_pos h]
      exact if_neg (by rw [hp, hk, h3]; decide)
    · rw [if_neg h]
      refine if_pos ?_
      rw [← Bool.not_eq_false]
      intro hf
      simp only [Bool.or_eq_false_iff, Bool.not_eq_false', decide_eq_false_iff_not, not_not] at hf
      exact h (hr.2 ⟨hf.2, hf.1.1, hf.1.2⟩)

/-- A message of a role that may send it, by what its effect and its answer are, without its code. -/
theorem message_of_effect {m : Msg} {roles : List Nat} {f : Session → State → State × Answer} {x : Session}
    (hm : s.session? m = some x) (hx : x.role ∈ roles) {t : State} {a : Answer}
    (he : f (heard s x m) (s.setSession (heard s x m)) = (t, a)) : s.message m roles f = t.answer (heard s x m) a := by
  rw [State.message, hm]
  refine (if_neg ?_).trans ?_
  · simpa using hx
  · change (f (heard s x m) (s.setSession (heard s x m))).1.answer (heard s x m) (f (heard s x m) (s.setSession (heard s x m))).2 = _
    rw [he]

section
variable {u : State} {image : List Byte}

theorem updateFirmware_of_verified
    (h : (u.flashSlot (1 - bitsOf u.sec.stat.toNat 30 1) image).slotFault (1 - bitsOf u.sec.stat.toNat 30 1) = 0) :
    u.updateFirmware image =
      ((u.flashSlot (1 - bitsOf u.sec.stat.toNat 30 1) image).bankWord bootPref (1 - bitsOf u.sec.stat.toNat 30 1), .done []) :=
  if_neg (not_not.2 h)

theorem updateFirmware_of_refused
    (h : (u.flashSlot (1 - bitsOf u.sec.stat.toNat 30 1) image).slotFault (1 - bitsOf u.sec.stat.toNat 30 1) ≠ 0) :
    u.updateFirmware image = (u.flashSlot (1 - bitsOf u.sec.stat.toNat 30 1) image, .bad) :=
  if_pos h

end

section
variable {m : Msg} {x : Session} (hr : s.power.phase = .ready) (hm : s.session? m = some x) (hx : x.role = 3)
include hr hm hx

theorem exec_release_of_owner (hb : m.body = 0x43 :: (keyBytes key ++ leBytes 512 sig.toNat)) {u w : State}
    (hu : s.setSession (heard s x m) = u)
    (hw : (((List.range 16).foldl (fun s i => s.setCred i 0) u).bankBytes bindBase (List.replicate 2048 0)).identityBytes 24
      (List.replicate 64 0) = w) : exec (.release m key sig) s = .next
      (if u.ownerKey key = true ∧ pssVerify key.toNat sig.toNat (Config.signedBytes 0 (keyBytes key)) = true then
        (w.setIdflags (w.bank 8 8 / 4 * 4 + w.bank 8 8 % 2)).answer (heard s x m) (.done [])
      else u.answer (heard s x m) .bad) := by
  subst hu hw
  by_cases h : (s.setSession (heard s x m)).ownerKey key = true ∧ pssVerify key.toNat sig.toNat (Config.signedBytes 0 (keyBytes key)) = true
  · rw [if_pos h]
    refine sessionMsg_of_effect hr hm hb (List.mem_singleton.2 hx) (if_neg ?_)
    rw [h.1, h.2]
    decide
  · rw [if_neg h]
    refine sessionMsg_of_effect hr hm hb (List.mem_singleton.2 hx) (if_pos ?_)
    rw [not_and_or, Bool.not_eq_true, Bool.not_eq_true] at h
    exact h.imp (fun h => by rw [h]; rfl) fun h => by rw [h]; rfl

theorem exec_fwWrite_of_owner {image : List Byte} (hb : m.body = 0x40 :: image) {n : Nat} (hn : 1 - bitsOf s.sec.stat.toNat 30 1 = n)
    {f : State} (hf : (s.setSession (heard s x m)).flashSlot n image = f) : exec (.fwWrite (some m) image) s = .next
      (if f.slotFault n = 0 then (f.bankWord bootPref n).answer (heard s x m) (.done []) else f.answer (heard s x m) .bad) := by
  subst hn hf
  have hrec : ¬decide (s.power.phase = .recovery) = true := by
    rw [hr]
    decide
  have hsay : ¬(!msgSays m 0x40 image) = true := by
    rw [msgSays_iff.2 hb]
    decide
  refine congrArg Host.Outcome.next ((if_neg hsay).trans ?_)
  by_cases h : ((s.setSession (heard s x m)).flashSlot (1 - bitsOf s.sec.stat.toNat 30 1) image).slotFault
      (1 - bitsOf s.sec.stat.toNat 30 1) = 0
  · rw [if_pos h]
    exact message_of_effect hm (List.mem_singleton.2 hx) ((if_neg hrec).trans (updateFirmware_of_verified h))
  · rw [if_neg h]
    exact message_of_effect hm (List.mem_singleton.2 hx) ((if_neg hrec).trans (updateFirmware_of_refused h))

end

theorem exec_provision_of_provisioned (hp : s.prov = true) : exec (.provision key sig) s = .next s :=
  congrArg _ (if_pos (by rw [hp]; simp))

/-- PROVISION of a module without an identity key: the key is drawn, written, and shown (R562). -/
theorem exec_provision (hr : s.power.phase = .ready) (hp : s.prov = false) {k : BitVec 2048 × BitVec 2048}
    (hk : Config.identityPrimes (BitVec.ofNat 512 (leNat (sha512 (leBytes 64 s.draw.1.toNat)))) = k) {n : BitVec 4096}
    (hn : BitVec.ofNat 4096 (k.1.toNat * k.2.toNat) = n) {u : State}
    (hu : s.draw.2.identityBytes 88 (keyBytes n ++ privBytes k.1.toNat k.2.toNat) = u) : exec (.provision key sig) s = .next
      (if s.vendorKey key = true ∧ pssVerify key.toNat sig.toNat (Config.signedBytes 2 (keyBytes key)) = true then
        (u.setIdflags (u.bank 8 8 ||| 1)).emit (.idPub n)
      else s) := by
  change execProvision key sig s = _
  unfold execProvision
  rw [State.on_eq s hr, hp]
  dsimp only
  rw [hk, hn, hu]
  by_cases h : s.vendorKey key = true ∧ pssVerify key.toNat sig.toNat (Config.signedBytes 2 (keyBytes key)) = true
  · rw [if_pos h, h.1, h.2]
    rfl
  · rw [if_neg h]
    rw [not_and_or, Bool.not_eq_true, Bool.not_eq_true] at h
    exact congrArg _ (if_pos (by rcases h with h | h <;> simp [h]))

theorem exec_revoke (hr : s.power.phase = .ready) : exec (.revoke key sig) s = .next
    (if s.vendorKey key = true ∧ pssVerify key.toNat sig.toNat (Config.signedBytes 3 (keyBytes key)) = true then
      s.setIdflags (s.bank 8 8 ||| 4)
    else s) := by
  change execRevoke key sig s = _
  rw [execRevoke, State.on_eq s hr]
  by_cases h : s.vendorKey key = true ∧ pssVerify key.toNat sig.toNat (Config.signedBytes 3 (keyBytes key)) = true
  · rw [if_pos h, h.1, h.2]
    rfl
  · rw [if_neg h]
    rw [not_and_or, Bool.not_eq_true, Bool.not_eq_true] at h
    exact congrArg _ (if_pos (by rcases h with h | h <;> simp [h]))

/-- Settles O46: each command's checks decide between its effect and its refusal. -/
theorem ownershipAndFirmware : Obligations.OwnershipAndFirmware := by
  unfold Obligations.OwnershipAndFirmware
  intro s key sig m hr
  refine ⟨fun cred hc ho => exec_claim_of_free hc ho cred Iff.rfl rfl, exec_claim_of_owned, fun x hm hx =>
    ⟨fun hb => exec_release_of_owner hr hm hx hb rfl rfl, fun image hb => exec_fwWrite_of_owner hr hm hx hb rfl rfl⟩, ?_, ?_⟩
  · exact ⟨exec_provision_of_provisioned, fun hp => exec_provision hr hp rfl rfl rfl⟩
  · exact exec_revoke hr

end Sys2Proof.Laws
end

section
/-! PROOFS. Attestation and the management transports (R564 to R566). -/

namespace Sys2Proof.Laws

open Sys2Proof.Machine

variable {s : State} {p : Peer}

/-! ### SPDM -/

theorem spdmReq_of_off (h : s.spdmOn p.tr = false) (f : State → State) : s.spdmReq p f = .next s :=
  congrArg _ (if_pos (by rw [h]; rfl))

theorem spdmReq_of_early (h : s.spdmOn p.tr = true) (h3 : s.spdmAt p.tr ≠ 3) (f : State → State) : s.spdmReq p f = .next (s.spdmErr p) :=
  congrArg _ ((if_neg (by rw [h]; decide)).trans (if_pos h3))

theorem spdmReq_of_ready (h : s.spdmOn p.tr = true) (h3 : s.spdmAt p.tr = 3) (f : State → State) : s.spdmReq p f = .next (f s) :=
  congrArg _ ((if_neg (by rw [h]; decide)).trans (if_neg (not_not.2 h3)))

/-- What every request for a negotiated connection meets, it meets in each of the four. -/
theorem exec_requests {o : Host.Outcome State Fault Refusal} (ho : ∀ f, s.spdmReq p f = o) (slot : BitVec 4) (off len : BitVec 16)
    (idx : BitVec 8) (signed : Bool) (nonce : BitVec 256) : exec (.getDigests p) s = o ∧ exec (.getCertificate p slot off len) s = o ∧
      exec (.challenge p slot nonce) s = o ∧ exec (.getMeasurements p idx signed nonce) s = o := by
  change execGetDigests p s = o ∧ execGetCertificate p slot off len s = o ∧ execChallenge p slot nonce s = o ∧
    execGetMeasurements p idx signed nonce s = o
  rw [execGetDigests, execGetCertificate, execChallenge, execGetMeasurements]
  exact ⟨ho _, ho _, ho _, ho _⟩

theorem exec_getCapabilities (h : s.spdmOn p.tr = true) : exec (.getCapabilities p) s =
    .next (if s.spdmAt p.tr = 1 then (s.setSpdm p.tr 2).spdm p 0x61 capabilities else s.spdmErr p) :=
  congrArg _ ((if_neg (by rw [h]; decide)).trans (ite_not _ _ _))

theorem exec_negotiateAlgorithms (h : s.spdmOn p.tr = true) : exec (.negotiateAlgorithms p) s =
    .next (if s.spdmAt p.tr = 2 then (s.setSpdm p.tr 3).spdm p 0x63 algorithms else s.spdmErr p) :=
  congrArg _ ((if_neg (by rw [h]; decide)).trans (ite_not _ _ _))

section
variable (h : s.spdmOn p.tr = true) (h3 : s.spdmAt p.tr = 3)
include h h3

theorem exec_getDigests : exec (.getDigests p) s =
    .next (s.spdm p 0x01 (if s.sec.certOk then [0, 1] ++ sha512 s.certArea else [0, 0])) := by
  change execGetDigests p s = _
  rw [execGetDigests, spdmReq_of_ready h h3]

/-- A request of a slot other than 0, or of a chain that is not there, is answered ERROR. -/
theorem exec_slot_of_error {slot : BitVec 4} (hs : slot ≠ 0 ∨ s.sec.certOk = false) (off len : BitVec 16) (nonce : BitVec 256) :
    exec (.challenge p slot nonce) s = .next (s.spdmErr p) ∧ exec (.getCertificate p slot off len) s = .next (s.spdmErr p) := by
  have hs' : slot ≠ 0 ∨ (!s.sec.certOk) = true := hs.imp_right fun hc => by rw [hc]; rfl
  change execChallenge p slot nonce s = _ ∧ execGetCertificate p slot off len s = _
  rw [execChallenge, execGetCertificate, spdmReq_of_ready h h3, spdmReq_of_ready h h3]
  exact ⟨congrArg _ (if_pos hs'), congrArg _ (if_pos hs')⟩

theorem exec_getCertificate (hc : s.sec.certOk = true) (off len : BitVec 16) {part : List Byte}
    (hp : (s.certArea.drop off.toNat).take len.toNat = part) : exec (.getCertificate p 0 off len) s = .next (s.spdm p 0x02
      ([0, 0] ++ leBytes 2 part.length ++ leBytes 2 (65536 - off.toNat - part.length) ++ part)) := by
  subst hp
  change execGetCertificate p 0 off len s = _
  rw [execGetCertificate, spdmReq_of_ready h h3]
  exact congrArg _ (if_neg (by rw [hc]; decide))

theorem exec_challenge (hc : s.sec.certOk = true) (nonce : BitVec 256) {data : List Byte} (hd : [0, 1] ++ sha512 s.certArea ++
    leBytes 32 (s.draw.1.toNat % 2 ^ 256) ++ sha512 (s.measBlocks 255).flatten ++ [0, 0] = data) :
    exec (.challenge p 0 nonce) s =
      .next (s.draw.2.spdm p 0x03 (data ++ s.sign (Config.transcript (leBytes 32 nonce.toNat) data))) := by
  subst hd
  change execChallenge p 0 nonce s = _
  rw [execChallenge, spdmReq_of_ready h h3]
  exact congrArg _ (if_neg (by rw [hc]; decide))

theorem exec_getMeasurements_of_error (idx : BitVec 8) (nonce : BitVec 256) (hp : s.prov = false) :
    exec (.getMeasurements p idx true nonce) s = .next (s.spdmErr p) := by
  change execGetMeasurements p idx true nonce s = _
  rw [execGetMeasurements, spdmReq_of_ready h h3]
  exact congrArg _ (if_pos (.inr ⟨rfl, by rw [hp]; rfl⟩))

theorem exec_getMeasurements {idx : BitVec 8} (hi : idx.toNat ≤ 16 ∨ idx.toNat = 255) (nonce : BitVec 256) {signed : Bool}
    (hs : signed = false ∨ s.prov = true) {data : List Byte} (hd : [if idx.toNat = 0 then 16 else 0, 0] ++
      leBytes 1 (s.measBlocks idx.toNat).length ++ leBytes 3 (s.measBlocks idx.toNat).flatten.length ++
      (s.measBlocks idx.toNat).flatten ++ leBytes 32 (s.draw.1.toNat % 2 ^ 256) ++ [0, 0] = data) :
    exec (.getMeasurements p idx signed nonce) s = .next (s.draw.2.spdm p 0x60
      (data ++ if signed then s.sign (Config.transcript (leBytes 32 nonce.toNat) data) else [])) := by
  subst hd
  change execGetMeasurements p idx signed nonce s = _
  rw [execGetMeasurements, spdmReq_of_ready h h3]
  refine congrArg _ (if_neg ?_)
  rintro (⟨h17, h255⟩ | ⟨h1, hp⟩)
  · omega
  · rcases hs with hs | hs
    · rw [hs] at h1; cases h1
    · rw [hs] at hp; cases hp

end

/-! ### Transports -/

theorem spdmAt_setSpdm_same (hs : Claims.Rising s.sec.spdm) (t : Transport) (n : Nat) : (s.setSpdm t n).spdmAt t = n :=
  Table.get_set_same (tableRising_zero hs) _ _ _

theorem transportNo_inj {t r : Transport} : transportNo t = transportNo r → t = r := by
  cases t <;> cases r <;> decide

theorem spdmAt_setSpdm_other (hs : Claims.Rising s.sec.spdm) {t r : Transport} (h : r ≠ t) (n : Nat) : (s.setSpdm t n).spdmAt r = s.spdmAt r :=
  Table.get_set_other (tableRising_zero hs) _ _ (fun he => h (transportNo_inj he).symm)

/-- Settles O47: SPDM by the state of the connection, and each transport's command where the transports run. -/
theorem attestationAndTransports : Obligations.AttestationAndTransports := by
  unfold Obligations.AttestationAndTransports
  refine ⟨fun s p => ⟨fun h slot off len idx signed nonce => ?_, fun h => ⟨?_, exec_getCapabilities h, exec_negotiateAlgorithms h,
    fun h3 slot off len idx signed nonce => ?_, fun h3 hc off len nonce => ?_, fun h3 hc slot nonce off len => ?_, fun h3 idx nonce => ?_⟩⟩,
    fun s hm hs => ⟨fun da => ?_, ?_, ?_, ?_, fun target sender mac dst src data => ⟨?_, ?_⟩⟩⟩
  · exact ⟨congrArg _ (if_neg (by rw [h]; decide)), congrArg _ (if_pos (by rw [h]; rfl)), congrArg _ (if_pos (by rw [h]; rfl)),
      exec_requests (spdmReq_of_off h) slot off len idx signed nonce⟩
  · exact congrArg _ (if_pos h)
  · exact exec_requests (spdmReq_of_early h h3) slot off len idx signed nonce
  · refine ⟨?_, exec_getCertificate h h3 hc off len rfl, exec_challenge h h3 hc nonce rfl, fun slot hs => exec_slot_of_error h h3 (.inl hs) off len nonce⟩
    rw [exec_getDigests h h3, if_pos hc]
    rfl
  · obtain ⟨hch, hcert⟩ := exec_slot_of_error h h3 (slot := slot) (.inr hc) off len nonce
    refine ⟨?_, hch, hcert⟩
    rw [exec_getDigests h h3, if_neg (by rw [hc]; decide)]
  · refine ⟨fun hi => ⟨?_, fun hp => ?_⟩, exec_getMeasurements_of_error h h3 idx nonce⟩
    · refine (exec_getMeasurements h h3 hi nonce (.inl rfl) rfl).trans ?_
      rw [if_neg Bool.false_ne_true, List.append_nil]
    · refine (exec_getMeasurements h h3 hi nonce (.inr hp) rfl).trans ?_
      rw [if_pos rfl]
  · refine congrArg _ (if_congr ?_ rfl rfl)
    rw [hm, Bool.true_and, decide_eq_true_iff]
  · exact ⟨_, congrArg Host.Outcome.next (if_pos hm), rfl, spdmAt_setSpdm_same hs .i3c 0, fun r hr => spdmAt_setSpdm_other hs hr 0, rfl⟩
  · exact ⟨_, congrArg Host.Outcome.next (if_pos hm), rfl, rfl, spdmAt_setSpdm_same hs .ethernet 0, rfl⟩
  · exact ⟨_, congrArg Host.Outcome.next (if_pos hm), rfl, rfl, spdmAt_setSpdm_same hs .ethernet 0, rfl⟩
  · refine congrArg _ (if_congr ?_ rfl rfl)
    rw [hm, Bool.true_and, Bool.and_eq_true, decide_eq_true_iff]
  · refine congrArg _ (if_congr ?_ rfl rfl)
    rw [Bool.and_eq_true, Bool.and_eq_true, decide_eq_true_iff, and_assoc]

end Sys2Proof.Laws
end

section
/-! PROOFS. Collective entries and their contributions (R473 to R486). -/

namespace Sys2Proof.Laws

open Sys2Proof.Machine

variable {s : State} {j : Nat} {b : Job}

/-! ### Flights -/

/-- Without an upset the checks of the combines find nothing, and a flight goes on as it would. -/
theorem advanceChecked_none (s : State) (j e : Nat) : s.advanceChecked j e .none = s.advance j e ringFuel := by
  unfold State.advanceChecked
  extract_lets t
  split
  · extract_lets c folds f' i v n
    split
    · rfl
    · rfl
  · rfl

section
variable {entry : BitVec 6} (hr : s.power.phase = .ready) (hj : s.job? j = some b)
include hr hj

theorem exec_collectiveStart_of_no_entry (hc : b.cols[entry.toNat]? = none) : exec (.collectiveStart j entry .none) s = .next s := by
  change execCollectiveStart j entry .none s = _
  rw [execCollectiveStart, State.on_eq s hr, hj]
  dsimp only
  rw [hc]

/-- COLLECTIVE_START of an entry none of whose flights waits for its scatter-add. -/
theorem exec_collectiveStart {c : ColEnt} (hc : b.cols[entry.toNat]? = some c) (hf : ∀ f ∈ b.flights, f.adding = false) {f : Flight}
    (hn : ({ entry := entry.toNat, step := if c.post then b.step - 1 else b.step, buf := startBuf c (s.colStages c) (s.srcCodes b c),
             adding := decide (c.op = 4) } : Flight) = f) {u : State} (hu : s.setJob j { b with flights := b.flights ++ [f] } = u) :
    exec (.collectiveStart j entry .none) s = .next
      (if !s.mayStart j b entry.toNat c then s
      else if c.op = 4 then u.scatter b c (s.colStages c) f
      else (u.openPhase j c (s.colStages c) f).advance j entry.toNat ringFuel) := by
  have hnone : b.flights.find? (fun f => f.entry = entry.toNat && f.adding) = none := by
    rw [List.find?_eq_none]
    intro f hm
    rw [hf f hm]
    simp
  subst hn hu
  change execCollectiveStart j entry .none s = _
  rw [execCollectiveStart, State.on_eq s hr, hj]
  dsimp only
  rw [hc]
  dsimp only
  rw [hnone]
  dsimp only
  rw [advanceChecked_none]

theorem exec_collectiveEnd {c : ColEnt} (hc : b.cols[entry.toNat]? = some c) {f : Flight}
    (hf : b.flights.find? (fun f => f.entry = entry.toNat && !f.done) = some f) : exec (.collectiveEnd j entry) s = .next
      (if f.adding ∨ f.phase < (colPhases c.op (s.colStages c).length).length
          ∨ b.sent.any (fun x => bitsOf x.tag 32 6 = entry.toNat && !x.acked) then s
      else
        let u := s.jobPuts b ((colWrites c (s.colStages c) f).map fun i => (c.dst + c.code * i, leBytes c.code (f.buf.getD i 0)))
        let u := if c.hdr ≠ 0 ∧ c.op ≤ 1 ∧ !c.post then
            u.jobPut b c.hdr (leBytes 8 f.step ++ leBytes 4 (u.colGroup c) ++ [0, 0, 0, 0])
          else u
        (u.setJob j (b.setFlight { f with done := true, buf := [] })).reap) := by
  change execCollectiveEnd j entry s = _
  rw [execCollectiveEnd, State.on_eq s hr, hj]
  dsimp only
  rw [hf, hc]

end

/-- Settles O36: an entry starts, waits or ends by the branch that its flight and its contributions choose. -/
theorem collectiveFlights : Obligations.CollectiveFlights := by
  unfold Obligations.CollectiveFlights
  intro s j b entry hr hj
  refine ⟨fun he => exec_collectiveStart_of_no_entry hr hj (List.getElem?_eq_none he), fun c hc hf => ?_,
    fun c f hc hf ha hp hs hh => ?_, fun c f hc hf hp => ?_⟩
  · intro gs f u
    have hx := exec_collectiveStart hr hj hc hf (f := f) rfl (u := u) rfl
    refine ⟨fun hm => hx.trans (congrArg _ (if_pos (by rw [hm]; rfl))), fun hm h4 => hx.trans (congrArg _ ?_),
      fun hm h4 => hx.trans (congrArg _ ?_)⟩
    · rw [if_neg (by rw [hm]; decide), if_neg h4]
    · rw [if_neg (by rw [hm]; decide), if_pos h4]
  · have hno : ¬(f.adding = true ∨ f.phase < (colPhases c.op (s.colStages c).length).length ∨
        (b.sent.any fun x => bitsOf x.tag 32 6 = entry.toNat && !x.acked) = true) := by
      rintro (h | h | h)
      · rw [ha] at h; cases h
      · omega
      · obtain ⟨x, hx, hb⟩ := List.any_eq_true.1 h
        rw [Bool.and_eq_true, decide_eq_true_iff] at hb
        rw [hs x hx hb.1] at hb
        cases hb.2
    refine (exec_collectiveEnd hr hj hc hf).trans (congrArg _ ((if_neg hno).trans ?_))
    dsimp only
    rw [if_neg fun h => h.1 hh]
  · exact (exec_collectiveEnd hr hj hc hf).trans (congrArg _ (if_pos (.inr (.inl hp))))

/-! ### Contributions -/

section
variable {h : PHdr}

theorem tagf_eq (h : PHdr) (lo w : Nat) : h.tagf lo w = h.tag.toNat / 2 ^ lo % 2 ^ w := by
  rw [PHdr.tagf, bitsOf, Nat.shiftRight_eq_div_pow]

/-- The topmost field of a tag. -/
theorem tagf_top (h : PHdr) {lo w : Nat} (hw : lo + w = 64) : h.tagf lo w = h.tag.toNat / 2 ^ lo := by
  rw [tagf_eq]
  refine Nat.mod_eq_of_lt (Nat.div_lt_of_lt_mul ?_)
  rw [← Nat.pow_add, hw]
  exact h.tag.isLt

section
variable (hr : s.power.phase = .ready)
include hr

theorem exec_collectiveData (data : List Byte) : exec (.collectiveData h data) s = .next (s.recvData h data) :=
  congrArg _ (if_pos (State.on_eq s hr))

theorem exec_contributionDigest (dig : BitVec 128) (u : Upset) : exec (.contributionDigest h dig u) s = .next (s.recvDigest h dig u) :=
  congrArg _ (if_pos (State.on_eq s hr))

theorem exec_collectiveAck : exec (.collectiveAck h) s = .next (s.recvAck h) := congrArg _ (if_pos (State.on_eq s hr))

theorem exec_resend : exec (.resend h) s = .next (s.recvResend h) := congrArg _ (if_pos (State.on_eq s hr))

theorem exec_scatterAdd (data : List Byte) : exec (.scatterAdd h data) s = .next (s.recvScatter h data) :=
  congrArg _ (if_pos (State.on_eq s hr))

end

section
variable (hf : s.fjob? h = some (j, b))
include hf

theorem recvData_of_closed (ho : b.open_ h = false) (data : List Byte) : s.recvData h data = s :=
  (forJob_of_some hf _).trans (if_pos (by rw [ho]; rfl))

theorem recvDigest_of_closed (ho : b.open_ h = false) (dig : BitVec 128) (u : Upset) : s.recvDigest h dig u = s :=
  (forJob_of_some hf _).trans (if_pos (by rw [ho]; rfl))

theorem recvData_of_open (ho : b.open_ h = true) (data : List Byte) : s.recvData h data = s.setJob j (b.setCon { b.con h with
    src := h.src.toNat
    data := (b.con h).data.set (h.tag.toNat / 2 ^ 46) data [] }) := by
  rw [← tagf_top h (show 46 + 18 = 64 from rfl)]
  exact (forJob_of_some hf _).trans (if_neg (by rw [ho]; decide))

theorem recvDigest_of_agreeing (ho : b.open_ h = true) {dig : BitVec 128}
    (hd : conDigest (b.con h).tag h.src.toNat ((b.con h).data.flatMap (·.2)) = dig) : s.recvDigest h dig .none =
      ((s.setJob j (b.setCon { b.con h with
        src := h.src.toNat
        accepted := true })).answerCon b h 1).advance j (h.tag.toNat / 2 ^ 32 % 2 ^ 6) ringFuel := by
  rw [← tagf_eq, ← advanceChecked_none]
  exact (forJob_of_some hf _).trans ((if_neg (by rw [ho]; decide)).trans (if_pos hd))

theorem recvDigest_of_differing (ho : b.open_ h = true) {dig : BitVec 128}
    (hd : conDigest (b.con h).tag h.src.toNat ((b.con h).data.flatMap (·.2)) ≠ dig) (h0 : (b.con h).fails = 0) (u : Upset) :
    s.recvDigest h dig u = (s.setJob j (b.setCon { b.con h with
      data := []
      fails := 1 })).answerCon b h 2 := by
  refine (forJob_of_some hf _).trans ((if_neg (by rw [ho]; decide)).trans ((if_neg hd).trans ?_))
  dsimp only
  rw [if_pos h0, h0]

end

/-- What an acknowledgement or a RESEND names is a contribution of its job (R468). -/
theorem named_facts {c : SentCon} (hn : s.named h = some (j, b, c)) : b.fjob ≠ 0 ∧ b.fjob % 2 ^ 10 = h.tag.toNat / 2 ^ 54 ∧
    c ∈ b.sent ∧ c.tag = h.tag.toNat / 2 ^ 8 % 2 ^ 46 ∧ c.peer.toNat = h.src.toNat % 2 ^ 14 := by
  obtain ⟨p, -, hp⟩ := List.exists_of_findSome?_eq_some hn
  obtain ⟨c', hc', he⟩ := Option.map_eq_some_iff.1 hp
  cases he
  unfold Job.named at hc'
  split at hc'
  · cases hc'
  next hcond =>
    rw [not_or, not_or, not_not, tagf_top h (show 54 + 10 = 64 from rfl)] at hcond
    have hfind := List.find?_some hc'
    rw [Bool.and_eq_true, decide_eq_true_iff, decide_eq_true_iff, tagf_eq] at hfind
    exact ⟨hcond.1, hcond.2.1, List.mem_of_find?_eq_some hc', hfind.1, hfind.2⟩

theorem recvAck_of_named {c : SentCon} (hn : s.named h = some (j, b, c)) : s.recvAck h =
    s.setJob j { b with sent := b.sent.map fun x => if x.tag = c.tag then { x with acked := true } else x } := by
  rw [State.recvAck, hn]

theorem recvResend_of_acked {c : SentCon} (hn : s.named h = some (j, b, c)) (ha : c.acked = true) : s.recvResend h = s := by
  rw [State.recvResend, hn]
  exact if_pos ha

theorem recvResend_of_first {c : SentCon} (hn : s.named h = some (j, b, c)) (ha : c.acked = false) (h0 : c.fails = 0) {u : State}
    (hu : s.setJob j { b with sent := b.sent.map fun x => if x.tag = c.tag then { x with fails := 1 } else x } = u) :
    s.recvResend h = (conPackets c.peer b.fjob u.coord.toNat c.tag c.data).foldl (fun s x => s.sendDir c.dir x) u := by
  subst hu
  rw [State.recvResend, hn]
  dsimp only
  rw [h0, if_neg (by rw [ha]; decide), if_neg (fun h => h.1 rfl), if_neg (c := 0 ≠ 0) (fun h => h rfl), if_neg (fun h => h.1 rfl)]

theorem recvScatter_of_unit (hf : s.fjob? h = some (j, b)) {c : ColEnt} (hc : b.cols[h.tag.toNat / 2 ^ 32 % 2 ^ 6]? = some c)
    {data : List Byte} (h4 : c.op = 4) (hl : data.length = 64) (hw : b.wants (h.tag.toNat % 2 ^ 38) = true) :
    s.recvScatter h data = s.addUnit b c (h.tag.toNat / 2 ^ 38 % 2 ^ 26) (codesOf 4 16 data) := by
  refine (forJob_of_some hf _).trans ?_
  rw [tagf_eq, tagf_eq, hc]
  exact if_neg (by rw [hw]; simp [h4, hl])

theorem recvScatter_of_other (hf : s.fjob? h = some (j, b)) {c : ColEnt} (hc : b.cols[h.tag.toNat / 2 ^ 32 % 2 ^ 6]? = some c)
    {data : List Byte} (hd : c.op ≠ 4 ∨ data.length ≠ 64) : s.recvScatter h data = s := by
  refine (forJob_of_some hf _).trans ?_
  rw [tagf_eq, tagf_eq, hc]
  exact if_pos (hd.imp_right .inl)

end

/-- Settles O37: a known job's contribution by its digest, what a tag names, and a scatter-add's unit. -/
theorem contributionsCheckedByDigest : Obligations.ContributionsCheckedByDigest := by
  unfold Obligations.ContributionsCheckedByDigest
  refine ⟨fun s h j b data dig hr hf => ⟨fun ho => ⟨?_, ?_⟩, fun ho => ⟨?_, fun hd => ?_, fun hd h0 => ?_⟩⟩,
    fun s h hr => ⟨fun hn => ⟨?_, ?_⟩, fun j b c hn => ⟨named_facts hn, ?_, fun ha => ?_, fun ha h0 => ?_⟩,
      fun j b hf => ⟨fun data c hc h4 hl hw => ?_, fun data c hc hd => ?_⟩⟩⟩
  · rw [exec_collectiveData hr, recvData_of_closed hf ho]
  · rw [exec_contributionDigest hr, recvDigest_of_closed hf ho]
  · rw [exec_collectiveData hr, recvData_of_open hf ho]
  · rw [exec_contributionDigest hr, recvDigest_of_agreeing hf ho hd]
  · rw [exec_contributionDigest hr, recvDigest_of_differing hf ho hd h0]
  · rw [exec_collectiveAck hr, State.recvAck, hn]
  · rw [exec_resend hr, State.recvResend, hn]
  · rw [exec_collectiveAck hr, recvAck_of_named hn]
  · rw [exec_resend hr, recvResend_of_acked hn ha]
  · exact (exec_resend hr).trans (congrArg _ (recvResend_of_first hn ha h0 rfl))
  · rw [exec_scatterAdd hr, recvScatter_of_unit hf hc h4 hl hw]
  · rw [exec_scatterAdd hr, recvScatter_of_other hf hc hd]

end Sys2Proof.Laws
end

section
/-! PROOFS. Skein links: flits, replay, and the changes of a link's state (R456 to R465, R472). -/

namespace Sys2Proof.Laws

open Sys2Proof.Machine

variable {s t u : State}

/-! ### Flits -/

section
variable {link : BitVec 6} {flit : List Byte} {fixed : List Nat}

theorem exec_flitReceive_of_dropped (h : (s.link link.toNat).up = false ∨ flit.length ≠ 272) :
    exec (.flitReceive link flit fixed) s = .next s := by
  refine congrArg _ (if_pos ?_)
  rcases h with h | h
  · simp [h]
  · simp [h]

/-- A flit on an UP link, once its corrected bytes are counted (R456, R457). -/
theorem exec_flitReceive (hr : s.power.phase = .ready) (hu : (s.link link.toNat).up = true) (hl : flit.length = 272) {seen : State}
    (hs : s.countFixes link.toNat fixed = seen) {f : Nat → Nat} (hf : (fun o => leNat ((flit.drop o).take 2)) = f) {l : Link}
    (hk : seen.link link.toNat = l) : exec (.flitReceive link flit fixed) s = .next
      (if crc32 (flit.take 260) ≠ leNat ((flit.drop 260).take 4) then seen.badFlit link.toNat
      else if l.awaiting ∧ ¬((f 256 / 2 ^ 12 = 0 ∨ f 256 / 2 ^ 12 = 2) ∧ BitVec.ofNat 12 (f 256) = l.nextSeq) then seen
      else
        let s1 := seen.setLink link.toNat { l with unacked := l.unacked.filter fun u => (BitVec.ofNat 12 (f 258) - u.1).msb }
        if ¬((f 256 / 2 ^ 12 = 0 ∨ f 256 / 2 ^ 12 = 2) ∧ BitVec.ofNat 12 (f 256) = l.nextSeq) then s1
        else if f 256 / 2 ^ 12 = 2 then s1.controlFlit link.toNat (flit.take 256)
        else s1.goodFlit link.toNat (flit.take 256)) := by
  subst hs hf hk
  refine congrArg _ (if_neg ?_)
  rw [State.on_eq s hr, hu, hl]
  decide

end

/-! ### Replay -/

theorem foldl_emit {α : Type} (g : α → Out) (l : List α) : ∀ s : State,
    l.foldl (fun s a => s.emit (g a)) s = { s with out := s.out ++ l.map g } := by
  induction l with
  | nil => intro s; exact congrArg (fun o => ({ s with out := o } : State)) (List.append_nil s.out).symm
  | cons a l ih =>
    intro s
    rw [List.foldl_cons, ih]
    exact congrArg (fun o => ({ s with out := o } : State)) (List.append_assoc s.out [g a] (l.map g))

theorem exec_linkReplayRequest_of_down {link : BitVec 6} {fseq : BitVec 12} (h : (s.link link.toNat).up = false) :
    exec (.linkReplayRequest link fseq) s = .next s :=
  congrArg _ (if_pos (by rw [h]; simp))

theorem exec_linkReplayRequest (hr : s.power.phase = .ready) {link : BitVec 6} {fseq : BitVec 12} (h : (s.link link.toNat).up = true)
    (hu : s.flushLink link.toNat = u) : exec (.linkReplayRequest link fseq) s = .next { u with
      out := u.out ++ ((u.link link.toNat).since fseq).map fun f => .linkFlit link.toNat ((u.link link.toNat).wire f) } := by
  subst hu
  rw [← foldl_emit]
  exact congrArg _ (if_neg (by rw [State.on_eq s hr, h]; decide))

/-- Settles O34: the branches of a flit's reception, and the flits kept from a number on. -/
theorem flitsCheckedAndReplayed : Obligations.FlitsCheckedAndReplayed := by
  unfold Obligations.FlitsCheckedAndReplayed
  intro s link hr n l
  refine ⟨fun flit fixed => ?_, fun fseq => ⟨exec_linkReplayRequest_of_down, fun hu => exec_linkReplayRequest hr hu rfl⟩⟩
  intro seen f ok
  refine ⟨exec_flitReceive_of_dropped, fun hu hl hbad => ?_, fun hu hl hok => ?_⟩
  · exact (exec_flitReceive hr hu hl rfl rfl rfl).trans (congrArg _ (if_pos hbad))
  · intro l1 s1 inOrder
    have hx := (exec_flitReceive hr hu hl (seen := seen) rfl (f := f) rfl (l := l1) rfl).trans (congrArg _ (if_neg (not_not.2 hok)))
    refine ⟨fun ha hi => hx.trans (congrArg _ (if_pos ⟨ha, hi⟩)), fun ha hi => hx.trans (congrArg _ ?_),
      fun hi h2 => hx.trans (congrArg _ ?_), fun hi h0 => hx.trans (congrArg _ ?_)⟩
    · exact (if_neg fun h => by rw [ha] at h; cases h.1).trans (if_pos hi)
    · exact (if_neg fun h => h.2 hi).trans ((if_neg (not_not.2 hi)).trans (if_pos h2))
    · exact (if_neg fun h => h.2 hi).trans ((if_neg (not_not.2 hi)).trans (if_neg (by rw [h0]; decide)))

/-! ### What packets that leave keep -/

/-- The second state has sent more, and the same directions are lost. -/
structure Sends (s t : State) : Prop where
  out : s.out <+: t.out
  lost : t.fabric.lost = s.fabric.lost

namespace Sends

theorem refl (s : State) : Sends s s := ⟨List.prefix_rfl, rfl⟩

theorem trans (h : Sends s t) (h' : Sends t u) : Sends s u := ⟨h.out.trans h'.out, h'.lost.trans h.lost⟩

theorem foldl {α : Type} {f : State → α → State} (hf : ∀ s a, Sends s (f s a)) : ∀ (l : List α) (s : State), Sends s (l.foldl f s)
  | [], s => refl s
  | a :: l, s => (hf s a).trans (foldl hf l _)

theorem setLink (h : Sends s t) (n : Nat) (l : Link) : Sends s (t.setLink n l) := ⟨h.out, h.lost⟩

theorem emit (h : Sends s t) (o : Out) : Sends s (t.emit o) := ⟨h.out.trans (List.prefix_append _ _), h.lost⟩

theorem flushLink (s : State) (n : Nat) : Sends s (s.flushLink n) := by
  unfold State.flushLink
  extract_lets l
  split
  · exact ((refl s).setLink n _).emit _
  · exact refl s

theorem control (s : State) (n kind : Nat) (args : List Nat) (o : Out) : Sends s (s.control n kind args o) := by
  unfold State.control
  split
  · exact refl s
  · extract_lets v l f l'
    exact (((flushLink s n).setLink n l').emit o).emit _

theorem launch (s : State) (n : Nat) (h : PHdr) (data : List Byte) (held : Option (Nat × Nat)) : Sends s (s.launch n h data held) := by
  unfold State.launch
  extract_lets v old l l' fs full w
  have hv : Sends s v := by
    unfold v
    split
    · exact refl s
    · exact flushLink s n
  clear_value v
  have hw : Sends s w := ((hv.setLink n l').emit _).trans (foldl (fun t f => (refl t).emit (.linkFlit n (l'.wire f))) full _)
  split
  · exact hw.trans (control ..)
  · exact hw

theorem transmit (s : State) (n : Nat) (h : PHdr) (data : List Byte) (held : Option (Nat × Nat)) : Sends s (s.transmit n h data held) := by
  unfold State.transmit
  extract_lets fab v l
  have hv : Sends s v := ⟨List.prefix_rfl, rfl⟩
  split
  · exact hv.setLink n _
  · exact hv.trans (launch ..)

theorem routeOut (s : State) (h : PHdr) (data : List Byte) (link : Option Nat) : Sends s (s.routeOut h data link) := by
  unfold State.routeOut
  extract_lets inG held
  split
  · exact (refl s).emit _
  · extract_lets dl h'
    split
    · exact ⟨List.prefix_rfl, rfl⟩
    · exact transmit ..

theorem release (s : State) : Sends s s.release := by
  have hroute (t : State) (p : PHdr × List Byte × Option Nat) : Sends t (t.routeOut p.1 p.2.1 p.2.2) := routeOut t _ _ _
  exact trans (t := { s with fabric := { s.fabric with stranded := [] } }) ⟨List.prefix_rfl, rfl⟩ (foldl hroute s.fabric.stranded _)

end Sends

end Sys2Proof.Laws
end

section
/-! PROOFS. The changes of a link's state, and the loss of a neighbour (R459 to R465, R472). -/

namespace Sys2Proof.Laws

open Sys2Proof.Machine

variable {s t u : State}

/-! ### Fields of LSTAT -/

theorem bitsOf_eq_extract {w : Nat} (v : BitVec w) (lo n : Nat) : bitsOf v.toNat lo n = (v.extractLsb' lo n).toNat := by
  rw [BitVec.extractLsb'_toNat, bitsOf]

theorem extract_ofNat {n : Nat} (hn : n < 2 ^ 32) (lo w : Nat) : (BitVec.ofNat 32 n).extractLsb' lo w = BitVec.ofNat w (n / 2 ^ lo) := by
  apply BitVec.eq_of_toNat_eq
  rw [BitVec.extractLsb'_toNat, BitVec.toNat_ofNat, BitVec.toNat_ofNat, Nat.mod_eq_of_lt hn, Nat.shiftRight_eq_div_pow]

theorem spared_state (l : Link) (lane : Nat) : ((l.setState 3).setSpared lane).state = 3 := by
  rw [Link.state, bitsOf_eq_extract, Link.setSpared, Link.setState, BitVec.extractLsb'_or, BitVec.extractLsb'_and, BitVec.extractLsb'_or,
    BitVec.extractLsb'_and, extract_ofNat (by omega), extract_ofNat (by omega), show lane % 16 * 2 ^ 25 / 2 ^ 29 = 0 by omega]
  generalize l.lstat.extractLsb' 29 3 = x
  revert x
  decide

theorem spared_lane (l : Link) {lane : Nat} (h : lane < 16) : ((l.setState 3).setSpared lane).lstat.toNat / 2 ^ 25 % 16 = lane := by
  have hb : bitsOf ((l.setState 3).setSpared lane).lstat.toNat 25 4 = lane := by
    rw [bitsOf_eq_extract, Link.setSpared, BitVec.extractLsb'_or, BitVec.extractLsb'_and, extract_ofNat (by omega),
      show lane % 16 * 2 ^ 25 / 2 ^ 25 = lane by omega]
    rw [show (0xE1FFFFFF : BitVec 32).extractLsb' 25 4 = 0#4 by decide, BitVec.and_zero, BitVec.zero_or, BitVec.toNat_ofNat]
    omega
  rw [← Nat.shiftRight_eq_div_pow]
  exact hb

/-- What discovery writes into LSTAT leaves SPARED. -/
theorem discovered_lane (v : BitVec 32) {n : Nat} (hn : n < 2 ^ 24) :
    bitsOf ((v &&& 0xFF00000F) ||| BitVec.ofNat 32 n).toNat 25 4 = v.toNat / 2 ^ 25 % 16 := by
  rw [bitsOf_eq_extract, BitVec.extractLsb'_or, BitVec.extractLsb'_and, extract_ofNat (by omega), show n / 2 ^ 25 = 0 by omega,
    show (0xFF00000F : BitVec 32).extractLsb' 25 4 = BitVec.allOnes 4 by decide, BitVec.and_allOnes, BitVec.or_zero, BitVec.extractLsb'_toNat,
    Nat.shiftRight_eq_div_pow]

theorem link_setLink (s : State) (n : Nat) {l : Link} (h : l ≠ {}) : (s.setLink n l).link n = l := by
  rw [State.link, State.setLink, Table.set, if_neg h]
  exact Table.get_put_same _ _ _ _

theorem ne_default_of_state {l : Link} (h : l.state ≠ 0) : l ≠ {} := fun hl => h (hl ▸ rfl)

theorem up_of_state {l : Link} (h : l.state = 2) : l.up = true := by
  rw [Link.up, h]
  rfl

/-! ### Records -/

theorem fabric_linkRec (s : State) (loc : Word) (c n : Nat) : (s.linkRec loc c n).fabric = s.fabric :=
  (congrArg State.fabric (bankOnly_baroWrite s 0x09 1 true [loc, locW .coord c, codeW 0 n 0]).rest :)

theorem out_linkRec (s : State) (loc : Word) (c n : Nat) : (s.linkRec loc c n).out = s.out :=
  (congrArg State.out (bankOnly_baroWrite s 0x09 1 true [loc, locW .coord c, codeW 0 n 0]).rest :)

/-! ### Failure -/

theorem exec_linkFail (hr : s.power.phase = .ready) (link : BitVec 6) : exec (.linkFail link) s = .next (s.failLink link.toNat) :=
  congrArg _ (if_pos (State.on_eq s hr))

theorem failLink_of_other {n : Nat} (hu : (s.link n).up = false) (h1 : (s.link n).state ≠ 1) : s.failLink n = s :=
  if_pos (by rw [hu, decide_eq_true h1]; rfl)

/-- An UP link that fails, by what is left of its group (R459). -/
theorem failLink_of_up {n : Nat} {l : Link} (hl : s.link n = l) (hu : l.up = true)
    (ht : (s.setLink n { l.stopped 5 with fails := l.fails ++ [s.ns], tried := false }).linkRec (locW .link n) l.ncoord 1 = t) :
    (t.upLinks (n / 6) = [] → s.failLink n = { t with fabric := { t.fabric with
      stranded := t.fabric.stranded ++ (l.unacked.map (fun p => (p.2.1, p.2.2, none)) ++
        l.waiting.map fun x => (x.1, x.2.1, x.2.2.map (·.1))) } }) ∧
    ∀ m rest, t.upLinks (n / 6) = m :: rest → s.failLink n = l.waiting.foldl (fun s x => s.transmit m x.1 x.2.1 x.2.2)
      (l.unacked.foldl (fun s p => s.transmit m p.2.1 p.2.2 none)
        { t with fabric := { t.fabric with via := t.fabric.via.map fun v => if v.2 = n + 1 then (v.1, m + 1) else v } }) := by
  subst hl ht
  refine ⟨fun h => ?_, fun m rest h => ?_⟩
  · rw [State.failLink]
    dsimp only
    rw [if_neg (by rw [hu]; simp), h]
  · rw [State.failLink]
    dsimp only
    rw [if_neg (by rw [hu]; simp), h]

/-! ### A spare lane -/

section
variable {link : BitVec 6} {lane : BitVec 3} (hr : s.power.phase = .ready)
include hr

theorem exec_laneSpare : exec (.laneSpare link lane) s = .next
    (if !s.laneBad link.toNat lane.toNat then s
    else if (s.link link.toNat).state = 3 then s.failLink link.toNat
    else if (s.link link.toNat).state = 2 then
      ((s.flushLink link.toNat).control link.toNat 1 [lane.toNat, ((s.flushLink link.toNat).link link.toNat).txSeq.toNat + 1]
        (.laneSwitch link.toNat lane.toNat (((s.flushLink link.toNat).link link.toNat).txSeq + 1))).spareLane link.toNat lane.toNat
    else s) := by
  change execLaneSpare link lane s = _
  rw [execLaneSpare, State.on_eq s hr]
  rfl

end

theorem flushLink_up {n : Nat} (h : (s.link n).state = 2) : ((s.flushLink n).link n).up = true := by
  unfold State.flushLink
  extract_lets l
  split
  · have hl : ({ l with open_ := false } : Link).state = 2 := h
    exact (congrArg Link.up (link_setLink s n (ne_default_of_state (by rw [hl]; decide)))).trans (up_of_state hl)
  · exact up_of_state h

/-- A link-control flit on an UP link tells the neighbour what it says. -/
theorem mem_out_control {n : Nat} (h : (s.link n).up = true) (kind : Nat) (args : List Nat) (o : Out) : o ∈ (s.control n kind args o).out := by
  unfold State.control
  rw [if_neg (by rw [h]; decide)]
  exact List.mem_append_left _ (List.mem_append_right _ (List.mem_singleton_self o))

theorem spareLane_rest (n lane : Nat) {l : Link}
    (hl : { ((s.link n).setState 3).setSpared lane with fixes := (s.link n).fixes.filter fun f => f.1 ≠ lane } = l) :
    sansBank (s.spareLane n lane) = sansBank (s.setLink n l) := by
  unfold State.spareLane
  extract_lets l0 loc
  rw [show { (l0.setState 3).setSpared lane with fixes := l0.fixes.filter fun f => f.1 ≠ lane } = l from hl]
  unfold State.linkRec
  exact ((bankOnly_baroWrite ..).trans (bankOnly_repairNote ..)).rest

theorem spareLane_same (s : State) (n : Nat) {lane : Nat} (hl : lane < 16) : ((s.spareLane n lane).link n).state = 3 ∧
    ((s.spareLane n lane).link n).lstat.toNat / 2 ^ 25 % 16 = lane ∧ (s.spareLane n lane).out = s.out ∧
    (s.spareLane n lane).mill.jobs = s.mill.jobs := by
  obtain ⟨l', hl'⟩ : ∃ l' : Link, { ((s.link n).setState 3).setSpared lane with fixes := (s.link n).fixes.filter fun f => f.1 ≠ lane } = l' :=
    ⟨_, rfl⟩
  have hstate : l'.state = 3 := hl' ▸ spared_state (s.link n) lane
  have hlane : l'.lstat.toNat / 2 ^ 25 % 16 = lane := hl' ▸ spared_lane (s.link n) hl
  have hset := link_setLink s n (ne_default_of_state (l := l') (by rw [hstate]; decide))
  have hrest := spareLane_rest n lane hl'
  generalize s.spareLane n lane = v at hrest
  have hlink : v.link n = l' := (congrArg (fun f : Fabric => f.links.get n {}) (congrArg State.fabric hrest :)).trans hset
  rw [hlink]
  exact ⟨hstate, hlane, (congrArg State.out hrest :), (congrArg (fun u : State => u.mill.jobs) hrest :)⟩

/-- A lane that is spared on an UP link, once the neighbour is told (R458). -/
theorem sparing_same {n lane : Nat} (h2 : (s.link n).state = 2) (hl : lane < 16) (kind : Nat) (args : List Nat) (o : Out)
    (hu : ((s.flushLink n).control n kind args o).spareLane n lane = u) :
    (u.link n).state = 3 ∧ (u.link n).lstat.toNat / 2 ^ 25 % 16 = lane ∧ o ∈ u.out ∧ u.mill.jobs = s.mill.jobs := by
  have hup := flushLink_up h2
  have hjobs : (s.flushLink n).mill.jobs = s.mill.jobs := (congrArg (fun u : State => u.mill.jobs) (sansFabric_flushLink s n) :)
  generalize s.flushLink n = f at hup hjobs hu
  have hout := mem_out_control hup kind args o
  have hcjobs : (f.control n kind args o).mill.jobs = f.mill.jobs := (congrArg (fun u : State => u.mill.jobs) (sansFabric_control f ..) :)
  generalize f.control n kind args o = c at hout hcjobs hu
  have hsame := spareLane_same c n hl
  rw [hu] at hsame
  obtain ⟨h3, hlane, hsout, hsjobs⟩ := hsame
  exact ⟨h3, hlane, by rw [hsout]; exact hout, hsjobs.trans (hcjobs.trans hjobs)⟩

/-! ### Retraining -/

theorem exec_linkRetrain_of_other {link : BitVec 6} {trained : Bool} (h : (s.link link.toNat).state ≠ 5 ∨ (s.link link.toNat).tried = true) :
    exec (.linkRetrain link trained) s = .next s := by
  refine congrArg _ (if_pos ?_)
  rcases h with h | h
  · rw [decide_eq_true h]
    simp
  · rw [h, Bool.or_true]

theorem exec_linkRetrain (hr : s.power.phase = .ready) {link : BitVec 6} {trained : Bool} {n : Nat} (hn : link.toNat = n) {l : Link}
    (hl : s.link n = l) (h5 : l.state = 5) (ht : l.tried = false) {v : State}
    (hv : (s.setLink n (l.setState 6)).repairNote (locW .link n) = v) : exec (.linkRetrain link trained) s = .next
      (if s.fabric.lcfg.toNat % 256 ≤ s.recentFails n then
        v.baroWrite 0x06 3 true [locW .link n, codeW 0x09 (v.recentFails n) 0]
      else if trained then (s.setLink n (l.setState 1)).linkRec (locW .link n) l.ncoord 3
      else s.setLink n { l with tried := true }) := by
  subst hn hl hv
  exact congrArg _ (if_neg (by rw [State.on_eq s hr, h5, ht]; decide))

/-! ### Discovery -/

theorem skeinOn_of_running (h : s.power.phase = .ready ∨ (s.power.phase = .starting ∧ s.power.reached = 7)) : s.skeinOn = true := by
  rcases h with h | h
  · rw [State.skeinOn, State.on_eq s h]
    rfl
  · rw [State.skeinOn, decide_eq_true h, Bool.or_true]

section
variable {link nlink : BitVec 6} {theirs : BitVec 32}

theorem exec_linkDiscovery_of_other (h : (s.link link.toNat).state ≠ 1) : exec (.linkDiscovery link theirs nlink) s = .next s :=
  congrArg _ (if_pos (by rw [decide_eq_true h, Bool.or_true]))

theorem exec_linkDiscovery (hs : s.skeinOn = true) {n : Nat} (hn : link.toNat = n) (h1 : (s.link n).state = 1) {l : Link}
    (hl : { s.link n with lstat :=
      ((s.link n).lstat &&& 0xFF00000F) ||| BitVec.ofNat 32 (theirs.toNat % 2 ^ 14 * 2 ^ 10 + nlink.toNat * 2 ^ 4) } = l)
    (hu : (s.emit (.linkCtl n s.fabric.cinuse n)) = u) {v : State} (hv : u.setLink n (l.setState l.upState) = v) :
    exec (.linkDiscovery link theirs nlink) s = .next
      (if u.wired n theirs.toNat nlink.toNat then
        State.release { v with fabric := { v.fabric with
          lost := v.fabric.lost &&& ~~~(1#8 <<< (n / 6)), via := v.fabric.via.filter fun x => (x.2 - 1) / 6 ≠ n / 6 } }
      else (u.setLink n (l.setState 4)).linkRec (locW .link n) l.ncoord 2) := by
  subst hn hl hu hv
  change execLinkDiscovery link theirs nlink s = _
  exact congrArg Host.Outcome.next (if_neg (by rw [hs, decide_eq_false (not_not.2 h1)]; decide))

end

theorem release_of_none (h : s.fabric.stranded = []) : s.release = s := by
  have hs : { s with fabric := { s.fabric with stranded := [] } } = s := by rw [← h]
  rw [State.release, h]
  exact hs

theorem take_of_prefix {α : Type} {l l' : List α} (h : l <+: l') {n : Nat} (hn : l.length = n) : l'.take n = l := by
  rw [← hn]
  exact (List.prefix_iff_eq_take.1 h).symm

/-- What discovery finds of a link in training: who is at its other end, and whether that matches the wiring rule (R461, R465, R472). -/
theorem exec_linkDiscovery_of_trained {link nlink : BitVec 6} {theirs : BitVec 32} (hs : s.skeinOn = true) :
    let n := link.toNat
    let l := s.link n
    l.state = 1 → ∃ (l' : Link) (t : State), exec (.linkDiscovery link theirs nlink) s = .next t ∧
      l'.lstat = (l.lstat &&& 0xFF00000F) ||| BitVec.ofNat 32 (theirs.toNat % 2 ^ 14 * 2 ^ 10 + nlink.toNat * 2 ^ 4) ∧
      t.out.take (s.out.length + 1) = s.out ++ [.linkCtl n s.fabric.cinuse n] ∧
      (s.wired n theirs.toNat nlink.toNat = true → s.fabric.stranded = [] →
        t.fabric.links = s.fabric.links.set n (l'.setState (if l.lstat.toNat / 2 ^ 25 % 16 = 15 then 2 else 3)) {} ∧
        t.fabric.lost = s.fabric.lost &&& ~~~(1#8 <<< (n / 6)) ∧
        t.fabric.via = s.fabric.via.filter (fun v => (v.2 - 1) / 6 ≠ n / 6) ∧ t.mem = s.mem) ∧
      (s.wired n theirs.toNat nlink.toNat = false → t.fabric.links = s.fabric.links.set n (l'.setState 4) {} ∧
        t.fabric.lost = s.fabric.lost) := by
  intro n l h1
  obtain ⟨l', hl'⟩ : ∃ l' : Link, { l with lstat :=
    (l.lstat &&& 0xFF00000F) ||| BitVec.ofNat 32 (theirs.toNat % 2 ^ 14 * 2 ^ 10 + nlink.toNat * 2 ^ 4) } = l' := ⟨_, rfl⟩
  obtain ⟨u, hu⟩ : ∃ u, s.emit (.linkCtl n s.fabric.cinuse n) = u := ⟨_, rfl⟩
  have hx := exec_linkDiscovery hs (link := link) (theirs := theirs) (nlink := nlink) rfl h1 hl' hu rfl
  have hlstat := (congrArg Link.lstat hl').symm
  have hup : l'.upState = if l.lstat.toNat / 2 ^ 25 % 16 = 15 then 2 else 3 := by
    rw [Link.upState, hlstat, discovered_lane _ (by omega)]
  have hlen : (s.out ++ [Out.linkCtl n s.fabric.cinuse n]).length = s.out.length + 1 := by simp
  have hout : u.out = s.out ++ [.linkCtl n s.fabric.cinuse n] := hu ▸ rfl
  have hfab : u.fabric = s.fabric := hu ▸ rfl
  have hmem : u.mem = s.mem := hu ▸ rfl
  have hwired : u.wired n theirs.toNat nlink.toNat = s.wired n theirs.toNat nlink.toNat := by rw [State.wired, State.wired, hfab]
  rw [hwired] at hx
  clear hl' hu hwired
  cases hw : s.wired n theirs.toNat nlink.toNat with
  | true =>
    refine ⟨l', _, hx.trans (congrArg _ (if_pos hw)), hlstat, ?_, fun _ hnone => ?_, fun h => absurd h (by decide)⟩
    · rw [← hlen, ← hout]
      exact take_of_prefix (Sends.release _).out rfl
    · have hstr : u.fabric.stranded = [] := by rw [hfab, hnone]
      generalize hv : State.mk .. = v
      have hvs : v.fabric.stranded = [] := hv ▸ hstr
      rw [release_of_none hvs, ← hv, ← hup, ← hfab]
      exact ⟨rfl, rfl, rfl, hmem⟩
  | false =>
    refine ⟨l', _, hx.trans (congrArg _ (if_neg (by rw [hw]; decide))), hlstat, ?_, fun h => absurd h (by decide), fun _ => ?_⟩
    · rw [out_linkRec, ← hlen, ← hout]
      exact take_of_prefix List.prefix_rfl rfl
    · rw [fabric_linkRec, ← hfab]
      exact ⟨rfl, rfl⟩

/-! ### A lost neighbour -/

section
variable {g : BitVec 3} {other : Option Nat}

theorem exec_neighbourLost_of_up (h : s.upLinks g.toNat ≠ [] ∨ s.fabric.lost.getLsbD g.toNat = true) :
    exec (.neighbourLost ⟨g, other⟩) s = .next s := by
  refine congrArg _ (if_pos ?_)
  rcases h with h | h
  · rw [decide_eq_true h]
    simp
  · rw [BitVec.testBit_toNat, h, Bool.or_true]

/-- The breaks of the ring that a module knows of, besides the one it finds. -/
def breaksOf (s : State) (n : Nat) (other : Option Nat) : List Nat :=
  (if s.fabric.lost.toNat.testBit (n ^^^ 1) then [s.breakOf (n ^^^ 1)] else []) ++ other.toList

/-- What the loss of a neighbour does to one job (R472). -/
def lostJob (n : Nat) (breaks : List Nat) (s : State) (p : Nat × Job) : State :=
  if p.2.fjob = 0 || p.2.st = .waiting || p.2.endWith.isSome then s
  else if !p.2.steps || breaks.any (s.cutOff p.2 (n / 2) (s.breakOf n)) then s.fabricDown p.1 p.2
  else s.needReplay p.1 0x66 0

theorem exec_neighbourLost (hr : s.power.phase = .ready) (h1 : 1 < sizeIn s.fabric.cinuse.toNat (g.toNat / 2))
    (hu : s.upLinks g.toNat = []) (hl : s.fabric.lost.getLsbD g.toNat = false)
    (ht : State.release { s with fabric := { s.fabric with lost := s.fabric.lost ||| (1#8 <<< g.toNat) } } = t) :
    exec (.neighbourLost ⟨g, other⟩) s = .next (t.mill.jobs.foldl (lostJob g.toNat (breaksOf t g.toNat other)) t) := by
  subst ht
  refine congrArg _ (if_neg ?_)
  rw [State.on_eq s hr, hu, BitVec.testBit_toNat, hl, decide_eq_false (Nat.ne_of_gt h1)]
  decide

end

theorem foldl_lostJob_of_none {n : Nat} {breaks : List Nat} : ∀ (jobs : Table Job) (s : State), (∀ p ∈ jobs, p.2.fjob = 0) →
    jobs.foldl (lostJob n breaks) s = s
  | [], _, _ => rfl
  | p :: jobs, s, h => by
    rw [List.foldl_cons, lostJob, if_pos (by rw [h p List.mem_cons_self]; rfl)]
    exact foldl_lostJob_of_none jobs s fun q hq => h q (List.mem_cons_of_mem p hq)

section
variable {n j : Nat} {breaks : List Nat} {b : Job} (hf : b.fjob ≠ 0) (hst : b.st = .resident) (he : b.endWith = none)
include hf hst he

theorem lostJob_of_down (h : b.steps = false ∨ breaks.any (s.cutOff b (n / 2) (s.breakOf n)) = true) :
    lostJob n breaks s (j, b) = s.fabricDown j b := by
  rw [lostJob, if_neg (by simp [hf, hst, he]), if_pos]
  rcases h with h | h
  · rw [h]
    rfl
  · rw [h, Bool.or_true]

theorem lostJob_of_steps (hb : b.steps = true) (h : breaks.any (s.cutOff b (n / 2) (s.breakOf n)) = false) :
    lostJob n breaks s (j, b) = s.needReplay j 0x66 0 := by
  rw [lostJob, if_neg (by simp [hf, hst, he]), if_neg (by rw [hb, h]; decide)]

end

/-- Settles O35: each command by the state of its link, and the loss of a neighbour by the job that uses the fabric. -/
theorem linkStateChanges : Obligations.LinkStateChanges := by
  unfold Obligations.LinkStateChanges
  refine ⟨⟨fun s link hr => ?_, fun s link theirs nlink hon => ?_⟩, fun s g other hr hsize => ⟨exec_neighbourLost_of_up, fun hu hl => ?_⟩⟩
  · intro n l
    refine ⟨fun hu h1 => ?_, fun hu => ?_, fun lane => ?_, fun trained => ?_⟩
    · exact (exec_linkFail hr link).trans (congrArg _ (failLink_of_other hu h1))
    · intro t
      obtain ⟨hnone, hsome⟩ := failLink_of_up (s := s) (n := n) (l := l) rfl hu (t := t) rfl
      exact ⟨fun h => (exec_linkFail hr link).trans (congrArg _ (hnone h)),
        fun m rest h => (exec_linkFail hr link).trans (congrArg _ (hsome m rest h))⟩
    · have hx := exec_laneSpare hr (link := link) (lane := lane)
      refine ⟨fun hb h2 => ?_, fun hb => ?_, fun hb h3 => ?_, fun h2 h3 => ?_⟩
      · rw [if_neg (by rw [hb]; decide), if_neg (fun h => by rw [show (s.link link.toNat).state = 2 from h2] at h; cases h),
          if_pos h2] at hx
        exact ⟨_, hx, sparing_same h2 (by omega) _ _ _ rfl⟩
      · exact hx.trans (congrArg _ (if_pos (by rw [hb]; rfl)))
      · rw [exec_linkFail hr]
        exact hx.trans (congrArg _ ((if_neg (by rw [hb]; decide)).trans (if_pos h3)))
      · rw [if_neg h3, if_neg h2, ite_self] at hx
        exact hx
    · have hx := fun (h5 : l.state = 5) (ht : l.tried = false) (tr : Bool) =>
        exec_linkRetrain hr (trained := tr) (link := link) rfl rfl h5 ht (v := (s.setLink n (l.setState 6)).repairNote (locW .link n)) rfl
      refine ⟨exec_linkRetrain_of_other, fun h5 ht hlt => ⟨?_, ?_⟩, fun h5 ht hle => ?_⟩
      · exact (hx h5 ht true).trans (congrArg _ ((if_neg (Nat.not_le.2 hlt)).trans (if_pos rfl)))
      · exact (hx h5 ht false).trans (congrArg _ ((if_neg (Nat.not_le.2 hlt)).trans (if_neg (by decide))))
      · exact (hx h5 ht trained).trans (congrArg _ (if_pos hle))
  · intro n l
    exact ⟨exec_linkDiscovery_of_other, exec_linkDiscovery_of_trained (skeinOn_of_running hon)⟩
  · intro lost u
    have hlost : u.fabric.lost = lost := (Sends.release { s with fabric := { s.fabric with lost := lost } }).lost
    have hx := exec_neighbourLost hr hsize hu hl (other := other) (t := u) rfl
    clear_value u
    refine ⟨fun hnone => hx.trans (congrArg _ (foldl_lostJob_of_none _ u hnone)), fun j b hjobs hf hst he => ?_⟩
    rw [hjobs, List.foldl_cons, List.foldl_nil] at hx
    have hj : u.job? j = some b := by
      rw [State.job?, hjobs]
      exact Table.find_put_same [] j b
    refine ⟨fun hb hfault hback ho => hx.trans (congrArg _ ?_), fun k ho hcut => hx.trans (congrArg _ ?_), fun hb => hx.trans (congrArg _ ?_)⟩
    · have hbreaks : breaksOf u g.toNat other = [] := by
        rw [breaksOf, hlost, BitVec.testBit_toNat, hback, ho]
        rfl
      rw [hbreaks, lostJob_of_steps hf hst he hb rfl, needReplay_of_steps hj hb, hfault]
      rfl
    · refine lostJob_of_down hf hst he (Or.inr ?_)
      rw [List.any_eq_true]
      exact ⟨k, List.mem_append_right _ (by rw [ho]; exact List.mem_singleton_self k), hcut⟩
    · exact lostJob_of_down hf hst he (Or.inl hb)

end Sys2Proof.Laws
end

section
/-! PROOFS. Boundaries and replays of steps (R392, R393, R521, R522, R527, R528). -/

namespace Sys2Proof.Laws

open Sys2Proof.Machine Sys2Proof.Claims

variable {s t u : State} {j : Nat} {b : Job}

/-! ### Contexts of a job under maps -/

theorem ctx_of_mapCtxs {f : Nat → Nat → Ctx → Ctx} {p : Nat × Spindle} (hp : p ∈ (s.mapCtxs f).spindles) {q : Nat × Ctx} (hq : q ∈ p.2.ctxs) :
    ∃ p' ∈ s.spindles, ∃ q' ∈ p'.2.ctxs, f p'.1 q'.1 q'.2 = q.2 := by
  obtain ⟨p', hp', -, he⟩ := mem_mapVals (t := s.spindles) (f := mapSpnCtxs f) hp
  rw [← he] at hq
  obtain ⟨q', hq', -, he'⟩ := mem_mapVals (t := p'.2.ctxs) (f := f p'.1) hq
  exact ⟨p', hp', q', hq', he'⟩

/-- A context that waits at the boundary runs on where its job goes on (R522). -/
def goOn (j : Nat) (x : Ctx) : Ctx := if x.of j && x.status = .atStep then { x with status := .running } else x

theorem goOn_not_atStep {x : Ctx} (h : (goOn j x).of j = true) : (goOn j x).status ≠ .atStep := by
  unfold goOn at h ⊢
  split
  · exact fun h => nomatch h
  next hn =>
    rw [if_neg hn] at h
    exact fun ha => hn (by rw [h, ha]; rfl)

/-! ### Commit -/

/-- A state whose job table lists number 0 twice: the step of the first is complete, the second is to end. -/
def twiceListed : State :=
  let b : Job := { (default : Job) with steps := true, st := .resident }
  { power := { phase := .ready }, spindles := [(0, { ctxs := [(0, { status := .atStep })] })]
    mill := { jobs := [(0, b), (0, { b with endWith := some 0 })] } }

/-- The two ends of jobs that the commit looks for take both entries away. -/
theorem twiceListed_commit : (match exec (.stepCommit 0 .none) twiceListed with
    | .next t => (t.job? 0).isNone
    | _ => false) = true := by decide +kernel

/-- Refutes O20: where the table of jobs lists one number twice, the second entry about to end, the commit's own search for
ended jobs takes the committed job away. -/
theorem not_stepCommitAdvances : ¬ Obligations.StepCommitAdvances := by
  unfold Obligations.StepCommitAdvances
  intro h
  obtain ⟨-, hc⟩ := h twiceListed 0 { (default : Job) with steps := true, st := .resident } rfl rfl
  obtain ⟨t, b', ht, hj, -⟩ := hc (by decide) nofun rfl rfl (by decide)
  have hnone := twiceListed_commit
  rw [ht] at hnone
  dsimp only at hnone
  rw [hj] at hnone
  cases hnone

/-! ### Boundary -/

theorem setJob_modJob (s : State) (j : Nat) (b : Job) (f : Job → Job) : (s.setJob j b).modJob j f = (s.setJob j b).setJob j (f b) :=
  modJob_of_some (State.job?_setJob_same s j b) f

theorem stagedRows_of_none (hs : b.staging = []) : b.stagedRows = [] := by
  unfold Job.stagedRows
  rw [hs]
  rfl

section
variable (hj : s.job? j = some b)
include hj

theorem stagingFails_of_none (hs : b.staging = []) (u : Upset) : s.stagingFails j u = false := by
  have hn : s.stagingFaults j u = 0 := by
    rw [State.stagingFaults, hj]
    dsimp only
    rw [stagedRows_of_none hs]
    rfl
  rw [State.stagingFails, hn]
  rfl

theorem applyStaging_of_none (hs : b.staging = []) (u : Upset) : s.applyStaging j u = s.setJob j { b with staging := [] } := by
  rw [State.applyStaging, hj]
  dsimp only
  rw [stagedRows_of_none hs]
  exact modJob_of_some hj _

theorem histories_of_none (hr : b.records = []) : s.histories j = s.setJob j { b with records := [] } := by
  rw [State.histories, hj]
  dsimp only
  rw [hr]
  exact modJob_of_some hj _

theorem exec_jobBoundary_of_steps (h : b.steps = true ∨ s.allReported j = false) (u : Upset) : exec (.jobBoundary j u) s = .next s := by
  change execJobBoundary j u s = _
  rw [execJobBoundary, hj]
  split
  next b' _ hb =>
    cases hb
    refine congrArg _ (if_pos ?_)
    rcases h with h | h
    · rw [h]
      rfl
    · rw [h]
      simp
  next => rfl

/-- The boundary of a job that goes on, with nothing staged and no record, leaves the job as it stood but for `b'`. -/
theorem exec_jobBoundary_goOn (hr : s.power.phase = .ready) (hb : b.steps = false) (hst : b.st = .resident) (he : b.endWith = none)
    (ha : s.allReported j = true) (hg : s.someReported j = true) (hstop : b.stopAt = false) (hs : b.staging = []) (hrec : b.records = [])
    (u : Upset) : ∃ (v : State) (b' : Job), exec (.jobBoundary j u) s = .next (v.mapCtxs fun _ _ x => goOn j x) ∧ v.job? j = some b' ∧
      b'.committed = b.committed ∧ b'.endWith = none ∧ { v with mill := s.mill } = s := by
  change ∃ (v : State) (b' : Job), execJobBoundary j u s = _ ∧ _
  rw [execJobBoundary, State.on_eq s hr, hj]
  dsimp only
  rw [if_neg (by rw [hb, hst, he, ha]; decide), stagingFails_of_none hj hs, applyStaging_of_none hj hs, hrec, hg, hstop]
  simp only [List.filter_nil, List.foldl_nil, setJob_modJob]
  rw [histories_of_none (State.job?_setJob_same _ j _)]
  · exact ⟨_, _, rfl, State.job?_setJob_same _ j _, rfl, he, rfl⟩
  · rfl

end

/-- Settles O21: what is staged and recorded is nothing, so the contexts that wait run on and nothing else changes. -/
theorem jobBoundaryReleases : Obligations.JobBoundaryReleases := by
  unfold Obligations.JobBoundaryReleases
  intro s j b hr hj
  refine ⟨fun h => exec_jobBoundary_of_steps hj h _, fun hb hst he ha hg hstop hs hrec => ?_⟩
  obtain ⟨v, b', hx, hj', hc, hend, hv⟩ := exec_jobBoundary_goOn hj hr hb hst he ha hg hstop hs hrec .none
  refine ⟨_, b', hx, hj', hc, hend, fun p hp q hq ho => ?_, ?_⟩
  · obtain ⟨p', -, q', -, hq'⟩ := ctx_of_mapCtxs hp hq
    rw [← hq'] at ho ⊢
    exact goOn_not_atStep ho
  · rw [← hv]
    exact ⟨rfl, rfl, rfl, rfl, rfl, rfl, rfl, rfl, rfl, rfl, rfl, rfl⟩

/-! ### Replay -/

/-- The state without the bytes of memory, the frames and the packets, which the rewind of a step writes. -/
def sansBytes (s : State) : State := { s with mem := [], poison := [], frames := [], fabric := {}, out := [] }

theorem sansBytes_foldl {α : Type} {f : State → α → State} (hf : ∀ s a, sansBytes (f s a) = sansBytes s) :
    ∀ (l : List α) (s : State), sansBytes (l.foldl f s) = sansBytes s
  | [], _ => rfl
  | a :: l, s => (sansBytes_foldl hf l (f s a)).trans (hf s a)

theorem sansBytes_of_sansFabric (h : sansFabric t = sansFabric s) : sansBytes t = sansBytes s :=
  show sansBytes (sansFabric t) = sansBytes (sansFabric s) by rw [h]

theorem sansBytes_rewind (s : State) (b : Job) (n : Nat) : sansBytes (s.rewind b n) = sansBytes s := by
  unfold State.rewind
  extract_lets v
  have hv : sansBytes v = sansBytes s := sansBytes_foldl (f := fun s f => s.setFrame f _) (fun _ _ => rfl) _ s
  split
  · exact hv
  · exact (sansBytes_of_sansFabric (sansFabric_sendAll ..)).trans hv

/-- The descriptor file of a context's snapshot is written back. -/
def putSnap (s : State) (c : Nat × Nat × Ctx) : State :=
  match c.2.2.snap with
  | some v => s.putFile c.1 c.2.1 v.file
  | none => s

/-- The contexts of a job back at their snapshots, and what they had journalled and queued since then gone (R393, R527). -/
def backAtSnapshots (s : State) (j : Nat) (b : Job) : State :=
  let v := (s.dropStep j).mapSpns fun _ x => { x with journal := x.journal.filter fun e => !((x.ctxs.get e.ctx {}).of j) }
  let files := (v.ctxsOf j).foldl putSnap v
  files.mapCtxs fun _ _ x => if x.of j then x.restore b.atBoundary else x

/-- The records and the shuttles back at the start of the step, and the job's own record (R311, R527). -/
def backAtStart (s : State) (j : Nat) (b : Job) (f : Byte × Nat) : State :=
  let v := ((b.records.foldl (fun s r => s.recDiscard r.1) s).rewind b (rewinder f)).modJob j fun b => { b.restore with records := [] }
  { v with mill := { v.mill with
      rstat0 := v.mill.rstat0 + (if v.mill.rstat0.toNat % 2 ^ 32 = 2 ^ 32 - 1 then 0 else 1)
      twins := v.mill.twins.filter fun t => t.job ≠ j } }

theorem sansBytes_recDiscard (s : State) (k : Nat) : sansBytes (s.recDiscard k) = sansBytes s := by
  unfold State.recDiscard
  generalize Mem.setBytes _ _ _ = m
  rfl

theorem sansBytes_discards (l : List (Nat × Nat)) (s : State) : sansBytes (l.foldl (fun s r => s.recDiscard r.1) s) = sansBytes s :=
  sansBytes_foldl (f := fun (s : State) (r : Nat × Nat) => s.recDiscard r.1) (fun s r => sansBytes_recDiscard s r.1) l s

theorem sansBytes_putSnap (s : State) (c : Nat × Nat × Ctx) : sansBytes (putSnap s c) = sansBytes s := by
  unfold putSnap
  split <;> rfl

/-- The state without the spindles either. -/
def sansWork (s : State) : State := { sansBytes s with spindles := [] }

theorem sansWork_backAtSnapshots (s : State) (j : Nat) (b : Job) : sansWork (backAtSnapshots s j b) = sansWork s := by
  unfold backAtSnapshots
  extract_lets v files
  have hfiles : sansWork files = sansWork v := congrArg (fun u : State => { u with spindles := [] }) (sansBytes_foldl sansBytes_putSnap _ v)
  exact hfiles

theorem ctx_backAtSnapshots {p : Nat × Spindle} (hp : p ∈ (backAtSnapshots s j b).spindles) {q : Nat × Ctx} (hq : q ∈ p.2.ctxs)
    (ho : q.2.of j = true) : ∃ x : Ctx, q.2 = x.restore b.atBoundary := by
  obtain ⟨p', -, q', -, he⟩ := ctx_of_mapCtxs hp hq
  rw [← he] at ho ⊢
  by_cases hx : q'.2.of j = true
  · exact ⟨_, if_pos hx⟩
  · rw [if_neg hx] at ho
    exact absurd ho hx

theorem get_of_forall {α : Type} {t : Table α} {P : α → Prop} {d : α} (hd : P d) (h : ∀ p ∈ t, P p.2) (k : Nat) : P (t.get k d) := by
  induction t with
  | nil => exact hd
  | cons p r ih =>
    have hr := ih fun q hq => h q (List.mem_cons_of_mem p hq)
    obtain ⟨i, x⟩ := p
    unfold Table.get
    split
    · exact h _ List.mem_cons_self
    · split
      · exact hd
      · exact hr

theorem outside_of_work (h : sansWork t = sansWork s) : Outside t s :=
  ⟨(congrArg State.time h :), (congrArg State.sec h :), (congrArg State.power h :), (congrArg State.ports h :),
    (congrArg State.host h :), (congrArg State.rowErr h :), (congrArg State.spares h :), (congrArg State.retired h :)⟩

theorem outside_of_bankOnly (h : BankOnly s t) : Outside t s :=
  have hr := h.rest
  ⟨(congrArg State.time hr :), (congrArg State.sec hr :), (congrArg State.power hr :), (congrArg State.ports hr :),
    (congrArg State.host hr :), (congrArg State.rowErr hr :), (congrArg State.spares hr :), (congrArg State.retired hr :)⟩

theorem outside_trans (h : Outside u t) (h' : Outside t s) : Outside u s := by
  obtain ⟨h1, h2, h3, h4, h5, h6, h7, h8⟩ := h
  obtain ⟨g1, g2, g3, g4, g5, g6, g7, g8⟩ := h'
  exact ⟨h1.trans g1, h2.trans g2, h3.trans g3, h4.trans g4, h5.trans g5, h6.trans g6, h7.trans g7, h8.trans g8⟩

/-- The knots of a context once all are signalled (R393). -/
theorem knot_allSignalled {x y : Ctx} (hx : x.knots = y.allSignalled) (k : Nat) : (x.knot k).pending = false ∧ (x.knot k).code = 0 := by
  unfold Ctx.knot
  split
  · exact ⟨rfl, rfl⟩
  · rw [hx]
    refine get_of_forall (P := fun v : Knot => v.pending = false ∧ v.code = 0) ⟨rfl, rfl⟩ (fun p hp => ?_) k
    obtain ⟨q, -, -, he⟩ := mem_mapVals hp
    rw [← he]
    exact ⟨rfl, rfl⟩

theorem restore_of_snap {x : Ctx} {v : Snap} {boundary : Bool} (h : (x.restore boundary).snap = some v) :
    let q := x.restore boundary
    q.s = v.s ∧ q.a = v.a ∧ q.p = v.p ∧ q.lc = v.lc ∧ q.pc = v.pc ∧ q.arithCtl = v.arith ∧ q.qzCtl = v.qz ∧ q.updCtl = v.upd ∧
      q.arithFlags = v.aflags ∧ q.qzFlags = v.qflags ∧ q.updFlags = v.uflags ∧
      (∀ k, (q.knot k).pending = false ∧ (q.knot k).code = 0) ∧ q.tiles = [] ∧ q.status = (if boundary then .atStep else .running) := by
  unfold Ctx.restore at h ⊢
  split at h
  next hn =>
    rw [hn] at h
    cases h
  next v' hs =>
    obtain rfl : v' = v := Option.some.inj (hs.symm.trans h)
    rw [hs]
    exact ⟨rfl, rfl, rfl, rfl, rfl, rfl, rfl, rfl, rfl, rfl, rfl, knot_allSignalled rfl, rfl, rfl⟩

/-- What the job's record takes as the step goes back, and what stays (R527). -/
theorem backAtStart_same (s : State) {j : Nat} {b : Job} (hj : s.job? j = some b) (f : Byte × Nat) :
    (backAtStart s j b f).job? j = some { b.restore with records := [] } ∧ (backAtStart s j b f).spindles = s.spindles ∧
      (backAtStart s j b f).baro = s.baro ∧ Outside (backAtStart s j b f) s := by
  obtain ⟨r, hr⟩ : ∃ r, (b.records.foldl (fun s r => s.recDiscard r.1) s).rewind b (rewinder f) = r := ⟨_, rfl⟩
  have hrest : sansBytes r = sansBytes s := hr ▸ (sansBytes_rewind ..).trans (sansBytes_discards b.records s)
  have hjr : r.job? j = some b := (congrArg (fun u : State => u.job? j) hrest :).trans hj
  unfold backAtStart
  rw [hr, modJob_of_some hjr]
  clear hr
  refine ⟨State.job?_setJob_same r j _, ?_, ?_, ?_⟩
  · exact (congrArg State.spindles hrest :)
  · exact (congrArg State.baro hrest :)
  · exact (outside_of_work (congrArg (fun u : State => { u with spindles := [] }) hrest) :)

theorem exec_stepReplay (hr : s.power.phase = .ready) (h0 : s.core0 = true) (hj : s.job? j = some b) {f : Byte × Nat} (hf : b.fault = some f)
    (hwait : (b.st ≠ .resident || b.endWith.isSome || s.started j || s.mill.spots.any (fun t => t.job = some j)
      || s.mill.twinTests.any (fun t => t.2.2 = j)) = false) {v : State}
    (hv : s.baroWrite 0x02 2 true [jobW b, codeW f.1.toNat (b.replays + 1) 0] = v) : exec (.stepReplay j) s = .next
      (if s.maxrep < b.replays + 1 then (s.endJob j (if f.1 = 0 then 0x40 else f.1)).reap
      else backAtStart (backAtSnapshots v j b) j b f) := by
  subst hv
  change execStepReplay j s = _
  rw [execStepReplay, h0, State.on_eq s hr, hj, Bool.and_true]
  dsimp only
  rw [hf]
  exact congrArg Host.Outcome.next (if_neg (by rw [hwait]; decide))

/-- Settles O22: a replay within MAXREP puts a record, restores the contexts, and writes no more of them after that. -/
theorem stepReplayRestores : Obligations.StepReplayRestores := by
  unfold Obligations.StepReplayRestores
  intro s j b f hr hj hf hst he hrun hspots htwins
  have hwait : (b.st ≠ .resident || b.endWith.isSome || s.started j || s.mill.spots.any (fun t => t.job = some j)
      || s.mill.twinTests.any (fun t => t.2.2 = j)) = false := by
    simpa [hst, he, hrun] using ⟨hspots, fun a a' c h => htwins (a, a', c) h⟩
  refine ⟨fun h0 hm => ?_, fun h0 => ?_, fun h0 hm => ?_⟩
  · obtain ⟨v, hv⟩ : ∃ v, s.baroWrite 0x02 2 true [jobW b, codeW f.1.toNat (b.replays + 1) 0] = v := ⟨_, rfl⟩
    have hx := (exec_stepReplay hr h0 hj hf hwait hv).trans (congrArg _ (if_neg (Nat.not_lt.2 hm)))
    have hbank : BankOnly s v := hv ▸ bankOnly_baroWrite ..
    have hnext : s.weak = [] → v.baro.next = s.baro.next + 1 := fun hw => by
      rw [← hv, baroWrite_of_sound _ hw]
      exact baroPut_next _ h0 ..
    clear hv
    have hwork := sansWork_backAtSnapshots v j b
    have hctx (p : Nat × Spindle) (hp : p ∈ (backAtSnapshots v j b).spindles) (q : Nat × Ctx) (hq : q ∈ p.2.ctxs) :=
      ctx_backAtSnapshots hp hq
    generalize backAtSnapshots v j b = w at hwork hctx hx
    have hjw : w.job? j = some b := (congrArg (fun u : State => u.job? j) hwork :).trans ((job?_of_bankOnly hbank j).trans hj)
    obtain ⟨hjob, hspn, hbaro, hout⟩ := backAtStart_same w hjw f
    refine ⟨_, _, hx, hjob, rfl, rfl, rfl, rfl, rfl, rfl, rfl, rfl, fun p hp q hq ho sn hsn => ?_, fun hw => ?_, ?_⟩
    · rw [hspn] at hp
      obtain ⟨x, he⟩ := hctx p hp q hq ho
      rw [he] at hsn ⊢
      exact restore_of_snap hsn
    · rw [hbaro, show w.baro = v.baro from (congrArg State.baro hwork :)]
      exact hnext hw
    · exact outside_trans hout (outside_trans (outside_of_work hwork) (outside_of_bankOnly hbank))
  · change execStepReplay j s = _
    rw [execStepReplay, h0, Bool.and_false]
  · exact (exec_stepReplay hr h0 hj hf hwait rfl).trans (congrArg _ (if_pos hm))

end Sys2Proof.Laws
end

section
/-! PROOFS. Jobs placed on the mill, switched out and in, and their pages migrated (R437, R439, R502, R503, R506). -/

namespace Sys2Proof.Laws

open Sys2Proof.Machine Sys2Proof.Claims

variable {s t u : State} {j : Nat} {b : Job}

/-! ### What the setting up of contexts leaves alone -/

/-- The state without bytes, spindles, frames and job records. -/
def sansPlaces (s : State) : State := { s with mem := [], poison := [], spindles := [], frames := [], mill := { s.mill with jobs := [] } }

/-- The second state comes from the first by the setting up of contexts: of the job only what it has saved changes, each part for itself. -/
structure Settles (j : Nat) (s t : State) : Prop where
  rest : sansPlaces t = sansPlaces s
  job : ∀ b, s.job? j = some b → ∃ f, t.job? j = some { b with saved := b.saved.map f }

namespace Settles

theorem same (hr : sansPlaces t = sansPlaces s) (hj : t.mill.jobs = s.mill.jobs) : Settles j s t where
  rest := hr
  job b hb := ⟨id, by rw [List.map_id, State.job?, hj]; exact hb⟩

theorem refl (s : State) : Settles j s s := same rfl rfl

theorem trans (h : Settles j s t) (h' : Settles j t u) : Settles j s u where
  rest := h'.rest.trans h.rest
  job b hb := by
    obtain ⟨f, hf⟩ := h.job b hb
    obtain ⟨g, hg⟩ := h'.job _ hf
    exact ⟨g ∘ f, hg.trans (by rw [List.map_map])⟩

theorem foldl {α : Type} {f : State → α → State} (hf : ∀ s a, Settles j s (f s a)) : ∀ (l : List α) (s : State), Settles j s (l.foldl f s)
  | [], s => refl s
  | a :: l, s => (hf s a).trans (foldl hf l _)

theorem foldl_fst {α β : Type} {f : State × β → α → State × β} (hf : ∀ a x, Settles j a.1 (f a x).1) :
    ∀ (l : List α) (a : State × β), Settles j a.1 (l.foldl f a).1
  | [], a => refl a.1
  | x :: l, a => (hf a x).trans (foldl_fst hf l _)

theorem modSaved (s : State) (k : Nat) (f : Saved → Saved) : Settles j s (s.modJob k fun b => { b with saved := b.saved.map f }) where
  rest := by
    unfold State.modJob
    split <;> rfl
  job b hb := by
    by_cases hk : k = j
    · subst hk
      exact ⟨f, by rw [modJob_of_some hb]; exact State.job?_setJob_same ..⟩
    · refine ⟨id, ?_⟩
      rw [List.map_id]
      unfold State.modJob
      split
      · exact (State.job?_setJob_other _ _ hk).trans hb
      · exact hb

theorem evict (s : State) (l base n : Nat) : Settles j s (s.evict l base n) := by
  unfold State.evict
  refine foldl (fun t p => ?_) _ s
  split
  · exact refl t
  · exact modSaved ..

theorem putBack (s : State) (l a : Nat) (v : KeptUnits) : Settles j s (s.putBack l a v) := same rfl rfl

theorem movePart (s : State) (l c base : Nat) : Settles j s (s.movePart l c base) := same rfl rfl

theorem compact (s : State) (l n : Nat) : Settles j s (s.compact l n) := by
  unfold State.compact
  extract_lets x ps
  split
  · exact refl s
  · exact (evict s l 0 159).trans (foldl_fst (fun a p => movePart a.1 l p.1 a.2) ps (s.evict l 0 159, 0))

theorem openCtx (s : State) (k : Nat) (b : Job) (l : Nat) : Settles j s (s.openCtx k b l) := by
  unfold State.openCtx
  extract_lets v x
  have hv : Settles j s v := compact s l b.bpart
  clear_value v
  split
  · extract_lets
    exact hv.trans ((evict ..).trans (same rfl rfl))
  · exact hv

theorem loadImage (s : State) (b : Job) (a key : Nat) : Settles j s (s.loadImage b a key) := by
  unfold State.loadImage
  split
  · exact refl s
  · exact same rfl rfl

theorem loadCtx (s : State) (v : Saved) : Settles j s (s.loadCtx v) := by
  unfold State.loadCtx
  extract_lets l n t
  have ht : Settles j s t := compact s l n
  clear_value t
  split
  next c base _ _ =>
    refine ht.trans ((evict t l base n).trans (trans ?_ (foldl (fun t k => putBack t l _ k) _ _)))
    exact same rfl rfl
  next => exact refl s

theorem snapshot (s : State) (k : Nat) : Settles j s (s.snapshot k) := same rfl rfl

theorem ownSlots (s : State) (k : Nat) (ns : List Nat) : Settles j s (s.ownSlots k ns) :=
  foldl (f := fun s n => s.setFrame (n / 16) _) (fun _ _ => same rfl rfl) ns s

theorem openShuttles (s : State) (b : Job) : Settles j s (s.openShuttles b) := by
  unfold State.openShuttles
  split
  · exact refl s
  · refine foldl (fun s f => ?_) _ s
    split
    · exact same rfl rfl
    · exact refl s

end Settles

theorem outside_of_places (h : sansPlaces t = sansPlaces s) : Outside t s :=
  ⟨(congrArg State.time h :), (congrArg State.sec h :), (congrArg State.power h :), (congrArg State.ports h :),
    (congrArg State.host h :), (congrArg State.rowErr h :), (congrArg State.spares h :), (congrArg State.retired h :)⟩

/-! ### Placement -/

/-- What follows once a job's record says that it is resident: its creel slots, its images, its contexts and their snapshots (R502). -/
theorem settles_contexts (s : State) (j : Nat) (b b' : Job) (slots : List Nat) (imgs : List (Nat × Nat)) (ls : List Nat) :
    Settles j s ((ls.foldl (fun s l => s.openCtx j b l) (imgs.foldl (fun s i => s.loadImage b' i.1 i.2) (s.ownSlots j slots))).snapshot j) :=
  have hslots := Settles.ownSlots (j := j) s j slots
  have himgs := Settles.foldl (j := j) (f := fun (s : State) (i : Nat × Nat) => s.loadImage b' i.1 i.2) (fun s i => .loadImage s b' i.1 i.2) imgs
  have hctxs := Settles.foldl (j := j) (f := fun (s : State) (l : Nat) => s.openCtx j b l) (fun s l => .openCtx s j b l) ls
  ((hslots.trans (himgs _)).trans (hctxs _)).trans (.snapshot _ j)

/-- A job's record as it is placed (R502, R504). -/
def residentJob (s : State) (b : Job) (p : Placing) : Job :=
  { b with st := .resident, jslot := s.freeJslot, placedAt := s.placeOrder, pages := p.pages, creelMap := p.creel }

/-- The state without a job in the queues. -/
def unqueued (s : State) (j : Nat) : State :=
  { s with mill := { s.mill with critQ := s.mill.critQ.filter (· ≠ j), fillQ := s.mill.fillQ.filter (· ≠ j) } }

/-- The state in which a job is resident, before its contexts are set up. -/
def placed (s : State) (j : Nat) (b : Job) (p : Placing) : State :=
  (unqueued (s.openShuttles b) j).setJob j ((unqueued (s.openShuttles b) j).campStart (residentJob s b p))

section
variable (hr : s.power.phase = .ready) (hj : s.job? j = some b)
include hr hj

theorem exec_jobPlace_of_waiting (h : b.st ≠ .waiting ∨ s.turn j b = false ∨ s.fits j b = false) : exec (.jobPlace j) s = .next s := by
  change execJobPlace j s = _
  rw [execJobPlace, State.on_eq s hr, if_pos rfl, State.place, hj]
  refine congrArg _ (if_pos ?_)
  rcases h with h | h | h
  · exact .inl h
  · exact .inr (.inl (by rw [h]; rfl))
  · exact .inr (.inr (by rw [h]; rfl))

section
variable (hst : b.st = .waiting) (ht : s.turn j b = true) (hf : s.fits j b = true) (hh : b.regions.any (s.namesHeld b) = false)
include hst ht hf hh

theorem exec_jobPlace_of_full (h : (s.openShuttles b).placeAll b.regions ((b.lspnList.map s.hframe).min?.getD 0 / 8) = none) :
    exec (.jobPlace j) s = .next (s.removeJob j 0x62) := by
  change execJobPlace j s = _
  rw [execJobPlace, State.on_eq s hr, if_pos rfl, State.place, hj]
  dsimp only
  rw [if_neg (by rw [hst, ht, hf]; decide), hh, h]
  rfl

theorem exec_jobPlace {p : Placing} (h : (s.openShuttles b).placeAll b.regions ((b.lspnList.map s.hframe).min?.getD 0 / 8) = some p) :
    ∃ w, exec (.jobPlace j) s = .next w ∧ Settles j (placed s j b p) w := by
  change ∃ w, execJobPlace j s = .next w ∧ _
  rw [execJobPlace, State.on_eq s hr, if_pos rfl, State.place, hj]
  dsimp only
  rw [if_neg (by rw [hst, ht, hf]; decide), hh, h]
  exact ⟨_, rfl, settles_contexts ..⟩

end

end

/-- Settles O27: the job becomes resident before its contexts are set up, and their setting up leaves its record and the queues. -/
theorem jobPlacement : Obligations.JobPlacement := by
  unfold Obligations.JobPlacement
  intro s j b hr hj
  refine ⟨exec_jobPlace_of_waiting hr hj, fun hst ht hf hh p hp => ?_, exec_jobPlace_of_full hr hj⟩
  obtain ⟨w, hx, hw⟩ := exec_jobPlace hr hj hst ht hf hh hp
  obtain ⟨f, hjw⟩ := hw.job _ (State.job?_setJob_same ..)
  have hq := hw.rest
  have hs : sansPlaces (s.openShuttles b) = sansPlaces s := (Settles.openShuttles (j := j) s b).rest
  have hcrit : w.mill.critQ = (s.openShuttles b).mill.critQ.filter (· ≠ j) := (congrArg (fun u : State => u.mill.critQ) hq :)
  have hfill : w.mill.fillQ = (s.openShuttles b).mill.fillQ.filter (· ≠ j) := (congrArg (fun u : State => u.mill.fillQ) hq :)
  refine ⟨w, _, hx, hjw, rfl, rfl, rfl, ?_, ?_, ?_, ?_, ?_⟩
  · rw [hcrit]
    simp
  · rw [hfill]
    simp
  · exact (congrArg State.fabric hq :).trans (congrArg State.fabric hs :)
  · exact (congrArg State.baro hq :).trans (congrArg State.baro hs :)
  · exact outside_trans (outside_of_places hq) (outside_of_places (t := s.openShuttles b) hs)

end Sys2Proof.Laws
end

section
/-! PROOFS. Jobs switched out and in, and their pages migrated (R437, R439, R503, R506). -/

namespace Sys2Proof.Laws

open Sys2Proof.Machine Sys2Proof.Claims

variable {s t u : State} {j : Nat} {b : Job}

/-! ### Switching out -/

/-- The contexts of a job taken off their spindles, and its record as it is switched out (R506). -/
def switchedOut (s : State) (j : Nat) (b : Job) (area : List Nat) : State :=
  let cs := s.ctxsOf j
  let v := cs.foldl (fun s c => s.clearCtx c.1 c.2.1) s
  let v := v.setJob j { b with
    st := .out, stopping := false, saved := cs.map fun c => s.saveCtx c.1 c.2.1 c.2.2, savePages := area, deques := [], since := v.ns
    aged := false }
  { v with mill := { v.mill with fillQ := j :: v.mill.fillQ } }

/-- Contexts leave their spindles, and nothing else changes. -/
theorem clearCtxs_rest (cs : List (Nat × Nat × Ctx)) (s : State) :
    { cs.foldl (fun s c => s.clearCtx c.1 c.2.1) s with spindles := s.spindles } = s := by
  induction cs generalizing s with
  | nil => rfl
  | cons c cs ih => 
    have h := congrArg (fun u : State => { u with spindles := s.spindles }) (ih (s.clearCtx c.1 c.2.1))
    exact h

/-- Whether a job may begin to leave its spindles, or has begun (R508). -/
theorem stays_iff (s : State) (j : Nat) (b : Job) :
    (!b.stopping && (s.victim ≠ some j || s.updPending j || !s.shuttlesEmpty b || b.flights.any fun f => !f.done)) = true ↔
      ¬(b.stopping = true ∨ (s.victim = some j ∧ s.updPending j = false ∧ s.shuttlesEmpty b = true ∧ ∀ f ∈ b.flights, f.done = true)) := by
  rw [not_or, Bool.and_eq_true, Bool.not_eq_true', Bool.not_eq_true]
  refine and_congr_right fun _ => ?_
  rw [← not_iff_not, Bool.not_eq_true, not_not]
  simp [and_assoc]

section
variable (hj : s.job? j = some b)
include hj

/-- A switch-out by its conditions; `o` is the save area, if there is one (R437, R506, R508). -/
theorem switchOut_eq {o : Option (List Nat)} (ho : s.savePagesOf b = o) : s.switchOut j =
    (if !b.stopping && (s.victim ≠ some j || s.updPending j || !s.shuttlesEmpty b || b.flights.any fun f => !f.done) then s
    else if s.started j then s.setJob j { b with stopping := true }
    else o.elim (s.endJob j 0x62).reap (switchedOut s j b)) := by
  rw [State.switchOut, hj]
  simp only [ho]
  cases o <;> rfl

theorem switchOut_of_stays (hc : ¬(b.stopping = true ∨ (s.victim = some j ∧ s.updPending j = false ∧ s.shuttlesEmpty b = true ∧
    ∀ f ∈ b.flights, f.done = true))) : s.switchOut j = s := by
  obtain ⟨o, ho⟩ : ∃ o, s.savePagesOf b = o := ⟨_, rfl⟩
  exact (switchOut_eq hj ho).trans (if_pos ((stays_iff s j b).2 hc))

section
variable (hc : b.stopping = true ∨ (s.victim = some j ∧ s.updPending j = false ∧ s.shuttlesEmpty b = true ∧ ∀ f ∈ b.flights, f.done = true))
include hc

theorem switchOut_of_started (hs : s.started j = true) : s.switchOut j = s.setJob j { b with stopping := true } := by
  obtain ⟨o, ho⟩ : ∃ o, s.savePagesOf b = o := ⟨_, rfl⟩
  exact (switchOut_eq hj ho).trans ((if_neg fun h => (stays_iff s j b).1 h hc).trans (if_pos hs))

theorem switchOut_of_idle (hs : s.started j = false) {o : Option (List Nat)} (ho : s.savePagesOf b = o) :
    s.switchOut j = o.elim (s.endJob j 0x62).reap (switchedOut s j b) :=
  (switchOut_eq hj ho).trans ((if_neg fun h => (stays_iff s j b).1 h hc).trans (if_neg (by rw [hs]; decide)))

end

end

section
variable (hr : s.power.phase = .ready)
include hr

theorem exec_jobSwitchOut (j : Nat) : exec (.jobSwitchOut j) s = .next (s.switchOut j) := congrArg _ (if_pos (State.on_eq s hr))

end

/-- What a job is once it is switched out, and what stays (R506). -/
theorem switchedOut_same (s : State) (j : Nat) (b : Job) (area : List Nat) :
    (∃ (v : List Saved) (n : Nat), v.length = (s.ctxsOf j).length ∧ (switchedOut s j b area).job? j = some { b with
      st := .out, stopping := false, saved := v, savePages := area, deques := [], since := n, aged := false }) ∧
    (switchedOut s j b area).mill.fillQ = j :: s.mill.fillQ ∧ (switchedOut s j b area).mem = s.mem ∧ Outside (switchedOut s j b area) s := by
  have hrest := clearCtxs_rest (s.ctxsOf j) s
  refine ⟨⟨_, _, List.length_map _, State.job?_setJob_same _ j _⟩, ?_, ?_, ?_⟩
  · exact congrArg (List.cons j) (congrArg (fun u : State => u.mill.fillQ) hrest :)
  · exact (congrArg State.mem hrest :)
  · exact ⟨(congrArg State.time hrest :), (congrArg State.sec hrest :), (congrArg State.power hrest :), (congrArg State.ports hrest :),
      (congrArg State.host hrest :), (congrArg State.rowErr hrest :), (congrArg State.spares hrest :), (congrArg State.retired hrest :)⟩

section
variable (hr : s.power.phase = .ready) (hj : s.job? j = some b)
include hr hj

/-! ### Switching in -/

theorem exec_jobSwitchIn_of_other (h : b.st ≠ .out ∨ s.turn j b = false ∨ s.fits j b = false) : exec (.jobSwitchIn j) s = .next s := by
  change execJobSwitchIn j s = _
  rw [execJobSwitchIn, State.on_eq s hr, if_pos rfl, State.switchIn, hj]
  refine congrArg _ (if_pos ?_)
  rcases h with h | h | h
  · exact .inl h
  · exact .inr (.inl (by rw [h]; rfl))
  · exact .inr (.inr (by rw [h]; rfl))

/-- A job as it is resident again, and leaves the fill queue (R503, R506). -/
def backIn (s : State) (j : Nat) (b : Job) : State :=
  ({ s with mill := { s.mill with fillQ := s.mill.fillQ.filter (· ≠ j) } } : State).setJob j { b with
    st := .resident, saved := [], savePages := [], jslot := s.freeJslot, placedAt := s.placeOrder }

theorem exec_jobSwitchIn (hst : b.st = .out) (ht : s.turn j b = true) (hf : s.fits j b = true) :
    ∃ t, exec (.jobSwitchIn j) s = .next t ∧ Settles j (backIn s j b) t := by
  change ∃ t, execJobSwitchIn j s = .next t ∧ _
  rw [execJobSwitchIn, State.on_eq s hr, if_pos rfl, State.switchIn, hj]
  dsimp only
  rw [if_neg (by rw [hst, ht, hf]; decide)]
  exact ⟨_, rfl, (Settles.foldl (fun s v => .loadCtx s v) b.saved (backIn s j b)).trans (.same rfl rfl)⟩

/-! ### Waiting and migration -/

theorem exec_fillWaitLimit : exec (.fillWaitLimit j) s = .next
    (if !b.crit && b.st ≠ .resident && decide (b.since + 100000000 ≤ s.ns) then s.setJob j { b with aged := true } else s) := by
  change execFillWaitLimit j s = _
  rw [execFillWaitLimit, State.on_eq s hr, hj, modJob_of_some hj]

theorem exec_pageMigrate (page : Nat) : exec (.pageMigrate j page) s = .next (if b.st = .out then s.migrate j page b else s) := by
  change execPageMigrate j page s = _
  rw [execPageMigrate, State.on_eq s hr, hj]

end

theorem copyPage_paged (hj : s.job? j = some b) {n : Nat} {e : Word} {old new : Loc} {m : List Host.Cell}
    (hm : Mem.setBytes s.mem new.key (s.bytesAt old.key (2 ^ 21)) = m) {bad : List Nat} (hbad : s.poisonMoved old.key new.key (2 ^ 21) = bad) :
    s.copyPage j false n e old new =
      (({ s with mem := m, poison := bad } : State).setJob j { b with pages := b.pages.set n e 0 }).retarget j old.key new.key := by
  have hju : ({ s with mem := m, poison := bad } : State).job? j = some b := hj
  unfold State.copyPage
  rw [hm, hbad]
  exact congrArg (fun u : State => u.retarget j old.key new.key) (modJob_of_some hju _)

/-- A page that moves upward takes its bytes and its poison along, and its entry names the new place (R439). -/
theorem migrate_of_place (hj : s.job? j = some b) {page i tier ppn : Nat} {r : Region} {old new : Loc} (hp : page < 2 ^ 35)
    (hreg : b.regionOf page = some (r, i)) (hold : s.pageLoc (b.pages.get page 0) 0 = some old)
    (hplace : s.placePage s.used r ((b.lspnList.map s.hframe).min?.getD 0 / 8) i = some (tier, ppn)) (hfix : r.fix = false) (h0 : tier ≠ 0)
    (hle : r.tier ≤ tier) (hlt : tier < entTier (b.pages.get page 0)) (hnew : s.pageLoc (entryOf r tier ppn) 0 = some new)
    {m : List Host.Cell} (hm : Mem.setBytes s.mem new.key (s.bytesAt old.key (2 ^ 21)) = m) {bad : List Nat} (hbad : s.poisonMoved old.key new.key (2 ^ 21) = bad) :
    s.migrate j page b =
      (({ s with mem := m, poison := bad } : State).setJob j { b with pages := b.pages.set page (entryOf r tier ppn) 0 }).retarget j old.key new.key := by
  have hn : decide (2 ^ 35 ≤ page) = false := decide_eq_false (Nat.not_le.2 hp)
  unfold State.migrate
  rw [hn, hreg]
  simp only [Bool.false_eq_true, if_false, hplace]
  unfold State.migrateTo
  have hgo : (r.fix || decide (entTier (b.pages.get page 0) ≤ tier) || decide (tier < r.tier)) = false := by
    rw [hfix, decide_eq_false (Nat.not_le.2 hlt), decide_eq_false (Nat.not_lt.2 hle)]
    rfl
  simp only [hgo, Bool.false_eq_true, if_false, h0]
  rw [hold, hnew]
  exact copyPage_paged hj hm hbad

/-- Settles O28: each command by its conditions; what sets up the contexts again leaves the job's record. -/
theorem jobSwitchingAndMigration : Obligations.JobSwitchingAndMigration := by
  unfold Obligations.JobSwitchingAndMigration
  refine ⟨fun s j b hr hj => ?_, fun s j page b r i tier ppn old new hr hj => ⟨fun h => ?_, fun hst hp hreg hold hplace hfix h0 hle hlt hnew => ?_⟩⟩
  · intro begins
    have hx := exec_jobSwitchOut hr j
    refine ⟨fun hb hs => ?_, fun hb hs area ha => ?_, fun hb hs hn => ?_, fun hb => hx.trans (congrArg _ (switchOut_of_stays hj hb)), fun hst ht hf => ?_,
      exec_jobSwitchIn_of_other hr hj, fun hc hst hs => ?_, fun h => ?_⟩
    · exact hx.trans (congrArg _ (switchOut_of_started hj hb hs))
    · obtain ⟨⟨v, n, hlen, hjob⟩, hfill, hmem, hout⟩ := switchedOut_same s j b area
      exact ⟨_, _, hx.trans (congrArg _ (switchOut_of_idle hj hb hs ha)), hjob, rfl, rfl, rfl, rfl, rfl, hlen, hfill, hmem, hout⟩
    · exact hx.trans (congrArg _ (switchOut_of_idle hj hb hs hn))
    · obtain ⟨t, hx, hw⟩ := exec_jobSwitchIn hr hj hst ht hf
      obtain ⟨f, hjw⟩ := hw.job _ (State.job?_setJob_same ..)
      have hout : Outside t (backIn s j b) := outside_of_places hw.rest
      refine ⟨t, _, hx, hjw, rfl, rfl, rfl, ?_, hout⟩
      rw [show t.mill.fillQ = s.mill.fillQ.filter (· ≠ j) from (congrArg (fun u : State => u.mill.fillQ) hw.rest :)]
      simp
    · exact (exec_fillWaitLimit hr hj).trans (congrArg _ (if_pos (by simp [hc, hst, hs])))
    · refine (exec_fillWaitLimit hr hj).trans (congrArg _ (if_neg ?_))
      rcases h with h | h | h
      · simp [h]
      · simp [h]
      · simp [Nat.not_le.2 h]
  · exact (exec_pageMigrate hr hj page).trans (congrArg _ (if_neg h))
  · intro u
    exact (exec_pageMigrate hr hj page).trans (congrArg _ ((if_pos hst).trans
      (migrate_of_place hj hp hreg hold hplace hfix h0 hle hlt hnew rfl rfl)))

end Sys2Proof.Laws
end

section
/-! PROOFS. Operations start on the engines (R378, R379, R505). -/

namespace Sys2Proof.Laws

open Sys2Proof.Machine Sys2Proof.Claims

variable {s u : State} {e : Engine} {q : QOp}

/-! ### An operation that is no array operation, with nothing else running -/

theorem runStruck_of_none (s : State) (q : QOp) : runStruck s q [] = runOp s q := rfl

theorem unordered_of_none (h : s.runs = []) : s.unordered = [] := by
  rw [State.unordered, h]
  rfl

theorem runSeen_of_none (h : s.runs = []) (q : QOp) : runSeen s q [] = runOp s q := by
  rw [runSeen, unordered_of_none h]
  rfl

theorem overtake_of_none (h : s.runs = []) (ws : List Host.Cell) : s.overtake ws = s := if_pos h

section
variable (hs : q.shape = none) (hd : q.isDrain = false)
include hs hd

theorem readsStore_of_other (s t : State) : readsStore s t q = false := by
  rw [readsStore, hs, hd]
  rfl

theorem checks_of_other (s t : State) (r : Run) : checks s t q r [] = (t, r, none) := by
  rw [checks, readsStore_of_other hs hd]
  exact if_neg (by rw [Bool.and_false]; decide)

theorem journalOp_of_other (ho : q.isOpen = false) (s t : State) : journalOp s t q = t := by
  rw [journalOp, hs, hd, ho]
  rfl

/-- Such an operation leaves its queue and runs, with what its run gives (R379, R380). -/
theorem startOp_of_other (ho : q.isOpen = false) (hu : s.setSpn q.lspn ((s.spn q.lspn).setQueue e (((s.spn q.lspn).queue e).erase q)) = u)
    (hr : u.runs = []) (hk : (runOp u q).1 = u) : s.startOp e q [] = u.setSpn q.lspn { u.spn q.lspn with
      running := (u.spn q.lspn).running ++ [(e, { rop u q (runOp u q).2 with
        residue := none, closes := closing u u q, view := Mem.setAll u.mem u.unordered })] } := by
  obtain ⟨o2, ho2⟩ : ∃ r, (runOp u q).2 = r := ⟨_, rfl⟩
  have hrun : runSeen u q [] = (u, o2) := (runSeen_of_none hr q).trans (Prod.ext hk ho2)
  unfold State.startOp
  extract_lets x v o fin r s1 s1' _ y s2 _ z
  have hv : v = u := hu
  clear_value v
  subst hv
  have hov : o = (v, o2) := hrun
  clear_value o
  subst hov
  have hfin : fin = (v, o2, none) := by
    unfold fin
    rw [checks_of_other hs hd, ite_self]
  clear_value fin
  subst hfin
  have hs1 : s1 = v := by
    unfold s1
    rw [journalOp_of_other hs hd ho, ite_self]
  clear_value s1
  subst hs1
  have hs1' : s1' = s1 := if_neg (by rw [hd]; exact fun h => nomatch h.1)
  clear_value s1'
  subst hs1'
  have hs2 : s2 = s1' := overtake_of_none hr _
  clear_value s2
  subst hs2
  subst ho2
  rfl

end

/-! ### Turns -/

theorem exec_operationStart (hr : s.power.phase = .ready) {w : Who} {held : Bool} (hq : s.pick w.lspn.toNat w.ctx.toNat e held = some q)
    (us : List Upset) : exec (.operationStart w e held us) s = .next (if s.turnOf w.lspn.toNat e ≠ some w.ctx.toNat then s
      else ((s.passOver e q).served w.lspn.toNat e w.ctx.toNat).startOp e q us) := by
  change execOperationStart w e held us s = _
  rw [execOperationStart, State.on_eq s hr, hq]

theorem exec_operationStart_of_none {w : Who} {held : Bool} (hq : s.pick w.lspn.toNat w.ctx.toNat e held = none) (us : List Upset) :
    exec (.operationStart w e held us) s = .next s := by
  change execOperationStart w e held us s = _
  rw [execOperationStart, hq]
  cases s.on <;> rfl

/-- A context of the critical class that could be served has the turn go to its class (R505). -/
theorem turnOf_critical {l c d : Nat} (hc : c < 4) (hs : s.startable l e c = true) (hk : s.critical (s.ctx l c).job = true)
    (ht : s.turnOf l e = some d) : s.critical (s.ctx l d).job = true := by
  obtain ⟨first, hf⟩ : ∃ n, (s.spn l).turns.get (turnNo e) 0 = n := ⟨_, rfl⟩
  have hmem : c ∈ ((List.range 4).map fun i => (first + i) % 4).filter (s.startable l e) := by
    refine List.mem_filter.2 ⟨List.mem_map.2 ⟨(c + 4 - first % 4) % 4, List.mem_range.2 (by omega), by omega⟩, hs⟩
  unfold State.turnOf at ht
  extract_lets first' cs at ht
  have hcs : c ∈ cs := by rw [← hf] at hmem; exact hmem
  obtain ⟨d', hd'⟩ : ∃ d', cs.find? (fun c => s.critical (s.ctx l c).job) = some d' :=
    Option.isSome_iff_exists.1 (List.find?_isSome.2 ⟨c, hcs, hk⟩)
  rw [hd', Option.some_or] at ht
  cases ht
  exact List.find?_some (p := fun c => s.critical (s.ctx l c).job) hd'

/-- Settles O17: nothing else runs, so nothing is seen or overtaken, and an operation that is no array operation is not journalled. -/
theorem operationStartRuns : Obligations.OperationStartRuns := by
  unfold Obligations.OperationStartRuns
  refine ⟨fun s w e held q hr hq => ⟨fun ht => ?_, fun ht => ?_⟩, fun s l c d e => turnOf_critical, fun s w e held us hq => ?_⟩
  · exact (exec_operationStart hr hq []).trans (congrArg _ (if_pos ht))
  · intro v u hruns hs ho hd hk
    have hx := (exec_operationStart hr hq []).trans (congrArg _ (if_neg (not_not.2 ht)))
    exact ⟨_, hx.trans (congrArg _ (startOp_of_other hs hd ho rfl hruns hk)), rfl, rfl, rfl, rfl, rfl⟩
  · exact exec_operationStart_of_none hq us

end Sys2Proof.Laws
end

section
/-! PROOFS. Knots, captured waits and joins, and the end of an operation (R380 to R383). -/

namespace Sys2Proof.Laws

open Sys2Proof.Machine Sys2Proof.Claims

variable {s t u : State} {x : Ctx} {l c k arm : Nat} {code : Byte} {bad : Bool}

/-! ### Spindles and contexts of tables without repeats -/

theorem spn_setSpn_same (h : Rising s.spindles) (l : Nat) (x : Spindle) : (s.setSpn l x).spn l = x :=
  Table.get_set_same (tableRising_zero h) l x {}

theorem spn_setSpn_other (h : Rising s.spindles) {l n : Nat} (hn : l ≠ n) (x : Spindle) : (s.setSpn l x).spn n = s.spn n :=
  Table.get_set_other (tableRising_zero h) x {} hn

theorem spn_setCtx_same (h : Rising s.spindles) (l c : Nat) (x : Ctx) :
    (s.setCtx l c x).spn l = { s.spn l with ctxs := (s.spn l).ctxs.set c x {} } := spn_setSpn_same h l _

theorem ctx_setCtx_same (h : Knotted s l c) (x : Ctx) : (s.setCtx l c x).ctx l c = x := by
  obtain ⟨hs, hc, -⟩ := h
  rw [State.ctx, spn_setCtx_same hs]
  exact Table.get_set_same (tableRising_zero hc) c x {}

theorem knotted_setCtx (h : Knotted s l c) (hx : Rising x.knots) : Knotted (s.setCtx l c x) l c := by
  refine ⟨rising_set h.1 _ _ _, ?_, ?_⟩
  · rw [spn_setCtx_same h.1]
    exact rising_set h.2.1 _ _ _
  · rw [ctx_setCtx_same h]
    exact hx

/-! ### Knots -/

theorem knot_zero (x : Ctx) : x.knot 0 = {} := rfl

theorem setKnot_zero (x : Ctx) (v : Knot) : x.setKnot 0 v = x := rfl

section
variable (hx : Rising x.knots)
include hx

theorem knot_setKnot_same (hk : k ≠ 0) (v : Knot) : (x.setKnot k v).knot k = v := by
  rw [Ctx.knot, Ctx.setKnot, if_neg hk, if_neg hk]
  exact Table.get_set_same (tableRising_zero hx) k v {}

theorem knot_setKnot_other {j : Nat} (hj : j ≠ k) (v : Knot) : (x.setKnot k v).knot j = x.knot j := by
  unfold Ctx.knot Ctx.setKnot
  split
  · rfl
  · split
    · rfl
    · exact Table.get_set_other (tableRising_zero hx) v {} hj.symm

theorem rising_setKnot (k : Nat) (v : Knot) : Rising (x.setKnot k v).knots := by
  unfold Ctx.setKnot
  split
  · exact hx
  · exact rising_set hx _ _ _

end

/-! ### One signal -/

/-- A knot that one of its armings is signalled to. -/
def takes (v : Knot) (arm : Nat) (code : Byte) (bad : Bool) : Knot :=
  if v.pending = true ∧ v.arm = arm then { v with pending := false, code := code, bad := bad } else v

theorem takes_of_done {v : Knot} (h : v.pending = false) (arm : Nat) (code : Byte) (bad : Bool) : takes v arm code bad = v :=
  if_neg fun hp => by rw [h] at hp; cases hp.1

/-- A join after an arming of a knot is signalled. -/
def joinTakes (k arm : Nat) (code : Byte) (bad : Bool) (j : Join) : Join := { j with waits := j.waits.map fun w => w.resolve k arm code bad }

/-- A context whose knot one of its armings is signalled to (R380). -/
def ctxKnotTakes (x : Ctx) (k arm : Nat) (code : Byte) (bad : Bool) : Ctx :=
  if (x.knot k).pending && (x.knot k).arm = arm then x.setKnot k { x.knot k with pending := false, code := code, bad := bad } else x

/-- A context after an arming of a knot is signalled (R380, R383). -/
def ctxTakes (x : Ctx) (k arm : Nat) (code : Byte) (bad : Bool) : Ctx :=
  { ctxKnotTakes x k arm code bad with joins := (ctxKnotTakes x k arm code bad).joins.map (joinTakes k arm code bad) }

theorem setKnot_joins (x : Ctx) (k : Nat) (v : Knot) : (x.setKnot k v).joins = x.joins := by
  unfold Ctx.setKnot
  split <;> rfl

@[simp] theorem ctxTakes_joins (x : Ctx) (k arm : Nat) (code : Byte) (bad : Bool) :
    (ctxTakes x k arm code bad).joins = x.joins.map (joinTakes k arm code bad) := by
  refine congrArg (List.map _) ?_
  unfold ctxKnotTakes
  split
  · exact setKnot_joins ..
  · rfl

section
variable (hx : Rising x.knots)
include hx

theorem rising_ctxTakes (k arm : Nat) (code : Byte) (bad : Bool) : Rising (ctxTakes x k arm code bad).knots := by
  change Rising (ctxKnotTakes x k arm code bad).knots
  unfold ctxKnotTakes
  split
  · exact rising_setKnot hx _ _
  · exact hx

theorem knot_ctxTakes_same (k arm : Nat) (code : Byte) (bad : Bool) : (ctxTakes x k arm code bad).knot k = takes (x.knot k) arm code bad := by
  change (ctxKnotTakes x k arm code bad).knot k = _
  unfold ctxKnotTakes takes
  by_cases h : (x.knot k).pending = true ∧ (x.knot k).arm = arm
  · have hk : k ≠ 0 := fun e => by
      rw [e] at h
      cases h.1
    rw [if_pos (by rw [h.1, decide_eq_true h.2]; rfl), if_pos h]
    exact knot_setKnot_same hx hk _
  · rw [if_neg (by simpa using h), if_neg h]

theorem knot_ctxTakes_other {j : Nat} (hj : j ≠ k) (arm : Nat) (code : Byte) (bad : Bool) :
    (ctxTakes x k arm code bad).knot j = x.knot j := by
  change (ctxKnotTakes x k arm code bad).knot j = _
  unfold ctxKnotTakes
  split
  · exact knot_setKnot_other hx hj _
  · rfl

end

/-- The queued operations of a spindle after an arming of a knot of a context is signalled. -/
def queueTakes (c k arm : Nat) (code : Byte) (bad : Bool) (q : List QOp) : List QOp :=
  q.map fun o => if o.ctx = c then { o with wait := o.wait.resolve k arm code bad } else o

theorem queue_mapQueues (x : Spindle) (f : List QOp → List QOp) (g : Engine) : (x.mapQueues f).queue g = f (x.queue g) := by
  cases g <;> rfl

section
variable (h : Knotted s l c)
include h

omit h in
theorem signalOne_eq (k arm : Nat) (code : Byte) (bad : Bool) : s.signalOne l c k arm code bad =
    let v := s.setCtx l c (ctxTakes (s.ctx l c) k arm code bad)
    v.setSpn l ((v.spn l).mapQueues (queueTakes c k arm code bad)) := rfl

theorem ctx_signalOne (k arm : Nat) (code : Byte) (bad : Bool) :
    (s.signalOne l c k arm code bad).ctx l c = ctxTakes (s.ctx l c) k arm code bad := by
  have hv := knotted_setCtx h (rising_ctxTakes h.2.2 k arm code bad)
  rw [signalOne_eq, State.ctx, spn_setSpn_same hv.1]
  exact ctx_setCtx_same h _

theorem queue_signalOne (k arm : Nat) (code : Byte) (bad : Bool) (g : Engine) :
    ((s.signalOne l c k arm code bad).spn l).queue g = queueTakes c k arm code bad ((s.spn l).queue g) := by
  have hv := knotted_setCtx h (rising_ctxTakes h.2.2 k arm code bad)
  rw [signalOne_eq, spn_setSpn_same hv.1, queue_mapQueues, spn_setCtx_same h.1]
  rfl

theorem knotted_signalOne (k arm : Nat) (code : Byte) (bad : Bool) : Knotted (s.signalOne l c k arm code bad) l c := by
  have hv := knotted_setCtx h (rising_ctxTakes h.2.2 k arm code bad)
  refine ⟨?_, ?_, ?_⟩
  · rw [signalOne_eq]
    exact rising_set hv.1 _ _ _
  · rw [signalOne_eq, spn_setSpn_same hv.1]
    exact hv.2.1
  · rw [ctx_signalOne h]
    exact rising_ctxTakes h.2.2 ..

end

/-! ### Joins -/

/-- A context after a ready join signals its knot (R383). -/
def joined (x : Ctx) (j : Join) : Ctx := ctxTakes { x with joins := x.joins.erase j } j.kout j.arm j.code (j.waits.any (·.bad))

section
variable (hx : Rising x.knots)
include hx

theorem knot_joined_same (j : Join) : (joined x j).knot j.kout = takes (x.knot j.kout) j.arm j.code (j.waits.any (·.bad)) :=
  knot_ctxTakes_same (x := { x with joins := x.joins.erase j }) hx ..

theorem knot_joined_other {j : Join} (hk : k ≠ j.kout) : (joined x j).knot k = x.knot k :=
  knot_ctxTakes_other (x := { x with joins := x.joins.erase j }) hx hk ..

end

theorem joined_joins (x : Ctx) (j : Join) :
    (joined x j).joins = (x.joins.erase j).map (joinTakes j.kout j.arm j.code (j.waits.any (·.bad))) := ctxTakes_joins ..

/-- What ready joins keep of a context, all of them keep. -/
theorem ctx_settleJoins_of {P : Ctx → Prop} (hP : ∀ x j, Rising x.knots → j ∈ x.joins → P x → P (joined x j)) :
    ∀ (n : Nat) {s : State}, Knotted s l c → P (s.ctx l c) → P ((s.settleJoins l c n).ctx l c)
  | 0, _, _, hp => hp
  | n + 1, s, h, hp => by
    unfold State.settleJoins
    split
    · exact hp
    next j hj =>
      have hm := List.mem_of_find?_eq_some hj
      have hk := knotted_setCtx (x := { s.ctx l c with joins := (s.ctx l c).joins.erase j }) h h.2.2
      refine ctx_settleJoins_of hP n (knotted_signalOne hk ..) ?_
      rw [ctx_signalOne hk, ctx_setCtx_same h]
      exact hP _ j h.2.2 hm hp

/-- With as many steps as there are joins none is left that is ready. -/
theorem joins_settleJoins : ∀ (n : Nat) {s : State}, Knotted s l c → (s.ctx l c).joins.length ≤ n →
    ∀ j ∈ ((s.settleJoins l c n).ctx l c).joins, j.ready = false
  | 0, s, _, hn, j, hj => by
    replace hj : j ∈ (s.ctx l c).joins := hj
    rw [List.length_eq_zero_iff.1 (Nat.le_zero.1 hn)] at hj
    cases hj
  | n + 1, s, h, hn, j, hj => by
    unfold State.settleJoins at hj
    split at hj
    next hnone => exact Bool.eq_false_iff.2 (List.find?_eq_none.1 hnone j hj)
    next i hi =>
      have hm := List.mem_of_find?_eq_some hi
      have hk := knotted_setCtx (x := { s.ctx l c with joins := (s.ctx l c).joins.erase i }) h h.2.2
      refine joins_settleJoins n (knotted_signalOne hk ..) ?_ j hj
      rw [ctx_signalOne hk, ctx_setCtx_same h, ctxTakes_joins, List.length_map, List.length_erase_of_mem hm]
      omega

/-! ### A signal and what follows from it -/

section
variable (h : Knotted s l c)
include h

/-- A knot that is signalled stays as it is then: no join signals it again. -/
theorem knot_signalKnot_of_taken (hp : (takes ((s.ctx l c).knot k) arm code (decide (dispOf code ≠ .go))).pending = false) :
    ((s.signalKnot l c k arm code).ctx l c).knot k = takes ((s.ctx l c).knot k) arm code (decide (dispOf code ≠ .go)) := by
  obtain ⟨v, hv⟩ : ∃ v, takes ((s.ctx l c).knot k) arm code (decide (dispOf code ≠ .go)) = v := ⟨_, rfl⟩
  rw [hv] at hp ⊢
  refine ctx_settleJoins_of (P := fun x => x.knot k = v) (fun x j hx _ hv => ?_) _ (knotted_signalOne h ..) ?_
  · by_cases hj : k = j.kout
    · subst hj
      rw [← hv] at hp
      exact (knot_joined_same hx j).trans ((takes_of_done hp ..).trans hv)
    · exact (knot_joined_other hx hj).trans hv
  · rw [ctx_signalOne h, knot_ctxTakes_same h.2.2, hv]

/-- A knot that neither the signal nor a join names stays as it is. -/
theorem knot_signalKnot_of_stays (hk : takes ((s.ctx l c).knot k) arm code (decide (dispOf code ≠ .go)) = (s.ctx l c).knot k)
    (hn : ∀ j ∈ (s.ctx l c).joins, j.kout ≠ k) : ((s.signalKnot l c k arm code).ctx l c).knot k = (s.ctx l c).knot k := by
  refine (ctx_settleJoins_of (P := fun x => x.knot k = (s.ctx l c).knot k ∧ ∀ j ∈ x.joins, j.kout ≠ k) (fun x j hx hj hv => ?_) _
    (knotted_signalOne h ..) ⟨?_, ?_⟩).1
  · obtain ⟨hv, hn⟩ := hv
    refine ⟨(knot_joined_other hx (hn j hj).symm).trans hv, fun i hi => ?_⟩
    rw [joined_joins] at hi
    obtain ⟨i', hi', rfl⟩ := List.mem_map.1 hi
    exact hn i' (List.mem_of_mem_erase hi')
  · rw [ctx_signalOne h, knot_ctxTakes_same h.2.2, hk]
  · rw [ctx_signalOne h, ctxTakes_joins]
    intro j hj
    obtain ⟨i, hi, rfl⟩ := List.mem_map.1 hj
    exact hn i hi

theorem joins_signalKnot : ∀ j ∈ ((s.signalKnot l c k arm code).ctx l c).joins, j.ready = false := by
  refine joins_settleJoins _ (knotted_signalOne h ..) ?_
  rw [ctx_signalOne h, ctxTakes_joins, List.length_map]

theorem signalKnot_of_no_joins (hj : (s.ctx l c).joins = []) :
    s.signalKnot l c k arm code = s.signalOne l c k arm code (decide (dispOf code ≠ .go)) := by
  refine settleJoins_of_none ?_ _
  rw [ctx_signalOne h, ctxTakes_joins, hj]
  rfl

/-- With one join, which the signal leaves waiting, the signal is all. -/
theorem signalKnot_of_waiting {j : Join} (hj : (s.ctx l c).joins = [j]) (hr : (joinTakes k arm code (decide (dispOf code ≠ .go)) j).ready = false) :
    s.signalKnot l c k arm code = s.signalOne l c k arm code (decide (dispOf code ≠ .go)) := by
  refine settleJoins_of_none ?_ _
  rw [ctx_signalOne h, ctxTakes_joins, hj, List.map_singleton, List.find?_cons, hr]
  rfl

/-- With one join, which the signal makes ready, the join signals its own knot. -/
theorem ctx_signalKnot_of_ready {j j' : Join} (hj : (s.ctx l c).joins = [j]) (hj' : joinTakes k arm code (decide (dispOf code ≠ .go)) j = j')
    (hr : j'.ready = true) : (s.signalKnot l c k arm code).ctx l c =
      joined (ctxTakes (s.ctx l c) k arm code (decide (dispOf code ≠ .go))) j' := by
  have ho := knotted_signalOne h k arm code (decide (dispOf code ≠ .go))
  have hc := ctx_signalOne h k arm code (decide (dispOf code ≠ .go))
  unfold State.signalKnot
  generalize s.signalOne l c k arm code (decide (dispOf code ≠ .go)) = v at ho hc
  rw [← hc, hj]
  have hjoins : (v.ctx l c).joins = [j'] := by rw [hc, ctxTakes_joins, hj, List.map_singleton, hj']
  have hfind : (v.ctx l c).joins.find? Join.ready = some j' := by rw [hjoins, List.find?_cons, hr]
  have hk := knotted_setCtx (x := { v.ctx l c with joins := (v.ctx l c).joins.erase j' }) ho ho.2.2
  rw [List.length_singleton, State.settleJoins, hfind]
  exact (ctx_signalOne hk ..).trans (by rw [ctx_setCtx_same ho]; rfl)

end

/-! ### Tables of knots and captured waits -/

theorem knot_clauses (x : Ctx) (k : Nat) (v : Knot) (hx : Rising x.knots) :
    x.setKnot 0 v = x ∧ x.knot 0 = {} ∧ (k ≠ 0 → (x.setKnot k v).knot k = v) ∧
      (k ≠ 0 → (x.armKnot k).knot k = { x.knot k with pending := true, arm := (x.knot k).arm + 1 }) ∧
      (∀ j, j ≠ k → (x.setKnot k v).knot j = x.knot j) ∧
      ((x.knot k).pending = false → x.capture k = { knot := k, arm := (x.knot k).arm, done := some (x.knot k).code, bad := (x.knot k).bad }) ∧
      ((x.knot k).pending = true → (x.capture k).done = none) := by
  refine ⟨setKnot_zero x v, knot_zero x, fun hk => knot_setKnot_same hx hk v, fun hk => knot_setKnot_same hx hk _,
    fun j hj => knot_setKnot_other hx hj v, fun hp => ?_, capture_done_of_pending⟩
  rw [Ctx.capture]
  simp only [hp, Bool.false_eq_true, if_false, Bool.not_false, Bool.true_and]

theorem resolve_clauses (w : Wait) (arm : Nat) (c : Byte) (bad : Bool) :
    (w.done = none → w.resolve w.knot w.arm c bad = { w with done := some c, bad := bad }) ∧
      ∀ k, w.done ≠ none ∨ w.knot ≠ k ∨ w.arm ≠ arm → w.resolve k arm c bad = w := by
  refine ⟨fun h => if_pos ⟨h, rfl, rfl⟩, fun k h => if_neg fun ⟨hd, hk, ha⟩ => ?_⟩
  rcases h with h | h | h
  · exact h hd
  · exact h hk
  · exact h ha

theorem signalled_pending {v : Knot} (hp : v.pending = true) (ha : v.arm = arm) (code : Byte) : (signalled v arm code).pending = false := by
  rw [signalled, if_pos ⟨hp, ha⟩]

/-- A signal of an arming of a knot, by the joins of the context. -/
theorem signalKnot_clauses (h : Knotted s l c) :
    let x := s.ctx l c
    let t := s.signalKnot l c k arm code
    let bad := decide (dispOf code ≠ .go)
    ((x.knot k).pending = true → (x.knot k).arm = arm → (t.ctx l c).knot k = signalled (x.knot k) arm code) ∧
    ((x.knot k).pending = true → (x.knot k).arm ≠ arm → (∀ j ∈ x.joins, j.kout ≠ k) → (t.ctx l c).knot k = x.knot k) ∧
    (x.joins = [] → ∀ g, (t.spn l).queue g = resolved ((s.spn l).queue g) c k arm code) ∧
    (∀ j ∈ (t.ctx l c).joins, j.ready = false) ∧
    (∀ j, x.joins = [j] → j.kout ≠ k → j.kout ≠ 0 →
      let ws := j.waits.map fun w => w.resolve k arm code bad
      let j' : Join := { j with waits := ws }
      (j'.ready = false → (t.ctx l c).joins = [j'] ∧ (t.ctx l c).knot j.kout = x.knot j.kout) ∧
      (j'.ready = true → (t.ctx l c).joins = [] ∧
        (t.ctx l c).knot j.kout = if (x.knot j.kout).pending = true ∧ (x.knot j.kout).arm = j.arm then { x.knot j.kout with
          pending := false
          code := j'.code
          bad := ws.any (·.bad) } else x.knot j.kout)) := by
  intro x t bad
  refine ⟨fun hp ha => knot_signalKnot_of_taken h (signalled_pending hp ha code), fun _ ha hn => ?_, fun hj g => ?_, joins_signalKnot h,
    fun j hj hjk _ => ?_⟩
  · exact knot_signalKnot_of_stays h (if_neg fun hp => ha hp.2) hn
  · rw [show t = _ from signalKnot_of_no_joins h hj]
    exact queue_signalOne h ..
  · intro ws j'
    refine ⟨fun hr => ?_, fun hr => ?_⟩
    · rw [show t = _ from signalKnot_of_waiting h hj hr, ctx_signalOne h, ctxTakes_joins, show (s.ctx l c).joins = [j] from hj]
      exact ⟨rfl, knot_ctxTakes_other h.2.2 hjk ..⟩
    · have hx := rising_ctxTakes h.2.2 k arm code bad
      rw [show t.ctx l c = _ from ctx_signalKnot_of_ready h hj rfl hr, joined_joins, ctxTakes_joins, show (s.ctx l c).joins = [j] from hj]
      refine ⟨?_, ?_⟩
      · simp [joinTakes]
      · exact (knot_joined_same hx j').trans (by rw [show j'.kout = j.kout from rfl, knot_ctxTakes_other h.2.2 hjk]; rfl)

end Sys2Proof.Laws
end

section
/-! PROOFS. The end of an operation, and its knot (R380). -/

namespace Sys2Proof.Laws

open Sys2Proof.Machine Sys2Proof.Claims

variable {s t u : State} {l c : Nat}

/-! ### What the end of an operation keeps of a context -/

/-- The knots and joins of a context and the queues of its spindle stay, and the tables stay without repeats. -/
structure SameKnots (l c : Nat) (s t : State) : Prop where
  knotted : Knotted t l c
  knots : (t.ctx l c).knots = (s.ctx l c).knots
  joins : (t.ctx l c).joins = (s.ctx l c).joins
  queue : ∀ g, (t.spn l).queue g = (s.spn l).queue g

namespace SameKnots

theorem refl (h : Knotted s l c) : SameKnots l c s s := ⟨h, rfl, rfl, fun _ => rfl⟩

theorem trans (h : SameKnots l c s t) (h' : SameKnots l c t u) : SameKnots l c s u :=
  ⟨h'.knotted, h'.knots.trans h.knots, h'.joins.trans h.joins, fun g => (h'.queue g).trans (h.queue g)⟩

theorem of_spindles (h : SameKnots l c s t) (hu : u.spindles = t.spindles) : SameKnots l c s u := by
  have hspn : u.spn l = t.spn l := congrArg (fun x : Table Spindle => x.get l {}) hu
  refine ⟨?_, ?_, ?_, fun g => ?_⟩
  · obtain ⟨hs, hc, hk⟩ := h.knotted
    exact ⟨hu ▸ hs, hspn ▸ hc, by rw [State.ctx, hspn]; exact hk⟩
  · rw [State.ctx, hspn]
    exact h.knots
  · rw [State.ctx, hspn]
    exact h.joins
  · rw [hspn]
    exact h.queue g

/-- A change of a spindle that keeps its contexts and its queues. -/
theorem setSpn (h : SameKnots l c s t) {x : Spindle} (hc : x.ctxs = (t.spn l).ctxs) (hq : ∀ g, x.queue g = (t.spn l).queue g) :
    SameKnots l c s (t.setSpn l x) := by
  have hspn := spn_setSpn_same h.knotted.1 l x
  have hctx : (t.setSpn l x).ctx l c = t.ctx l c := by rw [State.ctx, hspn, hc]; rfl
  refine ⟨⟨rising_set h.knotted.1 _ _ _, ?_, ?_⟩, ?_, ?_, fun g => ?_⟩
  · rw [hspn, hc]
    exact h.knotted.2.1
  · rw [hctx]
    exact h.knotted.2.2
  · rw [hctx]
    exact h.knots
  · rw [hctx]
    exact h.joins
  · rw [hspn]
    exact (hq g).trans (h.queue g)

theorem setCtx (h : SameKnots l c s t) {x : Ctx} (hk : x.knots = (t.ctx l c).knots) (hj : x.joins = (t.ctx l c).joins) :
    SameKnots l c s (t.setCtx l c x) := by
  refine ⟨knotted_setCtx h.knotted (hk ▸ h.knotted.2.2), ?_, ?_, fun g => ?_⟩
  · rw [ctx_setCtx_same h.knotted]
    exact hk.trans h.knots
  · rw [ctx_setCtx_same h.knotted]
    exact hj.trans h.joins
  · rw [spn_setCtx_same h.knotted.1]
    exact h.queue g

/-- A context of another spindle is another context. -/
theorem setCtx_other (h : SameKnots l c s t) {n : Nat} (hn : n ≠ l) (m : Nat) (x : Ctx) : SameKnots l c s (t.setCtx n m x) := by
  have hspn : (t.setCtx n m x).spn l = t.spn l := spn_setSpn_other h.knotted.1 hn _
  have hctx : (t.setCtx n m x).ctx l c = t.ctx l c := by rw [State.ctx, hspn]; rfl
  refine ⟨⟨rising_set h.knotted.1 _ _ _, ?_, ?_⟩, ?_, ?_, fun g => ?_⟩
  · rw [hspn]
    exact h.knotted.2.1
  · rw [hctx]
    exact h.knotted.2.2
  · rw [hctx]
    exact h.knots
  · rw [hctx]
    exact h.joins
  · rw [hspn]
    exact h.queue g

theorem addFlags (h : SameKnots l c s t) {q : QOp} (hq : q.ctx = c) (f : Flags) : SameKnots l c s (t.addFlags q f) := by
  subst hq
  by_cases hl : q.lspn = l
  · subst hl
    exact h.setCtx rfl rfl
  · exact h.setCtx_other hl _ _

end SameKnots

/-! ### What the end of an operation leaves alone -/

/-- The state without spindles, frames, jobs and packets. -/
def sansOps (s : State) : State := { s with spindles := [], frames := [], mill := {}, fabric := {}, out := [] }

theorem reap_of_none (h : ∀ p ∈ s.mill.jobs, p.2.endWith = none) : s.reap = s := by
  unfold State.reap
  suffices hl : ∀ l : Table Job, (∀ p ∈ l, p.2.endWith = none) → l.foldl (fun s p =>
      match p.2.endWith with
      | some c => if s.idleJob p.1 then s.removeJob p.1 c else s
      | none => s) s = s from hl _ h
  intro l hl
  induction l with
  | nil => rfl
  | cons p l ih =>
    rw [List.foldl_cons, hl p List.mem_cons_self]
    exact ih fun q hq => hl q (List.mem_cons_of_mem p hq)

theorem closeCommit_of_none (h : ∀ p ∈ s.mill.jobs, p.2.tail = none) (j : Nat) : s.closeCommit j = s := by
  unfold State.closeCommit
  split
  · rfl
  next b hb =>
    rw [show b.tail = none from h _ (mem_of_find? hb)]

theorem closeCommits_of_none (h : ∀ p ∈ s.mill.jobs, p.2.tail = none) : s.closeCommits = s := by
  unfold State.closeCommits
  generalize s.mill.jobs = l
  induction l with
  | nil => rfl
  | cons p l ih => rw [List.foldl_cons, closeCommit_of_none h, ih]

theorem engineFault_of_none {r : ROp} (h : r.code = 0) : s.engineFault r = s := by
  unfold State.engineFault
  split
  · rfl
  · exact if_pos (.inl h)

/-- A signal changes spindles alone. -/
theorem signalKnot_rest (s : State) (l c k arm : Nat) (code : Byte) : { s.signalKnot l c k arm code with spindles := s.spindles } = s := by
  unfold State.signalKnot
  obtain ⟨v, hv⟩ : ∃ v, s.signalOne l c k arm code (decide (dispOf code ≠ .go)) = v := ⟨_, rfl⟩
  have hrest : { v with spindles := s.spindles } = s := hv ▸ rfl
  rw [hv]
  clear hv
  generalize (s.ctx l c).joins.length = n
  induction n generalizing v with
  | zero => exact hrest
  | succ n ih =>
    unfold State.settleJoins
    split
    · exact hrest
    · exact ih _ hrest

/-- The knot of an operation as it ends, if it has one (R380). -/
def signalOwn (s : State) (l c k arm : Nat) : State := if k = 0 then s else s.signalKnot l c k arm 0

theorem signalOwn_rest (s : State) (l c k arm : Nat) : { signalOwn s l c k arm with spindles := s.spindles } = s := by
  unfold signalOwn
  split
  · rfl
  · exact signalKnot_rest ..

theorem knot_congr {x y : Ctx} (h : x.knots = y.knots) (k : Nat) : x.knot k = y.knot k := by rw [Ctx.knot, Ctx.knot, h]

section
variable (h : Knotted s l c) (hj : (s.ctx l c).joins = [])
include h hj

theorem knot_signalOwn (n arm k : Nat) : ((signalOwn s l c n arm).ctx l c).knot k =
    if k = n ∧ k ≠ 0 then signalled ((s.ctx l c).knot k) arm 0 else (s.ctx l c).knot k := by
  unfold signalOwn
  by_cases hn : n = 0
  · rw [if_pos hn, if_neg fun hk => hk.2 (hk.1.trans hn)]
  · rw [if_neg hn, signalKnot_of_no_joins h hj, ctx_signalOne h]
    by_cases hk : k = n
    · subst hk
      rw [if_pos ⟨rfl, hn⟩]
      exact knot_ctxTakes_same h.2.2 ..
    · rw [if_neg fun hkn => hk hkn.1]
      exact knot_ctxTakes_other h.2.2 hk ..

theorem queue_signalOwn (n arm : Nat) (g : Engine) : ((signalOwn s l c n arm).spn l).queue g =
    if n = 0 then (s.spn l).queue g else resolved ((s.spn l).queue g) c n arm 0 := by
  unfold signalOwn
  split
  · rfl
  · rw [signalKnot_of_no_joins h hj]
    exact queue_signalOne h ..

end

/-- What the end of an operation does to jobs, to a context's knots and to the rest, step by step. -/
structure Shown (l c : Nat) (s t : State) : Prop where
  jobs : (∀ p ∈ s.mill.jobs, p.2.tail = none ∧ p.2.endWith = none) → ∀ p ∈ t.mill.jobs, p.2.tail = none ∧ p.2.endWith = none
  rest : sansOps t = sansOps s
  knots : Knotted s l c → SameKnots l c s t

namespace Shown

theorem same (h : Shown l c s t) (hj : u.mill.jobs = t.mill.jobs) (hr : sansOps u = sansOps t) (hs : u.spindles = t.spindles) :
    Shown l c s u :=
  ⟨fun hp => hj ▸ h.jobs hp, hr.trans h.rest, fun hk => (h.knots hk).of_spindles hs⟩

theorem sansFabric_eq (h : Shown l c s t) (hu : sansFabric u = sansFabric t) : Shown l c s u :=
  h.same (congrArg (fun u : State => u.mill.jobs) hu :) (show sansOps (sansFabric u) = sansOps (sansFabric t) by rw [hu])
    (congrArg State.spindles hu :)

theorem modJob (h : Shown l c s t) (j : Nat) {f : Job → Job} (hf : ∀ b, (f b).tail = b.tail ∧ (f b).endWith = b.endWith) :
    Shown l c s (t.modJob j f) := by
  unfold State.modJob
  split
  next b hb =>
    refine ⟨fun hp p hm => ?_, h.rest, fun hk => (h.knots hk).of_spindles rfl⟩
    rcases put_mem hm with rfl | hm
    · obtain ⟨ht, he⟩ := hf b
      exact ht ▸ he ▸ h.jobs hp _ (mem_of_find? hb)
    · exact h.jobs hp p hm
  · exact h

theorem addFlags (h : Shown l c s t) {q : QOp} (hq : q.ctx = c) (f : Flags) : Shown l c s (t.addFlags q f) :=
  ⟨h.jobs, h.rest, fun hk => (h.knots hk).addFlags hq f⟩

theorem setTile (h : Shown l c s t) (n : Nat) (v : Tile) : Shown l c s (t.setCtx l c ((t.ctx l c).setTile n v)) :=
  ⟨h.jobs, h.rest, fun hk => (h.knots hk).setCtx rfl rfl⟩

end Shown

/-- An operation that ends without a fault, up to its knot: what it shows, and what stays. -/
theorem finishOp_of_ok {e : Engine} {r : ROp} (hf : (s.spn l).running.find? (fun r => r.1 = e) = some (e, r)) (hc : r.code = 0)
    (ha : r.atoms = []) (hj : ∀ p ∈ s.mill.jobs, p.2.tail = none ∧ p.2.endWith = none) :
    ∃ v, s.finishOp l e = signalOwn v l r.q.ctx r.q.kout r.q.karm ∧
      Shown l r.q.ctx { s with mem := Mem.setAll s.mem r.writes, poison := s.healed r.writes } v := by
  obtain ⟨t, ht⟩ : ∃ t, s.finishOp l e = t := ⟨_, rfl⟩
  rw [ht]
  unfold State.finishOp at ht
  split at ht
  next hn =>
    rw [hf] at hn
    cases hn
  next er her =>
    obtain rfl : (e, r) = er := Option.some.inj (hf.symm.trans her)
    extract_lets r' q x v1 v2 v3 v4 v5 v6 v7 v8 v9 at ht
    obtain ⟨shown, hs⟩ : ∃ u, { s with mem := Mem.setAll s.mem r.writes, poison := s.healed r.writes } = u := ⟨_, rfl⟩
    rw [hs]
    have h2 : Shown l q.ctx shown v2 := hs ▸ ⟨fun hp => hp, rfl, fun hk => (SameKnots.refl hk).setSpn rfl fun g => by cases g <;> rfl⟩
    have h3 : v3 = v2 := by
      unfold v3
      rw [show r'.atoms = [] from ha]
      rfl
    have h4 : Shown l q.ctx shown v4 := Shown.modJob (h3 ▸ h2) _ fun _ => ⟨rfl, rfl⟩
    have h5 : Shown l q.ctx shown v5 := h4.addFlags rfl _
    have h6 : Shown l q.ctx shown v6 := h5.sansFabric_eq (sansFabric_sendAll ..)
    clear_value v6
    have h7 : Shown l q.ctx shown v7 := by
      unfold v7
      split
      · exact h6.same rfl rfl rfl
      · exact h6
    clear_value v7
    have h8 : Shown l q.ctx shown v8 := by
      unfold v8
      split
      · exact h7.setTile ..
      · exact h7
    clear_value v8
    refine ⟨v8, ?_, h8⟩
    have h9 : v9 = signalOwn v8 l q.ctx q.kout q.karm := by
      unfold v9 signalOwn
      rw [show r'.code = 0 from hc]
    have hj9 : ∀ p ∈ v9.mill.jobs, p.2.endWith = none := fun p hp => by
      have hmill : v9.mill = v8.mill := h9 ▸ (congrArg State.mill (signalOwn_rest v8 l q.ctx q.kout q.karm) :)
      rw [hmill] at hp
      exact (h8.jobs (hs ▸ hj) p hp).2
    rw [← ht, engineFault_of_none hc, reap_of_none hj9, h9]

/-- Settles O18: the end of an operation keeps the knots until it signals its own, and a signal is followed by the joins it makes ready. -/
theorem knotSignalling : Obligations.KnotSignalling := by
  unfold Obligations.KnotSignalling
  refine ⟨fun s w e hr => ⟨fun hn ht => ?_, fun r hf hc ha hj => ?_⟩, knot_clauses, resolve_clauses, fun s l c k arm code h _ => signalKnot_clauses h⟩
  · refine congrArg _ ((if_pos (State.on_eq s hr)).trans ?_)
    have hfin : s.finishOp w.lspn.toNat e = s := by rw [State.finishOp, hn]
    rw [hfin, closeCommits_of_none ht]
  · obtain ⟨v, hv, hsh⟩ := finishOp_of_ok hf hc ha hj
    have hrest := signalOwn_rest v w.lspn.toNat r.q.ctx r.q.kout r.q.karm
    have hknot := fun h hj => knot_signalOwn (s := v) (l := w.lspn.toNat) (c := r.q.ctx) h hj r.q.kout r.q.karm
    have hqueue := fun h hj => queue_signalOwn (s := v) (l := w.lspn.toNat) (c := r.q.ctx) h hj r.q.kout r.q.karm
    generalize signalOwn v w.lspn.toNat r.q.ctx r.q.kout r.q.karm = t at hv hrest hknot hqueue
    have htail : ∀ p ∈ t.mill.jobs, p.2.tail = none := fun p hp =>
      (hsh.jobs hj p ((congrArg State.mill hrest :) ▸ hp)).1
    refine ⟨t, congrArg _ ((if_pos (State.on_eq s hr)).trans (by rw [hv, closeCommits_of_none htail])), ?_, ?_, ?_, ?_, ?_, ?_, ?_⟩
    · exact (congrArg State.mem hrest :).trans (congrArg State.mem hsh.rest :)
    · exact (congrArg State.poison hrest :).trans (congrArg State.poison hsh.rest :)
    · exact (congrArg State.time hrest :).trans (congrArg State.time hsh.rest :)
    · exact (congrArg State.power hrest :).trans (congrArg State.power hsh.rest :)
    · exact (congrArg State.baro hrest :).trans (congrArg State.baro hsh.rest :)
    · exact (congrArg State.sec hrest :).trans (congrArg State.sec hsh.rest :)
    · intro l x hk hx
      obtain ⟨hkv, hknots, hjoins, hq⟩ := hsh.knots hk
      have hnone := hjoins.trans hx
      refine ⟨fun k => ?_, fun g => ?_⟩
      · rw [hknot hkv hnone, knot_congr hknots]
        rfl
      · rw [hqueue hkv hnone, hq g]
        rfl

end Sys2Proof.Laws
end
